-- ==== Sys2Proof/Word.lean ====
section
/-! DEFINITION. The word types of the module: bytes, 32-bit registers, 64-bit words (00 R5, 03 R64). -/
namespace Sys2Proof

/-- One byte of memory. -/
abbrev Byte := BitVec 8
/-- One vector, uniform or device register (03 R64). -/
abbrev Word := BitVec 32
/-- A 64-bit quantity: a pointer, a doorbell value, an instruction word (03 R60). -/
abbrev Word64 := BitVec 64
/-- One bit per lane of a herd (02 "Herd schedulers and issue"). -/
abbrev LaneMask := BitVec 32

end Sys2Proof
end

