-- ==== Sys2Proof/Syntax.lean ====
section
/-! DEFINITION. The commands of the module: one constructor per row of spec/opcode_table.json, with the row's
operands. What an operand stands for is said in the docstrings of the operand types and of the constructors. -/
namespace Sys2Proof

/-- A herd: its core (0 to 63) and its herd position there (0 to 127) (02 R32). -/
structure HerdRef where
  core : Nat
  pos : Nat
deriving DecidableEq, Repr

/-- A residency slot: core and slot number 0 to 63 (02 R49). -/
structure SlotRef where
  core : Nat
  slot : Nat
deriving DecidableEq, Repr

/-- A context of an instance (10 R240). -/
structure CtxRef where
  inst : Nat
  ctx : Nat
deriving DecidableEq, Repr

/-- A queue: the PF admin queue or a tenant queue of an instance (09 R202). -/
inductive QRef where
  | admin
  | tenant (inst q : Nat)
deriving DecidableEq, Repr

/-- Who writes a register or rings a doorbell (00 R10, 09 R205). `tenant vf` is the party behind VF `vf`, whose request has the T bit set on the
bound IDE stream; `untagged vf` a request to that VF without it (13 R320). -/
inductive Party where
  | manager
  | tenant (vf : Nat)
  | untagged (vf : Nat)
  | other
deriving DecidableEq, Repr

/-- The fields of a Chokotha instruction word below `CLASS` and `FUNC`[4:0] (03 R60). `form` is `FUNC` bit [5], which
selects form I in classes 0x0 and 0x1 (03 R69); `low` is bits [25:0]. -/
structure Fields where
  form : Bool
  pred : BitVec 3
  pneg : Bool
  dst : BitVec 8
  sa : BitVec 8
  sb : BitVec 8
  low : BitVec 26
deriving DecidableEq, Repr

/-- What the code finds in one HBM sector as it is read (11 R264, R266): no error, an error confined to one byte of the
codeword or marker, or any other detected error. -/
inductive Ecc where
  | clean
  | corrected
  | uncorrectable
  /-- a command or address parity error, and the one retry succeeds or fails too (11 R260) -/
  | parityRetried
  | parityFailed
deriving DecidableEq, Repr

/-- What an LLC access meets in the half's SRAM (16 R370, R371). -/
inductive LlcErr where
  | none
  | corrected
  | dataUncorrectable
  | tagsUncorrectable (way : Nat)
deriving DecidableEq, Repr

/-- What an instruction meets in the core's SRAM (16 R370): register file 0, L1 1, scratchpad 2, miss registers 3,
array or Springbok buffer 4. -/
inductive CoreErr where
  | none
  | corrected (memory : Nat)
  | uncorrectable (memory : Nat)
deriving DecidableEq, Repr

/-- A fabric message header (12 R290), as it arrives. -/
structure Msg where
  typ : BitVec 8
  hops : BitVec 3
  stream : Bool
  cmd : Bool
  srcPkg : BitVec 12
  srcPort : BitVec 4
  dstPkg : BitVec 12
  txn : BitVec 14
  addr : BitVec 48
  nsect : BitVec 7
  firstMask : BitVec 32
  lastMask : BitVec 32
  deadMask : BitVec 64
  poisonMask : BitVec 64
  groupId : BitVec 12
  op : BitVec 8
  status : BitVec 8
  bwg : BitVec 6
  /-- every reserved bit of the header, as one number: 0 where the header is legal -/
  reserved : Nat
deriving DecidableEq, Repr

/-- The second header slot of a collective message (12 R292). -/
structure CollHdr where
  seq : BitVec 32
  opcode : BitVec 8
  dfmt : BitVec 8
  cfl : BitVec 8
  root : BitVec 16
  rank : BitVec 16
  count : BitVec 64
  offset : BitVec 64
deriving DecidableEq, Repr

/-- A wire flit (12 R280). `payload`: its bytes 0 to 255, a shorter list standing for zeros after it; `reserved`: bits [7:3] of `FTYPE`'s byte, then
[7:4] of `POOL`'s and of `CR_POOL`'s. -/
structure Flit where
  payload : List (BitVec 8)
  fseq : BitVec 16
  ack : BitVec 16
  ftype : BitVec 2
  nak : Bool
  pool : BitVec 4
  crPool : BitVec 4
  crCount : BitVec 8
  reserved : BitVec 13
  crc : BitVec 64
deriving DecidableEq, Repr

/-- A heartbeat (12 R295). -/
structure Beat where
  pkg : BitVec 12
  valid : Bool
  ready : Bool
  port : BitVec 4
  inc : BitVec 32
deriving DecidableEq, Repr

/-- One PCIe AtomicOp kind (13 R303, R311). -/
inductive AtomKind where
  | fetchAdd
  | swap
  | cas
deriving DecidableEq, Repr

/-- What a host answers to a request of the module (13 R315). -/
inductive HostReply where
  | ok
  | unsupported
  | completerAbort
deriving DecidableEq, Repr

/-- A field of configuration space that the host writes and that has no row of its own: MSI-X Enable and Function Mask (13 R318), ATS Enable of a
VF (13 R315). -/
inductive CfgWrite where
  | msixEnable (on : Bool)
  | functionMask (on : Bool)
  | atsEnable (on : Bool)
deriving DecidableEq, Repr

/-- Which of the reset sources or targets a release or exit is about (14 R322). -/
inductive ResetUnit where
  | module
  | die (d : Nat)
  | region (r : Nat)
deriving DecidableEq, Repr

/-- Where a warm or cold request comes from (14 R336). -/
inductive WarmSource where
  | register
  | sideband
deriving DecidableEq, Repr

/-- What asserts POR (14 R322): 48 V below its range, or above 62 V (17 R391), the standby supply, a regulator. -/
inductive PorSource where
  | supply48
  | over62
  | standby
  | regulator
deriving DecidableEq, Repr

/-- What raises a power alert (15 R359): the pin, or an on-module regulator of die `d` (0xFF module level). -/
inductive AlertSource where
  | pin
  | regulator (d : Nat)
deriving DecidableEq, Repr

/-- TAP instructions (17 R403). -/
inductive TapInstr where
  | bypass
  | idcode
  | samplePreload
  | extest
  | extestPulse
  | extestTrain
  | debug
deriving DecidableEq, Repr

/-- The commands. `cid` operands name a begun Nolzin command by its number in `State.cmds`; `rid` operands name a
request in flight in `State.reqs`. -/
inductive Instr where
  -- instruction fetch: `stale` chooses an older copy of the word where the kernel has one (03 R61)
  | instructionFetch (h : HerdRef) (stale : Bool)
  -- integer and logic class (03 R71)
  | mov (h : HerdRef) (f : Fields)
  | add (h : HerdRef) (f : Fields)
  | sub (h : HerdRef) (f : Fields)
  | min (h : HerdRef) (f : Fields)
  | max (h : HerdRef) (f : Fields)
  | and (h : HerdRef) (f : Fields)
  | or (h : HerdRef) (f : Fields)
  | xor (h : HerdRef) (f : Fields)
  | shl (h : HerdRef) (f : Fields)
  | shr (h : HerdRef) (f : Fields)
  | pick (h : HerdRef) (f : Fields)
  | cnt1 (h : HerdRef) (f : Fields)
  | lzc (h : HerdRef) (f : Fields)
  | bmux (h : HerdRef) (f : Fields)
  | rdsr (h : HerdRef) (f : Fields)
  | andn (h : HerdRef) (f : Fields)
  | bfx (h : HerdRef) (f : Fields)
  | bfi (h : HerdRef) (f : Fields)
  -- floating and multiply class (03 R72)
  | fadd (h : HerdRef) (f : Fields)
  | fmul (h : HerdRef) (f : Fields)
  | fma (h : HerdRef) (f : Fields)
  | fmin (h : HerdRef) (f : Fields)
  | fmax (h : HerdRef) (f : Fields)
  | mullo (h : HerdRef) (f : Fields)
  | mulhi (h : HerdRef) (f : Fields)
  | madlo (h : HerdRef) (f : Fields)
  -- conversion and transcendental class (03 R73)
  | conv (h : HerdRef) (f : Fields)
  | recip (h : HerdRef) (f : Fields)
  | rsqrt (h : HerdRef) (f : Fields)
  | sqrt (h : HerdRef) (f : Fields)
  | exp2 (h : HerdRef) (f : Fields)
  | log2 (h : HerdRef) (f : Fields)
  | sin (h : HerdRef) (f : Fields)
  | cos (h : HerdRef) (f : Fields)
  | tanh (h : HerdRef) (f : Fields)
  -- compare class (03 R74)
  | cmpi (h : HerdRef) (f : Fields)
  | cmpf (h : HerdRef) (f : Fields)
  | cmpv (h : HerdRef) (f : Fields)
  -- herd-wide class (03 R75)
  | first (h : HerdRef) (f : Fields)
  | anyp (h : HerdRef) (f : Fields)
  | allp (h : HerdRef) (f : Fields)
  | lmask (h : HerdRef) (f : Fields)
  | lget (h : HerdRef) (f : Fields)
  | lrot (h : HerdRef) (f : Fields)
  | lswz (h : HerdRef) (f : Fields)
  | hsum (h : HerdRef) (f : Fields)
  | hmin (h : HerdRef) (f : Fields)
  | hmax (h : HerdRef) (f : Fields)
  -- memory classes (03 R76 to R83); `err` is what the access meets in the core's SRAM
  | ld (h : HerdRef) (f : Fields) (err : CoreErr)
  | st (h : HerdRef) (f : Fields)
  | atom (h : HerdRef) (f : Fields)
  | stAdd (h : HerdRef) (f : Fields)
  -- control and synchronisation classes (03 R84 to R88)
  | bra (h : HerdRef) (f : Fields)
  | call (h : HerdRef) (f : Fields)
  | ret (h : HerdRef) (f : Fields)
  | exit (h : HerdRef) (f : Fields)
  | trap (h : HerdRef) (f : Fields)
  | nop (h : HerdRef) (f : Fields)
  | fence (h : HerdRef) (f : Fields)
  | bar (h : HerdRef) (f : Fields)
  | hsync (h : HerdRef) (f : Fields)
  -- matrix queue class (03 R89, R90)
  | mxIssue (h : HerdRef) (f : Fields)
  | sbIssue (h : HerdRef) (f : Fields)
  | mxWait (h : HerdRef) (f : Fields)
  -- context kill and watchdogs
  | contextKill (c : CtxRef)
  | contextKillComplete (c : CtxRef)
  | contextWatchdog (cid : Nat)
  -- Nolzin command flow
  | commandBegin (q : QRef)
  | commandCompletion (cid : Nat)
  | commandWatchdog (cid : Nat)
  | sqTail (p : Party) (q : QRef) (value : Word)
  | cqHead (p : Party) (q : QRef) (value : Word)
  | resume (p : Party) (q : QRef) (value : Word)
  -- queue control
  | nolzinNop (cid : Nat)
  | nolzinFence (cid : Nat)
  | signal (cid : Nat)
  | wait (cid : Nat)
  | waitPoll (cid : Nat)
  | waitTimeout (cid : Nat)
  -- launch and kernel life cycle
  | launch (cid : Nat)
  | launchSlotTake (cid core : Nat)
  | residencyStall (cid core : Nat)
  | herdStart (sl : SlotRef)
  | kernelComplete (sl : SlotRef)
  -- matrix operations of a core
  | elandOpStart (core : Nat)
  | elandOpComplete (core : Nat) (err : CoreErr)
  | springbokOpStart (core : Nat)
  | springbokOpComplete (core : Nat) (err : CoreErr)
  -- DMA, cache, speculation
  | dmaCopy (cid : Nat)
  | dmaFill (cid : Nat)
  | dmaCopyStrided (cid : Nat)
  | hamperPin (cid : Nat)
  | hamperUnpin (cid : Nat)
  | prefetch (cid : Nat)
  | discard (cid : Nat)
  | specBegin (cid : Nat)
  | specCommit (cid : Nat)
  | specAbort (cid : Nat)
  -- collectives
  | collAllreduce (cid : Nat)
  | collReduceScatter (cid : Nat)
  | collAllgather (cid : Nat)
  | collBroadcast (cid : Nat)
  | collBarrier (cid : Nat)
  | collectiveTimeout (cid : Nat)
  | heldFullResend (port txn : Nat)
  -- manager commands
  | instanceCreate (cid : Nat)
  | instanceDestroy (cid : Nat)
  | instanceQuiesce (cid : Nat)
  | quiesceTimeout (cid : Nat)
  | instanceReset (cid : Nat)
  | instanceResetDrainEnd (cid : Nat)
  | instanceResetContext (cid : Nat)
  | instanceQuery (cid : Nat)
  | configStage (cid : Nat)
  | configApply (cid : Nat)
  | configEpochBoundary (region : Nat)
  | configStatus (cid : Nat)
  | coreFence (cid : Nat)
  /-- `result` 0x1 to 0x3, the failed units, and the test time: what the self-test finds (16 R379) -/
  | coreDiagnose (cid : Nat) (result : BitVec 8) (unitFail : BitVec 19) (rfFail : BitVec 4) (l1Fail : BitVec 16) (us : Word)
  | powerSetCap (cid : Nat)
  | powerQuery (cid : Nat)
  | lifecycleAdvance (cid : Nat)
  | resetCountersRead (cid : Nat)
  | resetCountersClear (cid : Nat)
  | ramblerRun (cid : Nat)
  /-- per named channel, in ascending bit order: result code, failing pseudo-channel, mismatches, corrected sectors,
  first failing sector, bytes moved and time taken, as the Ramblers measured them (11 R276) -/
  | ramblerRunEnd (results : List (List Nat))
  | fwStage (cid : Nat)
  | fwActivate (cid : Nat)
  | fabricRouteSet (cid : Nat)
  | fabricGroupSet (cid : Nat)
  -- home bank, HBM, multicast; `choice` picks the victim among the ways the replacement rule leaves (log 11)
  | bankAccess (rid choice : Nat) (err : LlcErr)
  | addRequest (rid choice : Nat) (err : LlcErr)
  | deadDeclaration (rid : Nat)
  | hbmReadComplete (line choice : Nat) (ecc : List Ecc)
  /-- `choice` picks the victim among the L1 ways that the replacement rule leaves (log 12) -/
  | fillArrival (core line choice : Nat)
  | landingCreditReturn (core : Nat)
  | hbmRequestAging (line : Nat)
  | perBankRefresh (stack pc bank : Nat)
  | patrolScrub (stack sector : Nat) (ecc : Ecc)
  | hbmTempRead (stack : Nat) (tempC : BitVec 8)
  | thermalHoldExpiry (cid : Nat)
  /-- `reused`: the sticky training state was reused; else the masks and lane counts that training recorded -/
  | hbmReady (stack : Nat) (reused : Bool) (pcFail : Word64) (dq ca : BitVec 8)
  -- fabric link layer and liveness
  | flitReceive (port : Nat) (flit : Flit)
  | fastRetrain (port : Nat)
  | fastRetrainComplete (port : Nat) (ok : Bool) (spareFor : BitVec 3)
  | heartbeat (port : Nat) (b : Beat)
  | heartbeatSend (port : Nat)
  | heartbeatLoss (port : Nat)
  | portSignalDetect (port lanes : Nat)
  /-- which of the five lanes (bit 4 the spare) meet the error-rate limit at either end, at full and at half rate -/
  | portTrainingComplete (port : Nat) (goodFull goodHalf : BitVec 5)
  | portTrainingRestart (port : Nat)
  -- remote operations; `port` is the port of arrival, `data` the payload sectors in order
  | rd (port : Nat) (m : Msg)
  | wr (port : Nat) (m : Msg) (data : List Byte)
  | fabricAtom (port : Nat) (m : Msg) (data : List Byte)
  | fabricAdd (port : Nat) (m : Msg) (data : List Byte)
  | dead (port : Nat) (m : Msg)
  | collData (port : Nat) (m : Msg) (c : CollHdr) (data : List Byte)
  | collArrive (port : Nat) (m : Msg) (c : CollHdr)
  | rdRsp (port : Nat) (m : Msg) (data : List Byte)
  | ack (port : Nat) (m : Msg)
  | nack (port : Nat) (m : Msg)
  | pending (port : Nat) (m : Msg)
  | pendingTimer (port : Nat) (srcPkg : BitVec 12) (txn : BitVec 14)
  | txnTimeout (port txn : Nat)
  | progressHold (port : Nat) (m : Msg) (seq : Word) (rank : BitVec 16)
  | progressHoldBeacon (region : Nat)
  | peerAbort (port : Nat) (m : Msg) (seq : Word) (rank : BitVec 16)
  -- internal fabric faults
  | routerStopFailure (region stop : Nat)
  | linkOutOfService (link : Nat)
  | internalFlitLoss (rid : Nat)
  -- host interface; `fn` 0 is the PF, n VF n; `tagged` says that the T bit is set on the bound IDE stream (R320)
  | bar2Read (fn : Nat) (addr : Word64) (len : Nat) (tagged : Bool)
  /-- `relaxed`: the Relaxed Ordering attribute, clear where it is not named -/
  | bar2Write (fn : Nat) (addr : Word64) (data : List Byte) (tagged : Bool) (relaxed : Bool := false)
  | bar2Atomicop (fn : Nat) (addr : Word64) (kind : AtomKind) (size : Nat) (operand compare : Word64) (tagged : Bool)
  | registerWrite (p : Party) (offset size : Nat) (value : Word64)
  /-- a read of the register at `offset`, or the write of a field -/
  | configRequest (fn offset : Nat) (write : Option CfgWrite := none)
  | vfEnable (numVfs : Nat) (enable : Bool)
  | busMasterEnable (fn : Nat) (on : Bool)
  | msixUnmask (fn vector : Nat) (tagged : Bool := true)
  | hotReset
  | pfFlr
  | vfFlr (vf : Nat)
  /-- `at_`: the page that the host translates `page` to -/
  | atsTranslationCompletion (inst : Nat) (page : Nat) (readable writable : Bool) (at_ : Nat := 0)
  | invalidateRequest (vf page : Nat)
  | ideKm (stream : Nat) (refresh : Bool)
  | ideIntegrityFailure (stream : Nat)
  | tdiLock (vf stream : Nat)
  | tdiStart (vf : Nat)
  | stopInterface (vf : Nat)
  /-- `path` 0: CMA/SPDM on the DOE mailbox, 1: SPDM on the sideband, 2: DOE Discovery, 3 and 4: a secured message on 0 and 1 -/
  | spdmRequest (path : Nat) (request : List Byte)
  -- sideband, test access
  | mctpControl (request : List Byte)
  | pldmGetSensor (id : Nat)
  | pldmSetEffecter (state : Nat)
  | pldmEventFetch
  | requestUpdate (image : List Byte)
  | activateFirmware
  /-- `static_`: the static address that a SETDASA names; none for ENTDAA -/
  | entdaa (static_ : Option (BitVec 7)) (address : BitVec 7)
  | tapInstruction (i : TapInstr)
  | tapReset
  -- power-up, reset, boot
  /-- the supplies that come into range -/
  | powerUp (v3p3sb vbatHeld : Bool) (v48 : Bool := true)
  /-- the address straps as they are -/
  | porRelease (strap : BitVec 2 := 0)
  | por (source : PorSource)
  /-- `counts`: whether a low shorter than 1 µs passes the input filter (17 R390) -/
  | perstNAssert (ns : Nat) (counts : Bool)
  | modRstNAssert (ns : Nat) (counts : Bool)
  | coldBoot
  | imageVerified
  | firmwareReady
  | moduleWarm (source : WarmSource)
  | moduleWarmRelease
  | dieResetAssert (p : Party) (d : Nat)
  | dieResetRelease (p : Party) (d : Nat)
  | regionResetAssert (p : Party) (r : Nat)
  | regionResetRelease (p : Party) (r : Nat)
  | resetExitComplete (u : ResetUnit)
  /-- `memory`: the processor halted on an uncorrectable error of its memory -/
  | commandProcessorWatchdog (d : Nat) (memory : Bool := false)
  | packageControllerWatchdog
  | pllLockLoss
  | pllRestartRetry (locked : Bool)
  -- registers with behaviour of their own
  | adminQueueEnable (p : Party) (cfg : Word)
  | adminQueueDisable (p : Party)
  | pkgIdSet (p : Party) (id : BitVec 12)
  | portEnable (p : Party) (port : Nat)
  | portDisable (p : Party) (port : Nat)
  -- power and thermal; measured loads in W, `div` and `skip` the setting that the firmware chooses (15 R353)
  | controlPeriod (pIn pFixed : Nat) (div skip : Nat) (uj : Nat) (dieMj : List Nat)
  | pwrAlertN (source : AlertSource) (ns : Nat)
  | powerAlertHoldEnd
  | thermalSample (readings : List (Nat × Nat))
  | thermalLimitRaise
  | marginMeasure (die : Nat) (spareMv : Int) (weakest : Nat)
  | gvarTrim (die : Nat)
  | gvarStore
  /-- energy metered in each partition from `first` on; a partition that is not named had none -/
  | energyAttribution (nj : List Nat := []) (first : Nat := 0)
  | commandProcessorWatchdogRelease (d : Nat)
  | powerAlertEnd (source : AlertSource)
  | pcieLinkUp (width rate : Nat)
  /-- `message`: what the host answers concerns an MSI-X message, not request `rid` -/
  | pcieCompletion (rid : Nat) (reply : HostReply) (data : List Byte) (message : Bool := false)
  | coreCheckerError (core : Nat)
deriving DecidableEq, Repr

end Sys2Proof
end

