-- ==== Sys2Proof/Decode.lean ====
section
/-! DEFINITION. The opcode table gives its rows no bits, so no word spells a command and `decodeTableWord` answers none.
The 64-bit Chokotha instruction word (03 R60) has an encoding of its own, decoded and encoded here. -/
namespace Sys2Proof

/-- The command that a word of the opcode table spells: none, since no row has bits. -/
def decodeTableWord (_nbits _w : Nat) : Option Instr := none

/-! ## Chokotha words (03 R60, R62) -/

/-- `CLASS` of a word. -/
def wordClass (w : Word64) : Nat := (w.extractLsb' 60 4).toNat
/-- `FUNC` of a word, without the form bit in classes 0x0 and 0x1 (03 R69). -/
def wordFunc (w : Word64) : Nat := (w.extractLsb' 54 5).toNat
/-- `FUNC` bit 5. -/
def wordForm (w : Word64) : Bool := w.getLsbD 59

/-- The fields of a word below the opcode. -/
def wordFields (w : Word64) : Fields :=
  { form := wordForm w, pred := w.extractLsb' 51 3, pneg := w.getLsbD 50, dst := w.extractLsb' 42 8,
    sa := w.extractLsb' 34 8, sb := w.extractLsb' 26 8, low := w.extractLsb' 0 26 }

/-- Integer and logic functions (03 R71). -/
def decodeInt (h : HerdRef) (f : Fields) (func : Nat) : Option Instr :=
  match func with
  | 0x00 => some (.mov h f)
  | 0x01 => some (.add h f)
  | 0x02 => some (.sub h f)
  | 0x03 => some (.min h f)
  | 0x04 => some (.max h f)
  | 0x05 => some (.and h f)
  | 0x06 => some (.or h f)
  | 0x07 => some (.xor h f)
  | 0x08 => some (.shl h f)
  | 0x09 => some (.shr h f)
  | 0x0A => some (.pick h f)
  | 0x0B => some (.cnt1 h f)
  | 0x0C => some (.lzc h f)
  | 0x0D => some (.bmux h f)
  | 0x0E => some (.rdsr h f)
  | 0x0F => some (.andn h f)
  | 0x10 => some (.bfx h f)
  | 0x11 => some (.bfi h f)
  | _ => none

/-- Floating and multiply functions (03 R72). -/
def decodeFlt (h : HerdRef) (f : Fields) (func : Nat) : Option Instr :=
  match func with
  | 0x00 => some (.fadd h f)
  | 0x01 => some (.fmul h f)
  | 0x02 => some (.fma h f)
  | 0x03 => some (.fmin h f)
  | 0x04 => some (.fmax h f)
  | 0x05 => some (.mullo h f)
  | 0x06 => some (.mulhi h f)
  | 0x07 => some (.madlo h f)
  | _ => none

/-- Functions of the other classes (03 R73 to R90), none of which has a form bit. -/
def decodeRest (h : HerdRef) (f : Fields) (cls func : Nat) : Option Instr :=
  match cls, func with
  | 0x2, 0x00 => some (.conv h f)
  | 0x2, 0x01 => some (.recip h f)
  | 0x2, 0x02 => some (.rsqrt h f)
  | 0x2, 0x03 => some (.sqrt h f)
  | 0x2, 0x04 => some (.exp2 h f)
  | 0x2, 0x05 => some (.log2 h f)
  | 0x2, 0x06 => some (.sin h f)
  | 0x2, 0x07 => some (.cos h f)
  | 0x2, 0x08 => some (.tanh h f)
  | 0x3, 0x00 => some (.cmpi h f)
  | 0x3, 0x01 => some (.cmpf h f)
  | 0x3, 0x02 => some (.cmpv h f)
  | 0x4, 0x00 => some (.first h f)
  | 0x4, 0x01 => some (.anyp h f)
  | 0x4, 0x02 => some (.allp h f)
  | 0x4, 0x03 => some (.lmask h f)
  | 0x4, 0x04 => some (.lget h f)
  | 0x4, 0x05 => some (.lrot h f)
  | 0x4, 0x06 => some (.lswz h f)
  | 0x4, 0x07 => some (.hsum h f)
  | 0x4, 0x08 => some (.hmin h f)
  | 0x4, 0x09 => some (.hmax h f)
  | 0x5, 0x00 => some (.ld h f .none)
  | 0x6, 0x00 => some (.st h f)
  | 0x7, 0x00 => some (.atom h f)
  | 0x8, 0x00 => some (.stAdd h f)
  | 0x9, 0x00 => some (.bra h f)
  | 0x9, 0x01 => some (.call h f)
  | 0x9, 0x02 => some (.ret h f)
  | 0x9, 0x03 => some (.exit h f)
  | 0x9, 0x04 => some (.trap h f)
  | 0x9, 0x05 => some (.nop h f)
  | 0xA, 0x00 => some (.fence h f)
  | 0xA, 0x01 => some (.bar h f)
  | 0xA, 0x02 => some (.hsync h f)
  | 0xB, 0x00 => some (.mxIssue h f)
  | 0xB, 0x01 => some (.sbIssue h f)
  | 0xB, 0x02 => some (.mxWait h f)
  | _, _ => none

/-- The instruction that a word spells for a herd; none for a reserved class or an unlisted function (03 R63). -/
def decodeWord (h : HerdRef) (w : Word64) : Option Instr :=
  let f := wordFields w
  if wordClass w = 0 then decodeInt h f (wordFunc w)
  else if wordClass w = 1 then decodeFlt h f (wordFunc w)
  else if f.form then none
  else decodeRest h f (wordClass w) (wordFunc w)

/-- The herd, class, function and fields of an instruction command; none for a command that is no instruction. -/
def Instr.opcode : Instr → Option (HerdRef × Nat × Nat × Fields)
  | .mov h f => some (h, 0x0, 0x00, f)
  | .add h f => some (h, 0x0, 0x01, f)
  | .sub h f => some (h, 0x0, 0x02, f)
  | .min h f => some (h, 0x0, 0x03, f)
  | .max h f => some (h, 0x0, 0x04, f)
  | .and h f => some (h, 0x0, 0x05, f)
  | .or h f => some (h, 0x0, 0x06, f)
  | .xor h f => some (h, 0x0, 0x07, f)
  | .shl h f => some (h, 0x0, 0x08, f)
  | .shr h f => some (h, 0x0, 0x09, f)
  | .pick h f => some (h, 0x0, 0x0A, f)
  | .cnt1 h f => some (h, 0x0, 0x0B, f)
  | .lzc h f => some (h, 0x0, 0x0C, f)
  | .bmux h f => some (h, 0x0, 0x0D, f)
  | .rdsr h f => some (h, 0x0, 0x0E, f)
  | .andn h f => some (h, 0x0, 0x0F, f)
  | .bfx h f => some (h, 0x0, 0x10, f)
  | .bfi h f => some (h, 0x0, 0x11, f)
  | .fadd h f => some (h, 0x1, 0x00, f)
  | .fmul h f => some (h, 0x1, 0x01, f)
  | .fma h f => some (h, 0x1, 0x02, f)
  | .fmin h f => some (h, 0x1, 0x03, f)
  | .fmax h f => some (h, 0x1, 0x04, f)
  | .mullo h f => some (h, 0x1, 0x05, f)
  | .mulhi h f => some (h, 0x1, 0x06, f)
  | .madlo h f => some (h, 0x1, 0x07, f)
  | .conv h f => some (h, 0x2, 0x00, f)
  | .recip h f => some (h, 0x2, 0x01, f)
  | .rsqrt h f => some (h, 0x2, 0x02, f)
  | .sqrt h f => some (h, 0x2, 0x03, f)
  | .exp2 h f => some (h, 0x2, 0x04, f)
  | .log2 h f => some (h, 0x2, 0x05, f)
  | .sin h f => some (h, 0x2, 0x06, f)
  | .cos h f => some (h, 0x2, 0x07, f)
  | .tanh h f => some (h, 0x2, 0x08, f)
  | .cmpi h f => some (h, 0x3, 0x00, f)
  | .cmpf h f => some (h, 0x3, 0x01, f)
  | .cmpv h f => some (h, 0x3, 0x02, f)
  | .first h f => some (h, 0x4, 0x00, f)
  | .anyp h f => some (h, 0x4, 0x01, f)
  | .allp h f => some (h, 0x4, 0x02, f)
  | .lmask h f => some (h, 0x4, 0x03, f)
  | .lget h f => some (h, 0x4, 0x04, f)
  | .lrot h f => some (h, 0x4, 0x05, f)
  | .lswz h f => some (h, 0x4, 0x06, f)
  | .hsum h f => some (h, 0x4, 0x07, f)
  | .hmin h f => some (h, 0x4, 0x08, f)
  | .hmax h f => some (h, 0x4, 0x09, f)
  | .ld h f _ => some (h, 0x5, 0x00, f)
  | .st h f => some (h, 0x6, 0x00, f)
  | .atom h f => some (h, 0x7, 0x00, f)
  | .stAdd h f => some (h, 0x8, 0x00, f)
  | .bra h f => some (h, 0x9, 0x00, f)
  | .call h f => some (h, 0x9, 0x01, f)
  | .ret h f => some (h, 0x9, 0x02, f)
  | .exit h f => some (h, 0x9, 0x03, f)
  | .trap h f => some (h, 0x9, 0x04, f)
  | .nop h f => some (h, 0x9, 0x05, f)
  | .fence h f => some (h, 0xA, 0x00, f)
  | .bar h f => some (h, 0xA, 0x01, f)
  | .hsync h f => some (h, 0xA, 0x02, f)
  | .mxIssue h f => some (h, 0xB, 0x00, f)
  | .sbIssue h f => some (h, 0xB, 0x01, f)
  | .mxWait h f => some (h, 0xB, 0x02, f)
  | _ => none

/-- A word with given class, function and fields (03 R60). -/
def packWord (cls func : Nat) (f : Fields) : Word64 :=
  BitVec.ofNat 4 cls ++ BitVec.ofBool f.form ++ BitVec.ofNat 5 func ++ f.pred ++ BitVec.ofBool f.pneg ++ f.dst ++ f.sa ++ f.sb ++ f.low

/-- The word of an instruction; none for a command that is no instruction. -/
def encodeWord (i : Instr) : Option Word64 := i.opcode.map (fun o => packWord o.2.1 o.2.2.1 o.2.2.2)

end Sys2Proof
end

