-- ==== Sys2Proof/Config.lean ====
section
/-! DEFINITION. What an implementation fixes and the spec leaves open: free values, each a constant with
no body, so that nothing proved here rests on a value of it (log 7, log 8, log 15). -/
namespace Sys2Proof.Config

/-- DESIGN CHOICE (log 7). The k-th fresh free value: a number that the spec calls random or measured and gives no
value of (a nonce, an incarnation, ring contents that no rule fixes). Applied to `State.freeSeq`. -/
opaque freeBits : Nat → Nat

/-- DESIGN CHOICE (log 8). How far the implementation's transcendental result lies from the correctly rounded one, for
function code `f` of 03 R73 and operand `x`; used only inside the error bound the rule states. -/
opaque ulpOffset : Nat → Word → Nat

/-- DESIGN CHOICE (log 8). The result of a transcendental function for an operand for which 03 R73 states none (the
logarithm of a number not above zero, a sine beyond 2^15, an infinite operand). -/
opaque transFree : Nat → Word → Word

/-- DESIGN CHOICE (log 15). SHA-384 of a byte string: a published function that the spec names and does not define. -/
opaque sha384 : List Byte → BitVec 384

/-- DESIGN CHOICE (log 15). Whether an ECDSA P-384 signature (r then s, 96 bytes) over a SHA-384 digest verifies
under a public key (x then y, 96 bytes). -/
opaque ecdsaOk : (key : List Byte) → (digest : BitVec 384) → (sig : List Byte) → Bool

/-- DESIGN CHOICE (log 15). The Maeloafort public key held in the boot ROM (14 R341, R343). -/
opaque maeloafortKey : List Byte

/-- DESIGN CHOICE (log 7). The first word of the configuration space of a function, its Vendor and Device ID; the spec gives no value (13
R312). -/
opaque vendorId : (fn : Nat) → Word

/-- DESIGN CHOICE (log 77). The 12-bit code of a time in ms in the Readiness Time Reporting capability; PCI Express fixes it, and this spec does not
(13 R313). -/
opaque readinessCode : (ms : Nat) → BitVec 12

/-- DESIGN CHOICE (log 77). What the layout of a function's configuration space leaves between a capability, by its place in its list, and the next
(13 R303). -/
opaque capGap : (fn place : Nat) → Nat

/-- DESIGN CHOICE (log 7). Whether the host has enabled RRS Software Visibility, a setting of its own root port (13 R312). -/
opaque rrsVisible : Bool

/-- DESIGN CHOICE (log 102). Whether the responder accepts a request of a session's set-up (its cryptographic checks pass), for the request that
`State.freeSeq` numbers (13 R321). -/
opaque spdmAccepts : (fresh : Nat) → (request : List Byte) → Bool

/-- DESIGN CHOICE (log 101). The voltage in mV that a die needs at a P-state, measured at test (15 R360). -/
opaque dieNeed : (die pstate : Nat) → Nat

/-- DESIGN CHOICE (log 15). The answer of the SPDM responder on a path to a request, given the measurements that it reports and a fresh free
number; SPDM 1.2 and 1.3 fix it and this spec does not (13 R321, 14 R346). -/
opaque spdmAnswer : (path fresh : Nat) → (request measurements : List Byte) → List Byte

/-- DESIGN CHOICE (log 15). The answer to an MCTP control request, given the endpoint ID in force after it; DSP0236 fixes it (17 R399). -/
opaque mctpAnswer : (eid : BitVec 8) → (request : List Byte) → List Byte

/-- DESIGN CHOICE (log 7). Energy of one event of a kind in nJ (10 R258), calibrated at test: an implementation constant. -/
opaque eventEnergy : (kind : Nat) → Nat

/-- DESIGN CHOICE (log 78). Level of `DBG_UART_TX` at a time while the firmware console runs, given what it has received; the spec gives the
console's text no form (17 R404). -/
opaque consoleTx : (time : Nat) → (received : List (BitVec 8)) → Bool

/-- DESIGN CHOICE (log 7). Whether some block of a region is attached to exactly these two of its router stops 4 to 7; the spec says that
each is attached to two and not to which (16 R380). -/
opaque stopPair : (region stopA stopB : Nat) → Bool

/-- DESIGN CHOICE (log 7). Which of the words that a page-table entry or an instruction word has held an access sees, for the access that
`State.freeSeq` numbers and the part of it that `pick` names (01 R29, 03 R61). -/
opaque staleChoice : (seq pick : Nat) → Nat

/-- DESIGN CHOICE (log 59). Whether a herd goes on past a release fence at `PACKAGE` scope before what the fence covers has reached its point,
at the `FENCE` that `State.freeSeq` numbers. 03 R86 holds the herd, and a row of 08 R199 lets it go on. -/
opaque passesFence : (seq : Nat) → Bool

/-- DESIGN CHOICE (log 12). The set of a core's L1 that a line falls in; the spec gives L1 ways and their size and no index (02 R45). -/
opaque l1Set : (line : Nat) → Nat

/-- DESIGN CHOICE (log 81). Whether the write that `State.freeSeq` numbers meets a command or address parity error and meets it again on its
retry (11 R260). -/
opaque writeParity : (seq : Nat) → Bool

/-- DESIGN CHOICE (log 82). The DRAM bank of a row slot; the spec gives no bank of a row (06 R132, 11 R262). -/
opaque dramBank : (row : Nat) → Nat

/-- DESIGN CHOICE (log 7). Byte `o` of sector `sec` of a channel under Rambler pattern 2 (checkerboard) or 3 (walking ones); the spec names them
and gives no bits (11 R274). -/
opaque ramblePattern : (pattern sec o : Nat) → BitVec 8

/-- DESIGN CHOICE (log 99). Which bit of the PRBS31 sequence of a channel stands at bit `i` of byte `o` of its sector `sec` (11 R274). -/
opaque prbsPlace : (sec o i : Nat) → Nat

end Sys2Proof.Config
end

