-- ==== Sys2Proof/Machine/State.lean ====
section
/-! DEFINITION. The state of the module: every register, queue, buffer, counter, mode and pin the spec names, as plain
data, and `State.reset`. A list that stands for a fixed number of like things keeps that length (see Laws). -/
namespace Sys2Proof.Machine

/-- Why a step would stop the model. The spec gives every command either an effect or no effect, so no meaning and no
step raises a fault; the type exists for the host's interface. Safe: nothing is claimed of a run that ends. -/
inductive Fault where
  /-- raised by nothing -/
  | none
deriving DecidableEq, Repr

/-- Why a command has no meaning in the model. -/
inductive Refusal where
  /-- raised by an arm of `exec` whose command is not modelled yet; safe -/
  | notModelled (mnemonic : String)
deriving DecidableEq, Repr

/-- Memory: (address, byte) pairs, addresses strictly rising, no byte equal to what an unlisted address reads as. -/
abbrev Memory := List Host.Cell

/-- A sparse file of registers: (number, value), numbers strictly rising, no value 0. -/
abbrev RegFile := List (Nat × Word)

/-! ## What goes outside -/

/-- What the module sends to the outside (log 18). -/
inductive Output where
  /-- an MSI-X message of function `fn` (13 R317) -/
  | msix (fn vector : Nat)
  /-- a BAR2 or BAR0 completion: successful with data, with the poisoned bit set, Unsupported Request, or Completer
  Abort (13 R308, R311) -/
  | pcieData (fn : Nat) (data : List Byte)
  | pciePoisoned (fn : Nat)
  | pcieUr (fn : Nat)
  | pcieCa (fn : Nat)
  /-- a configuration completion: Request Retry Status, a value, or that a field has been written (13 R312) -/
  | cfgRrs (fn : Nat)
  | cfgValue (fn : Nat) (value : Word)
  | cfgWritten (fn : Nat)
  /-- a PCIe request of the module with the routing ID of a function (PF + fn): read, write (poisoned or not), AtomicOp; an address may be
  Translated (13 R304, R315, 03 R82) -/
  | hostRead (fn rid addr len : Nat) (translated : Bool)
  | hostWrite (fn rid addr : Nat) (data : List Byte) (poisoned translated : Bool)
  | hostAtomic (fn rid addr : Nat) (kind : AtomKind) (size operand compare : Nat) (translated : Bool)
  | atsRequest (inst page : Nat)
  | invalidateDone (vf page : Nat)
  /-- a fabric message leaving by `port`: its first flit, with the header in its first slots, and its header, second header slot and data; its
  data flits follow with the next sequence numbers in the same pool (12 R280, R290) -/
  | fabric (port : Nat) (link : Flit) (m : Msg) (coll : Option CollHdr) (data : List Byte)
  /-- a control flit, with a heartbeat, whose place in the payload the spec does not give, or with nothing but its link fields (12 R280, R295, log
  18) -/
  | beat (port : Nat) (link : Flit) (b : Beat)
  | control (port : Nat) (link : Flit)
  /-- a control flit with its NAK bit set (12 R280, R281) -/
  | linkNak (port : Nat) (link : Flit)
  | replayFrom (port : Nat) (fseq : Nat)
  /-- answers on the sideband and the DOE mailbox (13 R321, 17 R399 to R403) -/
  | spdm (path : Nat) (answer : List Byte)
  | mctp (answer : List Byte)
  | pldmSensor (id : Nat) (value : Nat)
  | pldmEvents (events : List (Nat × Nat))
  | pldmStatus (status : Nat)
  | i3cAddress (address : Nat)
  | i3cNack
  /-- an in-band interrupt (17 R400, R401) -/
  | i3cIbi
  | tapData (value : Nat)
  | ideReady (stream : Nat)
  | tdispState (vf state : Nat)
deriving DecidableEq, Repr

/-! ## Cores and herds (02, 03) -/

/-- An entry of the reconvergence stack (02 R36, 03 R85). `second`: the taken lanes are running. -/
inductive StackEntry where
  | diverge (reconv : Word64) (mask taken : LaneMask) (target : Word64) (second : Bool)
  | call (ret : Word64) (mask : LaneMask)
deriving DecidableEq, Repr

/-- A herd on its herd position (02 R33, R42). `regs` is keyed by 32 * register + lane. -/
structure Herd where
  pos : Nat
  slot : Nat
  inst : Nat
  ctx : Nat
  cid : Nat
  index : Nat
  nreg : Nat
  pc : Word64
  fetched : Option Word64
  regs : RegFile
  uregs : RegFile
  preds : List LaneMask
  active : LaneMask
  exited : LaneMask
  stack : List StackEntry
  /-- the barrier it waits at, and its `COUNT` (03 R87) -/
  atBarrier : Option (Nat × Nat)
  /-- the scope of an acquire whose data has not returned (03 R80) -/
  acquire : Option Nat
  /-- release fences in force: the scope of each and the requests that it holds later stores, atomics and adds behind (03 R86, 08 R183) -/
  releases : List (Nat × List Nat)
deriving DecidableEq, Repr

/-- One line of a slot's L1: which sectors are valid and the 256 bytes (02 R45). `way` is the array way that holds it: 14 and 15 are the
common L1, a smaller number is a private way of the slot (02 R43). `mru`: it is the line of its set and ways that was used last. -/
structure L1Line where
  line : Nat
  way : Nat
  mru : Bool
  valid : BitVec 8
  data : BitVec 2048
deriving DecidableEq, Repr

/-- States of a residency slot (02 R49); a slot that is not listed is `UNASSIGNED`. -/
inductive SlotState where
  | idle
  | bound
  | running
  | draining
  | killing
deriving DecidableEq, Repr

/-- The kernel that a slot holds (02 R51, 03 R67, 09 R221). -/
structure Kernel where
  cid : Nat
  code : Word64
  args : Word64
  nreg : Nat
  scratchBytes : Nat
  herds : Nat
  ordinal : Nat
  ncores : Nat
  next : Nat
  startTime : Nat
  startCycles : Nat
  /-- place in `State.hist` of its start: older contents of memory are none that it can still see (01 R29, 03 R61) -/
  since : Nat
  started : Bool
deriving DecidableEq, Repr

/-- An Eland array's storage (04 R92): two weight buffers, each a tile of decoded elements row by row, their E8M0 scales by 32-row group
and column, and two accumulator banks of FP32 values row by row. -/
structure Eland where
  wbuf : List (List Nat)
  scale : List (List Nat)
  acc : List (List Nat)
  /-- class H: per output, the sum of the two groups of a K block's first tile (04 R103) -/
  half : List Nat
deriving DecidableEq, Repr

/-- The Springbok path's storage (05 R113): its activation operand buffer and its accumulators, 8 vectors by 128 columns. -/
structure Path where
  abuf : List (Nat × List Byte)
  acc : List Nat
deriving DecidableEq, Repr

/-- Output bytes of an accumulator bank that have not drained (04 R107). -/
structure MxOut where
  bank : Nat
  addr : Nat
  bytes : List Byte
deriving DecidableEq, Repr

/-- An operation of the matrix queue (02 R53). `round` is the next round of an Eland operation or column group of a Springbok one, `tile` the next
tile or weight block of it; a stage is one of them, counted through the operation. `reads` holds the operand sectors that have arrived and not
been used, as ((stage, virtual address divided by 32), bytes); `lands` the landing lines that they take, as (last stage that uses the line, virtual
line) (06 R144); `dead` the virtual lines whose declaration is owed (05 R122); `combine` the sums of K parts whose unit has not drained, as
(4 * (row * N + column) + part, FP32); `writes` the outputs that have not left. -/
structure MxOp where
  id : Nat
  springbok : Bool
  pos : Nat
  /-- its herd has not ended, so that its token is still held -/
  live : Bool
  token : Nat
  desc : List Word64
  pc : Word64
  lane : Nat
  started : Bool
  round : Nat
  tile : Nat
  reads : List ((Nat × Nat) × List Byte)
  lands : List (Nat × Nat)
  dead : List Nat
  combine : List (Nat × Nat)
  writes : List MxOut
deriving DecidableEq, Repr

/-- An assigned residency slot (02 R40, R43, R44, R53). -/
structure Slot where
  num : Nat
  inst : Nat
  st : SlotState
  ctx : Option Nat
  lastCtx : Option Nat
  q : Nat
  h : Nat
  w : Nat
  scratch : Memory
  l1 : List L1Line
  kernel : Option Kernel
  mxq : List MxOp
  /-- per barrier: arrivals since its last release (03 R87) -/
  barriers : List Nat
deriving DecidableEq, Repr

/-- One core (02 R32). `held`: in `CORE` reset. `ues`: times of class 0x02 errors (16 R376). `pipes`: per scheduler, the herd position
whose instruction holds the address pipeline (02 R46). `arrays`, `path`: storage of the arrays and of the Springbok path. `bufs`: per weight
buffer of the arrays, the operation and the stage whose tile it holds (04 R108). `bank`: accumulator bank of their next round (04 R107). -/
structure Core where
  held : Bool
  pipes : List (Option Nat)
  arrays : List Eland
  bufs : List (Option (Nat × Nat))
  bank : Nat
  path : Path
  slots : List Slot
  herds : List Herd
  landing : Nat
  arrNext : Nat
  sbNext : Nat
  arrIdleSince : List Nat
  ues : List Nat
deriving DecidableEq, Repr

/-! ## Requests in flight -/

/-- What a request does at the home (06, 07 R154). -/
inductive ReqKind where
  | read
  | write
  | atomic (aop size : Nat)
  | add (lineFmt opFmt : Nat)
  | declare (chk : Bool)
  /-- an instruction word from another module or the host -/
  | fetch
  /-- an operand sector of a matrix operation, from another module or the host -/
  | operand (op : Nat)
deriving DecidableEq, Repr

/-- One lane's part of a request: virtual and physical address, size in bytes, operand, compare value. -/
structure LaneAcc where
  lane : Nat
  va : Nat
  pa : Nat
  size : Nat
  data : Nat
  cmp : Nat
deriving DecidableEq, Repr

/-- Where a request stands: not yet performed, waiting for HBM, waiting for the data of an earlier request of its miss register (06
R141), or performed with the lanes' results. -/
inductive ReqPhase where
  | queued
  | hbm
  | joined (rid : Nat)
  | served (results : List (Nat × Nat)) (sectors : BitVec 8) (data : BitVec 2048)
deriving DecidableEq, Repr

/-- Whose memory a request addresses: this module's, another module's over the fabric, or the host's. -/
inductive Target where
  | home
  | remote
  | host
deriving DecidableEq, Repr

/-- A request of a herd in flight to one line (08 R185). `line` is the local physical address divided by 256, or for another
target the physical or host address divided by 256. `dst` is the destination register (255 none), `udst` says that it is
uniform. `pos` is the herd position that waits for it, 128 where no herd does, 256 + 16 * position + token for an operand or output of a
matrix operation (08 R189); `herd` is the herd position that its instruction ran on. `drop`: sectors whose fill must not enter L1, because a store wrote them meanwhile (08 R187). -/
structure Req where
  rid : Nat
  /-- the instruction that sent it: the parts of one instruction carry one number -/
  op : Nat
  core : Nat
  slot : Nat
  pos : Nat
  herd : Nat
  inst : Nat
  ctx : Nat
  kind : ReqKind
  target : Target
  drop : BitVec 8
  line : Nat
  lanes : List LaneAcc
  dst : Nat
  udst : Bool
  sx : Bool
  stream : Bool
  credited : Bool
  last : Bool
  scope : Nat
  acquire : Bool
  pc : Word64
  phase : ReqPhase
deriving DecidableEq, Repr

/-- An HBM request entry of a half, with its class and the bandwidth group that it counts for, 64 for management (06 R142, 10 R244,
11 R262), and the instance whose miss made it. `waiters`: requests of cores that wait for it, in the order of their arrival at the bank; `entered`: when it entered the scheduling window of its pseudo-channel; `stream`: every request of it is of the stream class. -/
structure HbmEntry where
  line : Nat
  waiters : List Nat
  since : Nat
  cls : Nat
  grp : Nat
  inst : Option Nat
  entered : Option Nat
  stream : Bool
deriving DecidableEq, Repr

/-- A read that waits at an HBM controller: of a line, for a request entry of the half, or of a sector, for patrol scrub (11 R261, R262, R267).
`entered`: when it entered the scheduling window of its pseudo-channel. -/
structure HbmRead where
  scrub : Bool
  sec : Nat
  cls : Nat
  since : Nat
  entered : Option Nat
deriving DecidableEq, Repr

/-- A replay slot (06 R144): one fill of a line, and the requests of the targets still blocked; or a fill that holds in its home for want of a
slot, and the requests of all its targets (R145). -/
structure Replay where
  line : Nat
  data : BitVec 2048
  targets : List Nat
deriving DecidableEq, Repr

/-- A line held in an LLC half (06 R128, R136, R147, R149). `line` is the local physical address divided by 256. `way` is the
Hamper way of a pinned line; of any other line it is 0 for a common way and i + 1 for a private way of instance i.
Shadow lines belong to their epochs and are not listed here. `mru`: it is the line of its set and class that was used last. -/
structure Line where
  line : Nat
  mru : Bool
  way : Nat
  valid : BitVec 8
  dirty : BitVec 8
  dead : BitVec 8
  deadChk : BitVec 8
  poison : BitVec 8
  /-- sectors under an unmarked dead tag whose backing contents have been read from HBM -/
  under : BitVec 8
  streamIn : Bool
  pinned : Bool
deriving DecidableEq, Repr

/-! ## Instances, contexts, queues (02 R57, 09, 10) -/

/-- States of a speculative epoch (07 R178). -/
inductive EpochState where
  | opened
  | committing
  | aborting
  | closed
deriving DecidableEq, Repr

/-- A speculative epoch (07 R176 to R181): its lines as (range index, byte offset in the range, line number). -/
structure Epoch where
  num : Nat
  st : EpochState
  ranges : List (Nat × Nat)
  lines : List (Nat × Nat × Nat)
  shadow : Memory
  touched : List Nat
  /-- touched sectors that hold the poison of a copy's source (11 R265) -/
  poison : List Nat
  /-- `KEEP_BYTES` per range, while it commits (07 R180) -/
  keep : List Nat
deriving DecidableEq, Repr

/-- A context: its `CX_` block (02 R57; `st` is 0, 3 killing or 4 dead, the running and draining states follow from its slots), its entry of the creation record (10 R233) and its epochs. -/
structure Ctx where
  num : Nat
  deadchk : Bool
  wdEn : Bool
  wdPeriod : Word
  entryDeadchk : Bool
  entryWdEn : Bool
  entryWdPeriod : Word
  st : BitVec 3
  /-- steps 1 to 4 of its kill have run (02 R55) -/
  stopped : Bool
  cause : BitVec 4
  fCore : BitVec 6
  fHerd : BitVec 7
  fLane : BitVec 5
  fLaneValid : Bool
  faultPc : BitVec 57
  faultAddr : BitVec 57
  faultCount : Word
  deadReread : Word
  epochs : List Epoch
  nextEpoch : Nat
deriving DecidableEq, Repr

/-- A completion or event record before its phase is known (09 R214). `irq`: send a vector after it, of an `event` vector 0 (13 R317). -/
structure Record where
  seq : Word
  status : Byte
  opcode : Byte
  cflags : BitVec 15
  tag : Word64
  start : Word64
  detail : Word64
  irq : Bool
  event : Bool
deriving DecidableEq, Repr

/-- States of a queue, coded as `Q_STATUS.STATE` (09 R205, R211). -/
inductive QState where
  | disabled
  | running
  | halted
  | faulted
  | quiesced
  | resetting
  | ringFault
deriving DecidableEq, Repr

/-- A queue: its descriptor (09 R203), its indices and its state. `fetched`: bytes of a submission ring in host memory that have arrived, from
`SQ_HEAD` on; `asked`: the read of that ring that is outstanding. -/
structure Queue where
  num : Nat
  sqAddr : Word64
  cqAddr : Word64
  sqLog2 : Nat
  cqLog2 : Nat
  sqHost : Bool
  cqHost : Bool
  vector : Nat
  ctx : Nat
  region : Nat
  coll : Bool
  st : QState
  sqHead : Nat
  sqTail : Nat
  cqHead : Nat
  cqWrite : Nat
  phase : Bool
  cqFull : Bool
  dbErr : Bool
  held : List Record
  capped : Bool
  derated : Bool
  reread : Bool
  fetched : List Byte
  asked : Option Nat
deriving DecidableEq, Repr

/-- State of an instance, coded as in the instance record (10 R257). -/
inductive InstState where
  | running
  | quiescing
  | quiesced
  | resetting
  | destroying
deriving DecidableEq, Repr

/-- TDI states (13 R320). -/
inductive TdiState where
  | unlocked
  | locked
  | run
  | error
deriving DecidableEq, Repr

/-- An instance (10 R233 to R258). Extents are (base, length); the per-half lists have 16 entries. -/
structure Inst where
  id : Nat
  ptRoot : Nat
  bwg : Nat
  tsWeight : Nat
  exclCh : Bool
  rampUs : Nat
  privWays : List Nat
  hamper : List (BitVec 20)
  extents : List (Nat × Nat)
  queues : List Queue
  ctxs : List Ctx
  st : InstState
  energyMj : Word64
  /-- charged energy below 1 mJ, in nJ -/
  energyNj : Nat
  stalls : Word
  kills : Word
  tdi : TdiState
  tdiStream : Nat
deriving DecidableEq, Repr

/-- How far a command that has been read is (08 R192, 09 R209): waiting for its turn to begin, begun, performing, or ended with a
status and waiting for its record. -/
inductive CmdPhase where
  | waiting
  | begun
  | active
  | ended (status : Byte) (detail : Word64)
deriving DecidableEq, Repr

/-- A Nolzin command that has been read from its ring. The lists and times below `phase` are the progress of a `LAUNCH` (cores to take, slots
taken, cores whose stall was reported; `mark` is the start of the first herd once `herdRan`), of a `WAIT` (`mark` is the next poll) and of a reset or quiesce (`mark` is its
start). `todo` and `out` are the progress of a command that moves data: pieces still to read as (source, destination, bytes), and data still
to write. -/
structure Cmd where
  cid : Nat
  q : QRef
  pkt : List Byte
  start : Nat
  /-- place in `State.hist` of its begin (01 R29) -/
  since : Nat
  wdMs : Nat
  capped : Bool
  derated : Bool
  determ : Bool
  peerHeld : Bool
  phase : CmdPhase
  /-- the poisoned source sector that a copy has read: the command ends once the markers of its `out` have been sent (11 R265) -/
  ending : Option Word64
  /-- since when a read of a DMA or cache command, or a collective, has waited for a held stack (11 R270) -/
  heldFrom : Option Nat
  cores : List Nat
  took : List SlotRef
  left : List SlotRef
  stalled : List Nat
  mark : Nat
  herdRan : Bool
  todo : List (Nat × Nat × Nat)
  out : List (Nat × List Byte)
  /-- bytes that have arrived for it and wait, as (address, bytes): of a copy, of destination sectors of which others are still to come; of a
  list or a collective, of what it reads on another module or in host memory -/
  parts : List (Nat × List Byte)
  /-- regions whose HBM it has used (09 R214) -/
  used : BitVec 16
  /-- regions that were derated or held at some time since it began (09 R214, 11 R269) -/
  hot : BitVec 16
  /-- ns for which it has waited for descriptors, or, of a `LAUNCH` with a herd started, for residency: no watchdog measures them (02 R58, 09
  R229); while a copy waits for a descriptor `mark` is when that began -/
  unmeasured : Nat
deriving DecidableEq, Repr

/-! ## Configuration (10 R253 to R255) -/

/-- Entry of a bandwidth group (10 R253). -/
structure Share where
  int : Nat
  fab : Nat
  credits : Nat
deriving DecidableEq, Repr

/-- What a region uses: Hamper carve, group table (64) and stall period. -/
structure RegionCfg where
  h : Nat
  shares : List Share
  stallMs : Nat
deriving DecidableEq, Repr

/-- Placement of one block: its word and the first row slot on each of the 1,024 pseudo-channels that it uses, as
(64 * region + pseudo-channel, base) (06 R133, R134). -/
structure Place where
  block : Nat
  word : Word64
  base : List (Nat × Nat)
deriving DecidableEq, Repr

/-- A staged or applying change (10 R253). -/
structure Change where
  token : Nat
  hamper : Option (List (Option Nat))
  groups : Option (List (Option Share))
  stall : Option Nat
  places : List Place
  begun : Nat
deriving DecidableEq, Repr

/-- The configuration block (10 R255). -/
structure Cf where
  token : Word
  staged : Option Change
  applying : Option Change
  pendingRegions : BitVec 16
  stall : Word
  nextToken : Nat
  regions : List RegionCfg
  place : List Place
deriving DecidableEq, Repr

/-! ## HBM (11) -/

/-- One stack and its controller (11 R277). `wq`: sectors whose writes wait in the write queues of its pseudo-channels, in row order (11 R262);
their data is in `State.back`, which a read of a queued sector is served from. `scrubs`: patrol-scrub reads that wait; `rows`: the open rows, as
(64 * pseudo-channel + bank, row slot). -/
structure Stack where
  wq : List Nat
  scrubs : List HbmRead
  rows : List (Nat × Nat)
  tempC : BitVec 8
  step : BitVec 3
  trained : Bool
  heldSince : Nat
  pcFail : Word64
  dq : BitVec 8
  ca : BitVec 8
  ce : Word
  ue : Word
  sticky : Bool
  refreshed : Nat
  scrubbed : Nat
deriving DecidableEq, Repr

/-- A Rambler run in progress (11 R274). `lasts`: its run time without the closing wipe, in 0.1 ms; `inOrder`: it visits in address order; `stopped`:
channels that a thermal step has stopped and that have been wiped; `found`: per such channel, the sectors that differed from the pattern before. -/
structure Rambler where
  cid : Nat
  channels : BitVec 512
  op : Nat
  pattern : Nat
  seed : Word
  passes : Nat
  raw : Bool
  started : Nat
  lasts : Nat
  inOrder : Bool
  stopped : BitVec 512
  found : List (Nat × List Nat)
deriving DecidableEq, Repr

/-! ## Fabric (12) and collectives (07) -/

/-- `FX_PORT_STATUS.STATE` (12 R302). -/
inductive PortState where
  | down
  | up
  | live
  | duplicate
deriving DecidableEq, Repr

/-- A message that waits at its egress port, and, of a forwarded one, the receive buffer that it still takes: port, pool, flits (12 R282,
R289). -/
structure OutMsg where
  m : Msg
  coll : Option CollHdr
  data : List Byte
  back : Option (Nat × Nat × Nat)
deriving DecidableEq, Repr

/-- One Rhotchasar port (12 R278 to R302). Of the replay buffer it keeps the numbers of the flits in it: `lastAck` is the first one not
acknowledged and `txNext` the next to be sent. `resends`: for each replay that an unacknowledged flit was part of, `txNext` at that time;
`discards`: times of discarded flits in the last second; `credits`: those held toward the peer, `rx`: flits in the receiver's buffers, `owed`:
credits to return, each per pool; `outq`: messages that wait for credits or room; `heard`: a heartbeat has arrived since the port came up. -/
structure Port where
  en : Bool
  rateCap : Bool
  st : PortState
  training : Bool
  width2 : Bool
  half : Bool
  spareFor : BitVec 3
  peerPkg : BitVec 12
  peerValid : Bool
  peerReady : Bool
  peerPort : BitVec 4
  inc : Word
  peerInc : Word
  crcErr : Word
  replays : Word
  losses : Word
  rxNext : BitVec 16
  txNext : BitVec 16
  lastAck : BitVec 16
  resends : List (BitVec 16)
  discards : List Nat
  retraining : Bool
  credits : List Nat
  rx : List Nat
  owed : List Nat
  outq : List OutMsg
  lastBeat : Nat
  heard : Bool
  sentBeat : Nat
  /-- the incarnation that the peer was last sent (12 R295, R301) -/
  sentInc : Word
  trainSince : Nat
  txnNext : Nat
deriving DecidableEq, Repr

/-- Who waits for a remote operation: a request of a herd, a Nolzin command, a collective contribution, or a request of the host. -/
inductive TxnOwner where
  | herd (rid : Nat)
  | cmd (cid : Nat)
  /-- data that a DMA command has asked for, and where its parts go: (offset in the data, destination, bytes) -/
  | dma (cid : Nat) (parts : List (Nat × Nat × Nat))
  | coll (cid : Nat) (c : CollHdr) (data : List Byte)
  /-- a piece of a BAR2 read or AtomicOp: its operation, where the piece goes, and the bytes of the response that it takes -/
  | bar2 (op off lo n : Nat)
  /-- a BAR2 write of a function -/
  | bar2Write (fn : Nat)
  /-- a read of a submission ring in host memory (09 R408) -/
  | ring (q : QRef)
  /-- nobody: what waited has ended, and the answer is still to come. `inst`: the instance whose access it is; `sent`: of a contribution, the
  region of the engine that sent it, the owner's engine and its bytes (12 R292, 13 R316) -/
  | gone (inst : Option Nat) (sent : Option (Nat × (Nat × Nat) × Nat))
deriving DecidableEq, Repr

/-- An outstanding requester transaction (12 R293). Port 16 stands for the host: its transactions are the commands' PCIe
requests, with `dst` the virtual and `addr` the host address. -/
structure Txn where
  port : Nat
  num : Nat
  owner : TxnOwner
  dst : Nat
  addr : Nat
  since : Nat
  first : Nat
  resendAt : Option Nat
deriving DecidableEq, Repr

/-- A request of a peer that waits here on a derated or held home (12 R293). -/
structure Inbound where
  port : Nat
  msg : Msg
  data : List Byte
  lastPending : Nat
  /-- it has missed: its line is brought in for it (06 R136) -/
  missed : Bool
deriving DecidableEq, Repr

/-- A contribution received for a collective (07 R161, R166). -/
structure Contribution where
  port : Nat
  rank : Nat
  hdr : CollHdr
  data : List Byte
  txn : BitVec 14
  pkg : BitVec 12
  srcPort : BitVec 4
deriving DecidableEq, Repr

/-- The collective in progress on a group (07 R166, R167). `arrived`: ranks whose arrival has been seen. `got`: pieces of the result
received, as (offset in the result, rank they come from); of a deterministic reduction they lie in the staging area until their line is final.
`finals`: offsets of the lines that are final. `sends`: messages still to send, as (rank, offset, data); empty data is an arrival
flit. `restart`: its entry or the last beacon; `beacons`: one has come; `came`: when the last contribution or arrival came. What it has still
to read of `SRC` is its command's `todo`. -/
structure Coll where
  cid : Nat
  seq : Nat
  hdr : CollHdr
  entered : Nat
  restart : Nat
  beacons : Bool
  came : Nat
  arrived : List Nat
  got : List (Nat × Nat)
  finals : List Nat
  sends : List (Nat × Nat × List Byte)
deriving DecidableEq, Repr

/-- A group (07 R162, R163). Members are (package, region) in rank order. -/
structure Group where
  id : Nat
  inst : Nat
  rank : Nat
  timeoutMs : Nat
  members : List (Nat × Nat)
  seq : Nat
  broken : Option Nat
  coll : Option Coll
  held : List Contribution
  /-- when this module last sent a beacon to its members (12 R297) -/
  beaconAt : Nat
deriving DecidableEq, Repr

/-- The module fields of the fabric block (12 R302). -/
structure Fx where
  pkgId : BitVec 12
  valid : Bool
  txnTimeout : BitVec 16
  ports : List Port
  routes : List (Nat × Word64)
  groups : List Group
  txns : List Txn
  inbound : List Inbound
deriving DecidableEq, Repr

/-! ## Host interface (13) -/

/-- MSI-X and bus-master state of one function (13 R314, R317, R318). A function that is not listed has Bus Master Enable 0,
MSI-X and ATS enabled, no Function Mask, and no vector masked or pending (log 21). -/
structure FnCfg where
  fn : Nat
  busMaster : Bool
  msixEn : Bool
  fnMask : Bool
  ats : Bool
  masked : List Nat
  pendingBits : List Nat
  /-- words 0 to 2 of the MSI-X table's entries, keyed by 4 * vector + word -/
  table : RegFile
deriving DecidableEq, Repr

/-- A cached ATS translation (13 R315): instance, 4 KiB host page, the page that it is translated to, and whether the host lets it be read and
written. -/
structure Ats where
  inst : Nat
  page : Nat
  at_ : Nat
  readable : Bool
  writable : Bool
deriving DecidableEq, Repr

/-- IDE stream states (13 R319). -/
inductive IdeState where
  | insecure
  | secure
deriving DecidableEq, Repr

/-- A BAR2 read or AtomicOp that is performed over the fabric (13 R311): pieces still to come, and those that came, by offset. -/
structure Bar2Op where
  id : Nat
  fn : Nat
  len : Nat
  left : Nat
  got : List (Nat × List Byte)
deriving DecidableEq, Repr

/-- The doorbells of a queue (09 R205). -/
inductive Bell where
  | sqTail
  | cqHead
  | resume
deriving DecidableEq, Repr

/-- A posted write of a requester, known by its function, that waits for its home or for the earlier ones: to BAR2, at an address in it, or to a
doorbell (08 R200, 09 R207). -/
inductive Posted where
  | bar2 (fn addr : Nat) (data : List Byte)
  | bell (fn : Nat) (b : Bell) (q : QRef) (value : Word)
deriving DecidableEq, Repr

/-- An SPDM path (13 R321, 17 R399): no session, one being set up, or a secured session. -/
inductive Spdm where
  | idle
  | handshake
  | secured
deriving DecidableEq, Repr

/-- The host interface (13). `posted`: writes that wait, in order; `doe`: the SPDM session of the DOE mailbox; `width` and `rate` in GT/s of the link in L0; `ready`: step 4 of R312. -/
structure HostIf where
  linkUp : Bool
  width : Nat
  rate : Nat
  ready : Bool
  numVfs : Nat
  vfEn : Bool
  fns : List FnCfg
  ats : List Ats
  ide : List IdeState
  keys : List Nat
  bar2 : List Bar2Op
  posted : List Posted
  doe : Spdm
deriving DecidableEq, Repr

/-! ## Management, reset, life cycle (09 R231, 14) -/

/-- `MG_` block (09 R231). -/
structure Mg where
  sqAddr : BitVec 52
  cqAddr : BitVec 52
  sqLog2 : BitVec 5
  cqLog2 : BitVec 5
  en : Bool
  vector : BitVec 11
  wdMs : Word
  queue : Queue
deriving DecidableEq, Repr

/-- Fuse fields (00 R3, 14 R332). -/
structure Fuse where
  grade : BitVec 4
  coreEn : Word64
  arrayEn : BitVec 256
  stackGib : BitVec 8
  lcFuse : BitVec 3
  deviceId : BitVec 128
  ownerKeyHash : BitVec 384
  fwSvn : Word64
deriving DecidableEq, Repr

/-- The option-area fields (14 R333). -/
structure OptFields where
  capDefault : BitVec 16
  hamperMaxWays : BitVec 8
  attribMode : BitVec 8
  arrayRamp : BitVec 8
  vfBar2Log2 : BitVec 8
  pdetDefault : BitVec 8
deriving DecidableEq, Repr

/-- A firmware slot in flash (14 R335, R343): whether its signature verifies, and its header fields. -/
structure FwImage where
  sigOk : Bool
  svn : Nat
  version : Word
  commitSvn : Bool
  digest : BitVec 384
deriving DecidableEq, Repr

/-- Flash (14 R331, 15 R361, 16 R378, 17 R397). `active` false: slot A. -/
structure Flash where
  slotA : FwImage
  slotB : FwImage
  active : Bool
  optArea : OptFields
  optFormat : BitVec 16
  optDigestOk : Bool
  optDigest : BitVec 384
  shadow : Option (OptFields × BitVec 16 × BitVec 384)
  gvar : Option (List Nat)
  fenceList : Word64
  fenceListOk : Bool
deriving DecidableEq, Repr

/-- Boot progress (14 R334): in POR, in `MODULE_COLD`, just released, dies held for want of an image, firmware
starting, ready. -/
inductive BootPhase where
  | por
  | cold
  | loaded
  | imageFailed
  | starting
  | ready
deriving DecidableEq, Repr

/-- The reset block (14 R347) and what the package controller keeps of resets. `wdHeld`, `wdSince`: dies that the command-processor
watchdog holds, and since when; `stopHeld`: regions that a router stop cut off; `exiting`: units whose exit sequence runs, with its
start; `warm`: `MODULE_WARM` is in force. -/
structure Rs where
  holdDie : BitVec 8
  holdRegion : BitVec 16
  dieHeld : BitVec 8
  regionHeld : BitVec 16
  stopHeld : BitVec 16
  wdHeld : BitVec 8
  wdSince : List Nat
  ready : BitVec 16
  last : BitVec 4
  vbatLost : Bool
  optDefaulted : Bool
  pllRelock : Bool
  counts : List Word
  boot : BootPhase
  warm : Bool
  exiting : List (ResetUnit × Nat)
deriving DecidableEq, Repr

/-- Life cycle and firmware (14 R338 to R347). `held`: type, slot image or option fields of the staged image.
`meas`: measurements 1, 2, 3 (digest and OPT_DEFAULTED), 4 (as one number), 6 (as one number) (R346); `optDigest`: digest of the option area
that was loaded. -/
structure Lc where
  st : BitVec 3
  nonce : BitVec 128
  heldType : BitVec 2
  heldImage : Option FwImage
  fallback : Bool
  version : Word
  svn : Nat
  optDigest : BitVec 384
  meas : List Nat
deriving DecidableEq, Repr

/-! ## Power, health, pins, sideband (15, 16, 17) -/

/-- Power state (15). `limit` is the compute thermal limit; `alerts` the sources that assert; `holdUntil` the end of the
1 ms hold. -/
structure Pw where
  preq : BitVec 3
  cap : Nat
  newCap : Option (Nat × Bool × Nat)
  pdet : Bool
  div : Nat
  skip : Nat
  limCap : Bool
  limTherm : Bool
  limAlert : Bool
  limit : Option Nat
  /-- effective caps that have ended, newest first, with when; before the first one there was none (15 R354) -/
  capHist : List (Nat × Nat)
  overTherm : Bool
  forced : Bool
  alerts : List AlertSource
  holdUntil : Option Nat
  alertCount : Word
  gvar : List Nat
  gvarSpare : List Nat
  tripped : Bool
  /-- D that the core voltage is set for (15 R351, R352) -/
  vdiv : Nat
  /-- a faster setting that the voltage rises for, and when it has risen (15 R352) -/
  rise : Option (Nat × Nat)
  /-- dies that have left reset and still run at P7 (15 R352) -/
  exitP7 : BitVec 8
deriving DecidableEq, Repr

/-- Events of one kind in a metered partition since the last attribution (10 R258): of an instance, as its number + 1, or of management, 0. -/
structure Count where
  owner : Nat
  kind : Nat
  part : Nat
  n : Nat
deriving DecidableEq, Repr

/-- Telemetry (15 R369). -/
structure Tl where
  pIn : BitVec 16
  pFixed : BitVec 16
  pMax : BitVec 16
  energyIn : Word64
  unattrib : Word64
  cj : List (BitVec 8)
  bj : List (BitVec 8)
  eDie : List Word64
  /-- input energy below 1 mJ, in µJ; energy charged to instances since `MODULE_COLD`, in nJ -/
  uj : Nat
  charged : Nat
  /-- the periods of the last second: time, input power, and the 1 ms average then -/
  hist : List (Nat × Nat × Nat)
  counts : List Count
deriving DecidableEq, Repr

/-- Fencing and links (16 R376 to R387). -/
structure Health where
  fenced : Word64
  causes : List (Nat × Nat)
  bridgeOos : BitVec 12
  rlinkOos : BitVec 8
  stopFail : BitVec 128
  atRisk : List (Nat × Nat)
  /-- fences with their causes that wait for an instance reset to reach its slot wipe (16 R377) -/
  fenceWait : List (Nat × Nat)
deriving DecidableEq, Repr

/-- Pending event records and the rate limit (16 R375). -/
structure Events where
  pend : List Record
  /-- records lost since a class 0x3F record was written, and when the first of them was -/
  lost : Nat
  lostAt : Nat
  /-- per source, when its last corrected-error record was written -/
  rate : List (Nat × Nat)
  /-- copies that the sideband controller has not fetched (17 R401): code and detail -/
  side : List (Nat × Nat)
deriving DecidableEq, Repr

/-- Pins and supplies (17 R389 to R395). -/
structure Pins where
  v48 : Bool
  v3p3sb : Bool
  vbat : Bool
  perstN : Bool
  modRstN : Bool
  pwrAlertN : Bool
  modPwrgd : Bool
  thermtripN : Bool
  sbAlertN : Bool
  straps : BitVec 2
deriving DecidableEq, Repr

/-- Sideband and test access (17 R399 to R404). -/
structure Side where
  dynAddr : Option (BitVec 7)
  eid : BitVec 8
  tap : TapInstr
  /-- bytes that the firmware console has received on `DBG_UART_RX` (17 R404) -/
  console : List Byte
  /-- the SPDM session of the sideband (17 R399) -/
  spdm : Spdm
  /-- an activation of firmware that waits for the running admin command (17 R402) -/
  activating : Bool
deriving DecidableEq, Repr

/-- `CLK_CORE` of a die (15 R348). `phase`: what has passed of the current cycle, in periods of 115.2 GHz; `pos`: its place among 64 (15 R351);
`cycles`: those that have run. -/
structure DieClk where
  phase : Nat
  pos : Nat
  cycles : Nat
deriving DecidableEq, Repr

/-- Main PLL and clocks (15 R348, R349): `CLK_CORE` of each die. -/
structure Clk where
  pllLocked : Bool
  stopped : Bool
  restarts : Nat
  dies : List DieClk
deriving DecidableEq, Repr

/-- What a sector held before a write: its place in the order of such writes, the sector, the 32 bytes (01 R29, 03 R61). -/
structure Past where
  seq : Nat
  sec : Nat
  bytes : List Byte
deriving DecidableEq, Repr

/-- The whole machine. `hist`: contents that running kernels and commands can still see as old page-table entries and instruction words;
`histSeq`: the place of the next one; `bankq`: numbers of the requests in the banks' queues, in
order of arrival (06 R128). -/
structure State where
  pending : List Instr
  outbox : List Output
  freeSeq : Nat
  nextId : Nat
  time : Nat
  clk : Clk
  fuse : Fuse
  flash : Flash
  opt : OptFields
  mem : Memory
  back : Memory
  deadMarks : List Nat
  poisonMarks : List Nat
  hist : List Past
  histSeq : Nat
  hostMem : Memory
  llc : List Line
  poisonMode : BitVec 16
  reqs : List Req
  hbmEntries : List HbmEntry
  replay : List Replay
  fillHold : List Replay
  bankq : List Nat
  cores : List Core
  insts : List Inst
  cmds : List Cmd
  mg : Mg
  cf : Cf
  hbm : List Stack
  scrubEn : Bool
  scrubH : BitVec 8
  rambler : Option Rambler
  fx : Fx
  host : HostIf
  rs : Rs
  lc : Lc
  pw : Pw
  tl : Tl
  health : Health
  events : Events
  pins : Pins
  side : Side
deriving DecidableEq, Repr

/-! ## Reset values -/

/-- A queue that is not defined (09 R211). -/
def Queue.disabled : Queue :=
  { num := 0, sqAddr := 0, cqAddr := 0, sqLog2 := 6, cqLog2 := 6, sqHost := true, cqHost := true, vector := 0, ctx := 0,
    region := 0, coll := false, st := .disabled, sqHead := 0, sqTail := 0, cqHead := 0, cqWrite := 0, phase := true,
    cqFull := false, dbErr := false, held := [], capped := false, derated := false, reread := false, fetched := [],
    asked := none }

/-- An array after its wipe (14 R328): buffers and banks are listed empty, every value of them 0. -/
def Eland.reset : Eland := { wbuf := [[], []], scale := [[], []], acc := [[], []], half := [] }

/-- The path after its wipe (14 R328). -/
def Path.reset : Path := { abuf := [], acc := [] }

/-- A core after its wipe: no slot assigned, no herd, every landing line free (02 R32, 06 R144). -/
def Core.reset : Core :=
  { held := false, pipes := [none, none, none, none], arrays := List.replicate 4 Eland.reset, bufs := [none, none], bank := 0, path := Path.reset, slots := [], herds := [], landing := 1536, arrNext := 0, sbNext := 0,
    arrIdleSince := [0, 0, 0, 0], ues := [] }

/-- The defaults of the option area (14 R333). -/
def OptFields.defaults : OptFields :=
  { capDefault := 4000, hamperMaxWays := 16, attribMode := 0, arrayRamp := 0, vfBar2Log2 := 34, pdetDefault := 0 }

/-- Each region after `MODULE_COLD`: H 0, shares 15, credits 16, stall period 2 s (10 R242, R253). -/
def RegionCfg.reset : RegionCfg :=
  { h := 0, shares := List.replicate 64 { int := 15, fab := 15, credits := 16 }, stallMs := 2000 }

/-- Configuration after `MODULE_COLD` (10 R253, R255). -/
def Cf.reset : Cf :=
  { token := 0, staged := none, applying := none, pendingRegions := 0, stall := 0x7D0, nextToken := 1,
    regions := List.replicate 16 RegionCfg.reset, place := [] }

/-- A stack before training (11 R277). -/
def Stack.reset : Stack :=
  { wq := [], scrubs := [], rows := [], tempC := 0, step := 0, trained := false, heldSince := 0, pcFail := 0, dq := 0, ca := 0, ce := 0, ue := 0,
    sticky := false, refreshed := 0, scrubbed := 0 }

/-- Credits toward a peer whose buffers are empty (12 R282). -/
def fullCredits : List Nat := [256, 992, 992, 992, 992, 992, 992, 992, 992]

/-- A port at step 1 of its bring-up (12 R284, R302). -/
def Port.reset : Port :=
  { en := true, rateCap := false, st := .down, training := false, width2 := false, half := false, spareFor := 0,
    peerPkg := 0, peerValid := false, peerReady := false, peerPort := 0, inc := 0, peerInc := 0, crcErr := 0,
    replays := 0, losses := 0, rxNext := 0, txNext := 0, lastAck := 0, resends := [], discards := [],
    retraining := false, credits := fullCredits, rx := List.replicate 9 0, owed := List.replicate 9 0, outq := [], lastBeat := 0, heard := false, sentBeat := 0, sentInc := 0, trainSince := 0, txnNext := 0 }

/-- Fabric block after `MODULE_COLD` (12 R287, R302). -/
def Fx.reset : Fx :=
  { pkgId := 0, valid := false, txnTimeout := 10, ports := List.replicate 16 Port.reset, routes := [], groups := [],
    txns := [], inbound := [] }

/-- Host interface before the link trains (13 R303, R314). -/
def HostIf.reset : HostIf :=
  { linkUp := false, width := 0, rate := 0, ready := false, numVfs := 0, vfEn := false, fns := [],
    ats := [], ide := List.replicate 65 .insecure, keys := [], bar2 := [], posted := [], doe := .idle }

/-- `MG_` after reset (09 R231). -/
def Mg.reset : Mg :=
  { sqAddr := 0, cqAddr := 0, sqLog2 := 6, cqLog2 := 6, en := false, vector := 0, wdMs := 0x7D0,
    queue := Queue.disabled }

/-- DESIGN CHOICE (log 2): the module is a TK9-A with every core and array enabled, fused `DEPLOYED`, with an owner
key hash and a device identifier of no meaning; the spec gives fuses no value. -/
def Fuse.reset : Fuse :=
  { grade := 1, coreEn := BitVec.allOnes 64, arrayEn := BitVec.allOnes 256, stackGib := 64, lcFuse := 3, deviceId := 0,
    ownerKeyHash := 1, fwSvn := 0 }

/-- DESIGN CHOICE (log 2): a firmware slot as shipped. -/
def FwImage.reset : FwImage := { sigOk := true, svn := 0, version := 0, commitSvn := false, digest := 0 }

/-- DESIGN CHOICE (log 2): flash as shipped: both slots good, slot A active, the default option area, no record of
G_var, an empty fence list that authenticates. -/
def Flash.reset : Flash :=
  { slotA := FwImage.reset, slotB := FwImage.reset, active := false, optArea := OptFields.defaults, optFormat := 1,
    optDigestOk := true, optDigest := 0, shadow := none, gvar := none, fenceList := 0, fenceListOk := true }

/-- The reset block right after POR (14 R347). -/
def Rs.reset : Rs :=
  { holdDie := 0, holdRegion := 0, dieHeld := 0, regionHeld := 0, stopHeld := 0, wdHeld := 0,
    wdSince := List.replicate 8 0, ready := 0, last := 0, vbatLost := false, optDefaulted := false,
    pllRelock := false, counts := List.replicate 16 0, boot := .cold, warm := false, exiting := [] }

/-- Life cycle at reset: `LC_STATE` from the fuses of `Fuse.reset` (14 R347). -/
def Lc.reset : Lc :=
  { st := 2, nonce := 0, heldType := 0, heldImage := none, fallback := false, version := 0, svn := 0,
    optDigest := 0, meas := [0, 0, 0, 0, 0] }

/-- Power at reset: cap from `OB_CAP_DEFAULT`, D 192, G_var 40 mV where no record exists (15 R361, R368). -/
def Pw.reset : Pw :=
  { preq := 0, cap := 4000, newCap := none, pdet := false, div := 192, skip := 0, limCap := false, limTherm := false,
    limAlert := false, limit := none, capHist := [], overTherm := false, forced := false,
    alerts := [], holdUntil := none, alertCount := 0, gvar := List.replicate 8 40,
    gvarSpare := List.replicate 8 0, tripped := false, vdiv := 192, rise := none, exitP7 := 0 }

/-- Telemetry at reset (15 R369). -/
def Tl.reset : Tl :=
  { pIn := 0, pFixed := 0, pMax := 0, energyIn := 0, unattrib := 0, cj := List.replicate 8 0, bj := List.replicate 8 0,
    eDie := List.replicate 8 0, uj := 0, charged := 0, hist := [], counts := [] }

/-- Pins at reset. DESIGN CHOICE (log 1): supplies present, POR released, `PERST_N` and `MOD_RST_N` still low. -/
def Pins.reset : Pins :=
  { v48 := true, v3p3sb := true, vbat := true, perstN := false, modRstN := false, pwrAlertN := true, modPwrgd := true,
    thermtripN := true, sbAlertN := true, straps := 0 }

/-- A die's clock before its first cycle. -/
def DieClk.reset : DieClk := { phase := 0, pos := 0, cycles := 0 }

/-- The machine right after reset: POR released and `MODULE_COLD` in force, every register at its reset value, every
memory wiped (14 R322, R328). The command that ends `MODULE_COLD` is COLD_BOOT (log 1). -/
def State.reset : State :=
  { pending := [], outbox := [], freeSeq := 0, nextId := 0, time := 0,
    clk := { pllLocked := false, stopped := false, restarts := 0, dies := List.replicate 8 DieClk.reset }, fuse := Fuse.reset, flash := Flash.reset,
    opt := OptFields.defaults, mem := [], back := [], deadMarks := [], poisonMarks := [], hist := [], histSeq := 0, hostMem := [], llc := [],
    poisonMode := 0, reqs := [], hbmEntries := [], replay := [], fillHold := [], bankq := [], cores := List.replicate 64 Core.reset, insts := [],
    cmds := [], mg := Mg.reset, cf := Cf.reset, hbm := List.replicate 16 Stack.reset, scrubEn := true, scrubH := 0x0C,
    rambler := none, fx := Fx.reset, host := HostIf.reset, rs := Rs.reset, lc := Lc.reset, pw := Pw.reset,
    tl := Tl.reset,
    health := { fenced := 0, causes := [], bridgeOos := 0, rlinkOos := 0, stopFail := 0, atRisk := [], fenceWait := [] },
    events := { pend := [], lost := 0, lostAt := 0, rate := [], side := [] }, pins := Pins.reset,
    side := { dynAddr := none, eid := 0, tap := .idcode, console := [], spdm := .idle, activating := false } }

end Sys2Proof.Machine
end

