-- ==== Sys2Proof/Machine/Ops.lean ====
section
/-! DEFINITION. The named operations over memory and over the parts of the state, which every meaning is built from:
sparse memories, bit fields, look-ups and updates, outputs, records, address map, placement, translation, the home. -/
namespace Sys2Proof.Machine

/-! ## Sparse memories and register files -/

/-- What a sparse file holds at `a`; an unlisted place reads 0 (14 R328, log 20). -/
def spGet {w : Nat} : List (Nat × BitVec w) → Nat → BitVec w
  | [], _ => 0
  | (k, v) :: m, a => if a = k then v else spGet m a

/-- Write `b` at `a`, keeping addresses strictly rising and listing no 0. -/
def spSet {w : Nat} : List (Nat × BitVec w) → Nat → BitVec w → List (Nat × BitVec w)
  | [], a, b => if b = 0 then [] else [(a, b)]
  | (k, v) :: m, a, b =>
    if a < k then (if b = 0 then (k, v) :: m else (a, b) :: (k, v) :: m)
    else if a = k then (if b = 0 then m else (a, b) :: m)
    else (k, v) :: spSet m a b

/-- Addresses strictly rise, and nothing listed is 0. -/
def spWf {w : Nat} : List (Nat × BitVec w) → Bool
  | [] => true
  | [(_, v)] => v ≠ 0
  | (k, v) :: (k', v') :: m => decide (v ≠ 0) && decide (k < k') && spWf ((k', v') :: m)

/-- The canonical form of a memory. -/
def Memory.wf (m : Memory) : Bool := spWf m

/-- `n` consecutive bytes from `a`. -/
def readBytes (m : Memory) (a : Nat) : Nat → List Byte
  | 0 => []
  | n + 1 => spGet m a :: readBytes m (a + 1) n

/-- Consecutive bytes from `a`. -/
def writeBytes (m : Memory) (a : Nat) : List Byte → Memory
  | [] => m
  | b :: bs => writeBytes (spSet m a b) (a + 1) bs

/-- Remove every place whose address satisfies `p`: it reads 0 again. -/
def spWipe {w : Nat} (p : Nat → Bool) (m : List (Nat × BitVec w)) : List (Nat × BitVec w) := m.filter (fun c => !p c.1)

/-- Little-endian bytes of a number (00 R5). -/
def leBytes (n : Nat) : Nat → List Byte
  | 0 => []
  | k + 1 => BitVec.ofNat 8 n :: leBytes (n / 256) k

/-- The number that little-endian bytes hold (00 R5). -/
def leNat : List Byte → Nat
  | [] => 0
  | b :: bs => b.toNat + 256 * leNat bs

/-- Bits [hi:lo] of a number. -/
def bits (n hi lo : Nat) : Nat := n / 2 ^ lo % 2 ^ (hi + 1 - lo)

/-- Bit i of a number. -/
def bit (n i : Nat) : Bool := n.testBit i

/-- Sign-extend the low `w` bits of a number. -/
def signed (n w : Nat) : Int := (BitVec.ofNat w n).toInt

/-- A saturating 32-bit count (00, 02 R57, 14 R337). -/
def satInc (c : Word) (n : Nat) : Word := if c.toNat + n < 2 ^ 32 then BitVec.ofNat 32 (c.toNat + n) else BitVec.allOnes 32

/-- A saturating 64-bit count (15 R366). -/
def satInc64 (c : Word64) (n : Nat) : Word64 :=
  if c.toNat + n < 2 ^ 64 then BitVec.ofNat 64 (c.toNat + n) else BitVec.allOnes 64

/-- ceil(n / d) -/
def cdiv (n d : Nat) : Nat := (n + d - 1) / d

/-! ## Lists -/

/-- Apply `f` to the entries that satisfy `p`. -/
def updWhere {α : Type} (p : α → Bool) (f : α → α) (l : List α) : List α := l.map (fun x => if p x then f x else x)

/-- Apply `f` to the first entry that satisfies `p`. -/
def updFirst {α : Type} (p : α → Bool) (f : α → α) : List α → List α
  | [] => []
  | x :: xs => if p x then f x :: xs else x :: updFirst p f xs

/-- Apply `f` to entry `i`. -/
def updAt {α : Type} (l : List α) (i : Nat) (f : α → α) : List α :=
  match l, i with
  | [], _ => []
  | x :: xs, 0 => f x :: xs
  | x :: xs, i + 1 => x :: updAt xs i f

/-- Insert into a strictly rising list. -/
def insertNat : List Nat → Nat → List Nat
  | [], n => [n]
  | k :: l, n => if n < k then n :: k :: l else if n = k then k :: l else k :: insertNat l n

/-- Lanes 0 to 31. -/
def lanes32 : List Nat := List.range 32

/-- Set bits of a mask, ascending. -/
def maskBits (w n : Nat) : List Nat := (List.range w).filter (fun i => n.testBit i)

/-! ## Look-ups and updates -/

/-- Core n; a core number that does not exist reads as a core with nothing on it. -/
def State.core (s : State) (n : Nat) : Core := s.cores.getD n Core.reset

/-- Change core n. -/
def State.updCore (s : State) (n : Nat) (f : Core → Core) : State := { s with cores := updAt s.cores n f }

/-- The herd at a herd position. -/
def State.herd? (s : State) (h : HerdRef) : Option Herd := (s.core h.core).herds.find? (fun x => x.pos = h.pos)

/-- Change a herd. -/
def State.updHerd (s : State) (h : HerdRef) (f : Herd → Herd) : State :=
  s.updCore h.core (fun c => { c with herds := updWhere (fun x => decide (x.pos = h.pos)) f c.herds })

/-- An assigned slot. -/
def State.slot? (s : State) (r : SlotRef) : Option Slot := (s.core r.core).slots.find? (fun x => x.num = r.slot)

/-- Change a slot. -/
def State.updSlot (s : State) (r : SlotRef) (f : Slot → Slot) : State :=
  s.updCore r.core (fun c => { c with slots := updWhere (fun x => decide (x.num = r.slot)) f c.slots })

/-- An instance. -/
def State.inst? (s : State) (i : Nat) : Option Inst := s.insts.find? (fun x => x.id = i)

/-- Change an instance. -/
def State.updInst (s : State) (i : Nat) (f : Inst → Inst) : State :=
  { s with insts := updWhere (fun x => decide (x.id = i)) f s.insts }

/-- A context. -/
def State.ctx? (s : State) (c : CtxRef) : Option Ctx :=
  match s.inst? c.inst with
  | none => none
  | some i => i.ctxs.find? (fun x => x.num = c.ctx)

/-- Change a context. -/
def State.updCtx (s : State) (c : CtxRef) (f : Ctx → Ctx) : State :=
  s.updInst c.inst (fun i => { i with ctxs := updWhere (fun x => decide (x.num = c.ctx)) f i.ctxs })

/-- A queue; the admin queue while it is enabled or not. -/
def State.queue? (s : State) : QRef → Option Queue
  | .admin => some s.mg.queue
  | .tenant i q =>
    match s.inst? i with
    | none => none
    | some x => x.queues.find? (fun y => y.num = q)

/-- Change a queue. -/
def State.updQueue (s : State) (q : QRef) (f : Queue → Queue) : State :=
  match q with
  | .admin => { s with mg := { s.mg with queue := f s.mg.queue } }
  | .tenant i n => s.updInst i (fun x => { x with queues := updWhere (fun y => decide (y.num = n)) f x.queues })

/-- A begun command. -/
def State.cmd? (s : State) (cid : Nat) : Option Cmd := s.cmds.find? (fun c => c.cid = cid)

/-- Change a begun command. -/
def State.updCmd (s : State) (cid : Nat) (f : Cmd → Cmd) : State :=
  { s with cmds := updWhere (fun c => decide (c.cid = cid)) f s.cmds }

/-- Change a port. -/
def State.updPort (s : State) (p : Nat) (f : Port → Port) : State :=
  { s with fx := { s.fx with ports := updAt s.fx.ports p f } }

/-- Port p. -/
def State.port (s : State) (p : Nat) : Port := s.fx.ports.getD p Port.reset

/-- Change a stack. -/
def State.updStack (s : State) (k : Nat) (f : Stack → Stack) : State := { s with hbm := updAt s.hbm k f }

/-- Stack k. -/
def State.stack (s : State) (k : Nat) : Stack := s.hbm.getD k Stack.reset

/-- Configuration that region r uses. -/
def State.region (s : State) (r : Nat) : RegionCfg := s.cf.regions.getD r RegionCfg.reset

/-- Send something outside. -/
def State.emit (s : State) (o : Output) : State := { s with outbox := s.outbox ++ [o] }

/-- A fresh number for a command, request or operation. -/
def State.fresh (s : State) : Nat × State := (s.nextId, { s with nextId := s.nextId + 1 })

/-- A fresh free value (log 7). -/
def State.free (s : State) : Nat × State := (Config.freeBits s.freeSeq, { s with freeSeq := s.freeSeq + 1 })

/-- Count a reset cause (14 R337). -/
def State.countReset (s : State) (i : Nat) : State :=
  { s with rs := { s.rs with counts := updAt s.rs.counts i (fun c => satInc c 1) } }

/-- A new random `LC_NONCE` (14 R341). -/
def State.newNonce (s : State) : State :=
  let f := s.free
  { f.2 with lc := { f.2.lc with nonce := BitVec.ofNat 128 f.1 } }

/-- `n` fresh free bytes (log 7). -/
def State.freeBytes (s : State) (n : Nat) : List Byte × State :=
  ((List.range n).map (fun i => BitVec.ofNat 8 (Config.freeBits (s.freeSeq + i))), { s with freeSeq := s.freeSeq + n })

/-- The module runs: clocks on, out of POR and `MODULE_COLD`, firmware ready (14 R334, 15 R365). -/
def State.running (s : State) : Bool := s.rs.boot = .ready && !s.clk.stopped && !s.pw.tripped && !s.rs.warm

/-- Clocks and supplies are on: the package controller and the sideband act (14 R322, 17 R400). -/
def State.outOfCold (s : State) : Bool :=
  s.rs.boot != .por && s.rs.boot != .cold && !s.clk.stopped && !s.pw.tripped

/-- The logic clocks run (15 R349, R365). -/
def State.clocked (s : State) : Bool := !s.clk.stopped && !s.pw.tripped

/-- A row that nothing performs while the logic clocks are stopped (15 R365). -/
def State.clockRow (s : State) (go : State) : State := if s.clocked then go else s

/-! ## What the TAP may hold (14 R338, 17 R403) -/

/-- A reset pin holds the module in `MODULE_COLD`. -/
def State.pinsHold (s : State) : Bool := s.rs.boot = .cold && (!s.pins.perstN || !s.pins.modRstN)

/-- The instruction that the TAP loads in place of one that the state forbids. -/
def State.tapLoads (s : State) (i : TapInstr) : TapInstr :=
  match i with
  | .bypass => .bypass
  | .idcode => .idcode
  | .samplePreload => .samplePreload
  | .extest => if s.pinsHold then .extest else .bypass
  | .extestPulse => if s.pinsHold then .extestPulse else .bypass
  | .extestTrain => if s.pinsHold then .extestTrain else .bypass
  | .debug => if s.lc.st = 2 then .bypass else .debug

/-- An instruction that the TAP holds and that the state forbids from now on gives way to `BYPASS` (DEDUCED, log 103). -/
def State.gateTap (s : State) : State := { s with side := { s.side with tap := s.tapLoads s.side.tap } }

/-! ## Clocks (15 R348 to R351) -/

/-- `n` cycles of a die's `CLK_CORE` as the divider makes them: of every 64 the last `SKIP` are suppressed and do not exist for the cores (15 R351). -/
def DieClk.advance (c : DieClk) (skip : Nat) : Nat → DieClk
  | 0 => c
  | n + 1 =>
    let c := { c with pos := (c.pos + 1) % 64, cycles := if c.pos < 64 - skip then c.cycles + 1 else c.cycles }
    c.advance skip n

/-- One cycle of `SYS_REFCLK` for a die's clock: 1,152 / D cycles (15 R348). -/
def DieClk.tick (c : DieClk) (div skip : Nat) : DieClk :=
  { c.advance skip ((c.phase + 1152) / max 64 div) with phase := (c.phase + 1152) % max 64 div }

/-- The clock of die d. -/
def State.dieClk (s : State) (d : Nat) : DieClk := s.clk.dies.getD d DieClk.reset

/-- D and `SKIP` of a die: the module's, or P7 until the firmware returns a die that has left reset to it (15 R352). -/
def State.dieSetting (s : State) (d : Nat) : Nat × Nat := if s.pw.exitP7.getLsbD d then (192, 0) else (s.pw.div, s.pw.skip)

/-- Set D and `SKIP` from one number, D below P7 first and then `SKIP`, and the voltage with them. No cycle under way is longer than one of the new
setting (15 R351, R352). -/
def State.setLevel (s : State) (n : Nat) : State :=
  let cut := fun (c : DieClk) => { c with phase := min c.phase (max 64 (min n 192) - 1) }
  { s with pw := { s.pw with div := min n 192, skip := n - 192, vdiv := min n 192, rise := none }
           clk := { s.clk with dies := s.clk.dies.map cut } }

/-- One cycle of `SYS_REFCLK`: the timebase advances by 10 ns, and with it `CLK_CORE` of every die that is not held in reset, unless every logic
clock is stopped (15 R348, R349, R352, R365). A setting that the voltage has risen for is made. -/
def State.tick (s : State) : State :=
  let s := { s with time := s.time + 10 }
  if s.clk.stopped || s.pw.tripped then s
  else
    let s := match s.pw.rise with
      | some (n, due) => if due ≤ s.time then s.setLevel n else s
      | none => s
    let one := fun (p : DieClk × Nat) =>
      if s.rs.dieHeld.getLsbD p.2 then p.1 else p.1.tick (s.dieSetting p.2).1 (s.dieSetting p.2).2
    { s with clk := { s.clk with dies := s.clk.dies.zipIdx.map one } }

/-! ## Events that energy is attributed by (10 R258) -/

/-- Count events of a kind in a partition, for an instance or for management (log 100). Kinds: array cycles of the formats' classes (0 to 2),
Springbok blocks (3), vector issue (4), LLC accesses (5), HBM bytes (6), fabric flits (7). Partitions: core n, LLC half 64 + r, HBM stack 80 + r,
SerDes of die 96 + d. -/
def State.countEvent (s : State) (inst : Option Nat) (kind part n : Nat) : State :=
  let owner := inst.elim 0 (fun i => i + 1)
  let mine := fun (c : Count) => c.owner = owner && c.kind = kind && c.part = part
  let counts := if s.tl.counts.any mine then updWhere mine (fun c => { c with n := c.n + n }) s.tl.counts
    else s.tl.counts ++ [{ owner := owner, kind := kind, part := part, n := n }]
  { s with tl := { s.tl with counts := counts } }

/-! ## Numbering and address map (01) -/

/-- Region of a core, die of a region (01 R14). -/
def regionOfCore (n : Nat) : Nat := n / 4
/-- Die of a region (01 R14). -/
def dieOfRegion (r : Nat) : Nat := r / 2
/-- Die of a core (01 R14). -/
def dieOfCore (n : Nat) : Nat := n / 8

/-- Die of a Rhotchasar port. -/
def dieOfPort (p : Nat) : Nat := p / 2

/-- Core n is enabled in `OB_CORE_EN` (00 R3). -/
def State.coreEnabled (s : State) (n : Nat) : Bool := decide (n < 64) && s.fuse.coreEn.getLsbD n

/-- Core n is fenced (16 R387). -/
def State.coreFenced (s : State) (n : Nat) : Bool := s.health.fenced.getLsbD n

/-- Region r is held in reset, for any reason: `REGION_HELD` (14 R347, 16 R380). -/
def State.regionHold (s : State) (r : Nat) : Bool :=
  s.rs.regionHeld.getLsbD r || s.rs.stopHeld.getLsbD r || s.rs.dieHeld.getLsbD (dieOfRegion r)

/-- The Blankets of region r are closed: it is held, or its exit sequence has not finished (14 R326, `RS_READY` of R347). -/
def State.regionDown (s : State) (r : Nat) : Bool := !s.rs.ready.getLsbD r

/-- Enabled arrays of core n, ascending (00 R3, R4). -/
def State.arraysOf (s : State) (n : Nat) : List Nat :=
  (List.range 4).filter (fun k => s.fuse.arrayEn.getLsbD (4 * n + k) && s.coreEnabled n)

/-- Package ID of a physical address (01 R19). -/
def paPkg (pa : Nat) : Nat := pa / 2 ^ 42
/-- Local address of a physical address (01 R19). -/
def paLocal (pa : Nat) : Nat := pa % 2 ^ 42

/-- Bytes of backed HBM (01 R19, R20). -/
def State.hbmBytes (s : State) : Nat := s.fuse.stackGib.toNat * 2 ^ 34

/-- A local address in the HBM range that is backed. -/
def State.inHbm (s : State) (a : Nat) : Bool := decide (a < s.hbmBytes)

/-- A local address lies in the Hamper window (01 R19). -/
def inWindow (a : Nat) : Bool := decide (2 ^ 40 ≤ a) && decide (a < 2 ^ 40 + 16 * 2 ^ 29)

/-- Region slot and offset of a window address (01 R21). -/
def windowSlot (a : Nat) : Nat := (a - 2 ^ 40) / 2 ^ 29
/-- Offset of a window address in its slot (01 R21). -/
def windowOff (a : Nat) : Nat := (a - 2 ^ 40) % 2 ^ 29

/-- Window address of Hamper way `w`, set `st` of half r (06 R138). -/
def windowAddr (r w st : Nat) : Nat := 2 ^ 40 + r * 2 ^ 29 + w * 2 ^ 24 + st * 256

/-- A local address that an access can reach (01 R20, R21). MMIO is not unbacked: it is outside every grant (R22). -/
def State.backed (s : State) (a : Nat) : Bool :=
  s.inHbm a || (inWindow a && decide (windowOff a < (s.region (windowSlot a)).h * 2 ^ 24)) || decide (2 ^ 41 ≤ a)

/-- A physical address of this module (01 R23). -/
def State.isLocal (s : State) (pa : Nat) : Bool := decide (paPkg pa = s.fx.pkgId.toNat)

/-- A local address lies in an instance's memory grant (01 R28, 10 R234, R236). -/
def Inst.grants (i : Inst) (a : Nat) : Bool :=
  i.extents.any (fun e => decide (e.1 ≤ a) && decide (a < e.1 + e.2))
    || (inWindow a && (i.hamper.getD (windowSlot a) 0).getLsbD (windowOff a / 2 ^ 24))

/-- A local address lies in some instance's grant (09 R227, 13 R309). -/
def State.granted (s : State) (a : Nat) : Bool := s.insts.any (fun i => i.grants a)

/-! ## Placement (06 R131 to R134) -/

/-- The Spread word (06 R133). -/
def spreadWord : Word64 := 0xFFFFFFFFFFFF0000

/-- Placement word of a block. -/
def State.placeWord (s : State) (block : Nat) : Word64 :=
  match s.cf.place.find? (fun p => p.block = block) with
  | some p => p.word
  | none => spreadWord

/-- The fold of 06 R131 before its last mask. -/
def foldG (g : Nat) : Nat :=
  g ^^^ (g >>> 4) ^^^ (g >>> 8) ^^^ (g >>> 12) ^^^ (g >>> 16) ^^^ (g >>> 20) ^^^ (g >>> 24)

/-- Regions of a placement word, ascending. -/
def wordRegions (w : Word64) : List Nat := maskBits 16 (bits w.toNat 31 16)

/-- Pseudo-channels of a placement word in each of its regions, ascending (06 R132). -/
def wordPcs (w : Word64) : List Nat := (maskBits 32 (bits w.toNat 63 32)).flatMap (fun c => [2 * c, 2 * c + 1])

/-- Home region of a local address: the hash of 06 R131 and R132, or the slot of a window address. -/
def State.homeRegion (s : State) (a : Nat) : Nat :=
  if inWindow a then windowSlot a
  else
    let rs := wordRegions (s.placeWord (a / 2 ^ 30))
    rs.getD (foldG (a / 2 ^ 11 % 2 ^ 29) % rs.length) 0

/-- log2 of a power of two (06 R132). -/
def ilog2 (n : Nat) : Nat := Nat.log2 n

/-- Granule within the block's share in its home region (06 R132). -/
def State.shareGranule (s : State) (a : Nat) : Nat :=
  (a / 2 ^ 11 % 2 ^ 19) / 2 ^ ilog2 (wordRegions (s.placeWord (a / 2 ^ 30))).length

/-- Share-relative line index j (06 R132). -/
def State.lineIndex (s : State) (a : Nat) : Nat := s.shareGranule a * 8 + a / 256 % 8

/-- Set of a line (06 R129), or of a window address (06 "Hamper"). -/
def State.setOf (s : State) (a : Nat) : Nat :=
  if inWindow a then windowOff a % 2 ^ 24 / 256 else s.lineIndex a % 65536

/-- Bank of a line (06 R129). -/
def bankOf (st : Nat) : Nat := (st % 64) ^^^ (st / 64 % 64) ^^^ (st / 4096)

/-- Pseudo-channel of an HBM address in its home stack (06 R132). -/
def State.pcOf (s : State) (a : Nat) : Nat :=
  let i := s.shareGranule a
  let pcs := wordPcs (s.placeWord (a / 2 ^ 30))
  pcs.getD (((i ^^^ (i >>> 6) ^^^ (i >>> 12) ^^^ (i >>> 18)) % 64) % pcs.length) 0

/-- Row slot of an HBM address on its pseudo-channel (06 R132, R134). -/
def State.rowSlot (s : State) (a : Nat) : Nat :=
  let b := a / 2 ^ 30
  let i := s.shareGranule a
  let n := (wordPcs (s.placeWord b)).length
  let base := match s.cf.place.find? (fun p => p.block = b) with
    | none => 512 * b
    | some p => ((p.base.find? (fun x => x.1 = 64 * s.homeRegion a + s.pcOf a)).map Prod.snd).getD 0
  base + i / 2 ^ ilog2 n

/-! ## LLC tags -/

/-- Sector number of an address, and its bit in its line's masks. -/
def secBit (sec : Nat) : Nat := sec % 8

/-- The tag of a line, if it is in its home half. -/
def State.tag? (s : State) (line : Nat) : Option Line := s.llc.find? (fun l => l.line = line)

/-- Where the bytes of a local address are stored: a pinned line lies in its Hamper way and is visible through the window
too (06 R139, R140). -/
def State.storeAddr (s : State) (a : Nat) : Nat :=
  match s.tag? (a / 256) with
  | some l => if l.pinned then windowAddr (s.homeRegion a) l.way (s.setOf a) + a % 256 else a
  | none => a

/-- The pinned line that a window address shows (06 R139, R140). -/
def State.aliased (s : State) (a : Nat) : Option Line :=
  if inWindow a then s.llc.find? (fun l => l.pinned && l.way = windowOff a / 2 ^ 24 && s.homeRegion (l.line * 256) = windowSlot a
    && s.setOf (l.line * 256) = windowOff a % 2 ^ 24 / 256)
  else none

/-- The sector that keeps the state of a sector: a window sector that shows a pinned line is that line's sector (06 R140). -/
def State.canonSec (s : State) (sec : Nat) : Nat :=
  match s.aliased (sec * 32) with
  | some l => l.line * 8 + secBit sec
  | none => sec

/-- A sector is valid in its home half. Window sectors always are (06 R138). -/
def State.secValid (s : State) (sec : Nat) : Bool :=
  inWindow (sec * 32) || match s.tag? (sec / 8) with
    | some l => l.pinned || l.valid.getLsbD (secBit sec)
    | none => false

/-- A sector lies under a dead tag (06 R147). -/
def State.underDeadTag (s : State) (sec : Nat) : Bool :=
  match s.tag? (sec / 8) with
  | some l => l.dead.getLsbD (secBit sec)
  | none => false

/-- A sector is marked: its marker is in the backing memory, or its dead tag records `DEADCHK` = 1 (06 R149). -/
def State.secMarked (s : State) (sec : Nat) : Bool :=
  match s.tag? (sec / 8) with
  | some l => (l.dead.getLsbD (secBit sec) && l.deadChk.getLsbD (secBit sec))
      || (!l.valid.getLsbD (secBit sec) && !l.pinned && s.deadMarks.contains sec)
  | none => s.deadMarks.contains sec

/-- A sector whose deadness a read can still detect (06 R149). -/
def State.secDead (s : State) (sec : Nat) : Bool := s.underDeadTag sec || s.secMarked sec

/-- The address lies on a failed pseudo-channel (11 R273). -/
def State.pcFailed (s : State) (a : Nat) : Bool := (s.stack (s.homeRegion a)).pcFail.getLsbD (s.pcOf a)

/-- A sector that reads as uncorrectable: poisoned in the LLC or marked in HBM, homed in a half in poison mode, or on a
failed pseudo-channel (11 R265, R266, R273, 16 R371). What lies under an unmarked dead tag is what the backing memory holds. -/
def State.secPoisoned (s : State) (sec : Nat) : Bool :=
  s.poisonMode.getLsbD (s.homeRegion (sec * 32)) ||
  let sec := s.canonSec sec
  match s.tag? (sec / 8) with
  | some l => l.poison.getLsbD (secBit sec)
      || (!l.valid.getLsbD (secBit sec) && !l.pinned && !(l.dead.getLsbD (secBit sec) && l.deadChk.getLsbD (secBit sec))
          && (s.poisonMarks.contains sec || s.pcFailed (sec * 32)))
  | none => s.poisonMarks.contains sec || (s.inHbm (sec * 32) && s.pcFailed (sec * 32))

/-! ## Event and error records (09 R226, 16 R372 to R375) -/

/-- An event record (09 R226). -/
def eventRecord (code : Nat) (detail time : Nat) : Record :=
  { seq := 0, status := BitVec.ofNat 8 code, opcode := 0xFF, cflags := 0, tag := 0, start := BitVec.ofNat 64 time,
    detail := BitVec.ofNat 64 detail, irq := true, event := true }

/-- The sideband's own copy of an event, whatever becomes of the admin record: it is pending until it is fetched, `SB_ALERT_N` is low
meanwhile, and an in-band interrupt is sent (17 R401). -/
def State.sideEvent (s : State) (code detail : Nat) : State :=
  { s with events := { s.events with side := s.events.side ++ [(code, detail)] }
           pins := { s.pins with sbAlertN := false }
           outbox := if s.side.dynAddr.isSome then s.outbox ++ [.i3cIbi] else s.outbox }

/-- A record is dropped and counted for the class 0x3F record, which was created when the first one was (16 R375). -/
def Events.lose (e : Events) (now : Nat) : Events := { e with lost := e.lost + 1, lostAt := if e.lost = 0 then now else e.lostAt }

/-- Change the newest entry that satisfies `p`. -/
def updLast {α : Type} (p : α → Bool) (f : α → α) (l : List α) : List α := (updFirst p f l.reverse).reverse

/-- Add a pending event; where 4,096 are pending it replaces the detail of the newest one of its code, or is counted as lost
(16 R375). -/
def Events.addEvent (e : Events) (code detail now : Nat) : Events :=
  let same := fun (r : Record) => decide (r.status = BitVec.ofNat 8 code)
  if e.pend.length < 4096 then { e with pend := e.pend ++ [eventRecord code detail now] }
  else if e.pend.any same then { e with pend := updLast same (fun r => { r with detail := BitVec.ofNat 64 detail }) e.pend }
  else e.lose now

/-- An event is posted, to the admin ring's store and to the sideband. -/
def State.postEvent (s : State) (code detail : Nat) : State :=
  ({ s with events := s.events.addEvent code detail s.time }).sideEvent code detail

/-- `DETAIL` of an error record without `REPEAT` (16 R372). -/
def errorDetail (cls sev source info : Nat) : Nat := cls + sev * 2 ^ 6 + source * 2 ^ 8 + info * 2 ^ 16

/-- Two error records that merge: same class, source and `ADDR` / `INFO` (16 R375). -/
def sameError (r : Record) (detail : Nat) : Bool :=
  r.status = 4 && bits r.detail.toNat 5 0 = bits detail 5 0 && bits r.detail.toNat 52 8 = bits detail 52 8

/-- An error record of a corrected error of a source. -/
def Record.corrected (r : Record) (source : Nat) : Bool :=
  r.status = 4 && bits r.detail.toNat 7 6 = 0 && bits r.detail.toNat 15 8 = source

/-- Count one more error in a record's `REPEAT` (16 R372). -/
def bumpRepeat (r : Record) : Record :=
  if bits r.detail.toNat 63 56 = 255 then r else { r with detail := r.detail + (1 <<< 56) }

/-- Add an error record (16 R375): merged into an equal pending one; a corrected error is merged into the pending corrected one of its source,
whatever its address, and is dropped where one of that source has been written in the last second (log 83); where the store is full it is
merged into the newest record of its class and source, or counted as lost. -/
def Events.addError (e : Events) (cls sev source info now : Nat) : Events :=
  let d := errorDetail cls sev source info
  let sameSrc := fun (r : Record) => r.status = 4 && bits r.detail.toNat 5 0 = cls && bits r.detail.toNat 15 8 = source
  if e.pend.any (fun r => sameError r d) then { e with pend := updFirst (fun r => sameError r d) bumpRepeat e.pend }
  else if sev = 0 && e.pend.any (fun r => r.corrected source) then { e with pend := updFirst (fun r => r.corrected source) bumpRepeat e.pend }
  else if sev = 0 && e.rate.any (fun p => decide (p.1 = source) && decide (now < p.2 + 1000000000)) then e
  else if e.pend.length < 4096 then { e with pend := e.pend ++ [eventRecord 4 d now] }
  else if e.pend.any sameSrc then { e with pend := updLast sameSrc bumpRepeat e.pend }
  else e.lose now

/-- An error record is posted (16 R372 to R375), to the admin ring's store and to the sideband. -/
def State.postError (s : State) (cls sev source info : Nat) : State :=
  ({ s with events := s.events.addError cls sev source info s.time }).sideEvent 4 (errorDetail cls sev source info)

/-- A record has been written: the limit on corrected errors runs from there (16 R375). -/
def Events.written (e : Events) (r : Record) (now : Nat) : Events :=
  let source := bits r.detail.toNat 15 8
  if r.corrected source then { e with rate := (source, now) :: e.rate.filter (fun p => p.1 != source) } else e

/-- `ADDR` of a sector in an error record: local physical address bits [41:5] (16 R372). -/
def errAddr (a : Nat) : Nat := bits a 41 5

/-- Count corrected or uncorrectable sectors of a stack. -/
def State.hbmCount (s : State) (r ce ue : Nat) : State := s.updStack r (fun k => { k with ce := satInc k.ce ce, ue := satInc k.ue ue })

/-! ## Write queues and open rows (11 R260 to R262, R270): every write is of class 3 -/

/-- Sectors of a stack's write queue on the pseudo-channel of an address. -/
def State.wqOf (s : State) (a : Nat) : List Nat :=
  (s.stack (s.homeRegion a)).wq.filter (fun sec => s.pcOf (sec * 32) = s.pcOf a)

/-- A sector waits in the write queue of its pseudo-channel, which serves a read of it (11 R262). -/
def State.inWq (s : State) (sec : Nat) : Bool := (s.stack (s.homeRegion (sec * 32))).wq.contains sec

/-- Insert into a list of sectors in row order. -/
def State.insertRow (s : State) : List Nat → Nat → List Nat
  | [], n => [n]
  | k :: l, n => if k = n then k :: l else if s.rowSlot (n * 32) < s.rowSlot (k * 32) then n :: k :: l else k :: s.insertRow l n

/-- Pseudo-channel and bank of an address in its stack, as 64 * pseudo-channel + bank (log 82). -/
def State.bankKey (s : State) (a : Nat) : Nat := 64 * s.pcOf a + Config.dramBank (s.rowSlot a) % 64

/-- The row of an address is open. -/
def State.rowOpen (s : State) (a : Nat) : Bool := (s.stack (s.homeRegion a)).rows.contains (s.bankKey a, s.rowSlot a)

/-- An access opens its row, and closes what was open in the bank. -/
def State.openRow (s : State) (a : Nat) : State :=
  s.updStack (s.homeRegion a) (fun k => { k with rows := (s.bankKey a, s.rowSlot a) :: k.rows.filter (fun p => p.1 != s.bankKey a) })

/-- One write of the queue is issued. A command or address parity error that its retry meets again is reported as uncorrectable, and the
sector's data is lost: it is poison (11 R260, log 81). -/
def State.issueWrite (s : State) (sec : Nat) : State :=
  let a := sec * 32
  let r := s.homeRegion a
  let t := { (s.openRow a).updStack r (fun k => { k with wq := k.wq.erase sec }) with freeSeq := s.freeSeq + 1 }
  let t := t.countEvent ((s.insts.find? (fun i => i.grants a)).map (fun i => i.id)) 6 (80 + r) 32
  if Config.writeParity s.freeSeq then
    { (t.hbmCount r 0 1).postError 0x07 1 (0x40 + r) (errAddr a) with
        poisonMarks := insertNat t.poisonMarks sec, deadMarks := t.deadMarks.erase sec, back := writeBytes t.back a (List.replicate 32 0) }
  else t

/-- The write queue of the pseudo-channel of an address drains, in row order, from 48 entries to 16, while its stack is not held. -/
def State.drainWq (s : State) (a : Nat) : State :=
  let q := s.wqOf a
  if q.length < 48 || (s.stack (s.homeRegion a)).step = 3 then s else (q.take (q.length - 16)).foldl (fun s sec => s.issueWrite sec) s

/-- A write of a sector, with the contents that the backing memory has now, enters the write queue of its pseudo-channel. -/
def State.queueWrite (s : State) (sec : Nat) : State :=
  (s.updStack (s.homeRegion (sec * 32)) (fun k => { k with wq := s.insertRow k.wq sec })).drainWq (sec * 32)

/-- No write for the pseudo-channel of an address can be taken: its queue is full and its stack is held (11 R270). -/
def State.wqFull (s : State) (a : Nat) : Bool :=
  (s.stack (s.homeRegion a)).step = 3 && decide (57 ≤ (s.wqOf a).length)

/-- The poison marker of a sector, in the backing memory. -/
def State.putPoisonMark (s : State) (sec : Nat) : State :=
  { s with poisonMarks := insertNat s.poisonMarks sec, deadMarks := s.deadMarks.erase sec,
           back := writeBytes s.back (sec * 32) (List.replicate 32 0) }

/-- The dead marker of a sector, in the backing memory. -/
def State.putDeadMark (s : State) (sec : Nat) : State :=
  { s with deadMarks := insertNat s.deadMarks sec, poisonMarks := s.poisonMarks.erase sec,
           back := writeBytes s.back (sec * 32) (List.replicate 32 0) }

/-- Write a line's dirty sectors back and record its dead markers and poison in HBM, as it leaves the LLC (06 R130, R149,
11 R265): each write replaces whatever marker stood there. Writes to a failed pseudo-channel are dropped (11 R273). -/
def State.writeBack (s : State) (l : Line) : State :=
  (List.range 8).foldl (fun s i =>
    let sec := l.line * 8 + i
    let a := sec * 32
    if (s.stack (s.homeRegion a)).pcFail.getLsbD (s.pcOf a) then s
    else if l.poison.getLsbD i then (s.putPoisonMark sec).queueWrite sec
    else if l.dead.getLsbD i && l.deadChk.getLsbD i then
      if s.deadMarks.contains sec then s else (s.putDeadMark sec).queueWrite sec
    else if l.dirty.getLsbD i then
      ({ s with back := writeBytes s.back a (readBytes s.mem (s.storeAddr a) 32)
                deadMarks := s.deadMarks.erase sec, poisonMarks := s.poisonMarks.erase sec }).queueWrite sec
    else s) s

/-- A line has something to write as it leaves. -/
def Line.owes (l : Line) : Bool := l.dirty != 0 || l.poison != 0 || l.dead &&& l.deadChk != 0

/-- Evict a line: write back, then drop its tag. A line dropped clean reads as its backing store again. -/
def State.evict (s : State) (line : Nat) : State :=
  match s.tag? line with
  | none => s
  | some l => let s := s.writeBack l; { s with llc := s.llc.filter (fun x => x.line != line) }

/-- Private cache ways of all instances in half r (06 R135). -/
def State.privHeld (s : State) (r : Nat) : Nat := (s.insts.map (fun i => i.privWays.getD r 0)).sum

/-- Class in which an instance allocates in half r: its own private ways, or the common ways (06 R136); `none` is the
firmware and every requester without an instance here. -/
def State.allocClass (s : State) (inst : Option Nat) (r : Nat) : Nat :=
  match inst with
  | none => 0
  | some i => match s.inst? i with
    | some x => if x.privWays.getD r 0 = 0 then 0 else i + 1
    | none => 0

/-- Ways of a class in half r (06 R135). -/
def State.classWays (s : State) (cls r : Nat) : Nat :=
  if cls = 0 then 24 - (s.region r).h - s.privHeld r
  else match s.inst? (cls - 1) with
    | some x => x.privWays.getD r 0
    | none => 0

/-- Every epoch not yet `CLOSED`, with its context. -/
def State.openEpochs (s : State) : List (CtxRef × Epoch) :=
  s.insts.flatMap (fun i => i.ctxs.flatMap (fun c =>
    (c.epochs.filter (fun e => e.st != .closed)).map (fun e => (CtxRef.mk i.id c.num, e))))

/-- Shadow lines that a class holds in one set of half r (07 R177). -/
def State.shadowIn (s : State) (cls r st : Nat) : Nat :=
  (s.openEpochs.map (fun ce =>
    if s.allocClass (some ce.1.inst) r = cls then
      (ce.2.lines.filter (fun l => s.homeRegion (l.2.2 * 256) = r && s.setOf (l.2.2 * 256) = st)).length
    else 0)).sum

/-- The line that makes room in a set, by 06 R136 and R147: none while a way is free; else a dead tag, else a stream line, else
the line that `choice` picks among those that were not used last (log 11). -/
def victimIn (lines : List Line) (room choice : Nat) : Option Line :=
  if lines.length < room then none
  else match lines.find? (fun l => l.dead != 0 && l.valid = 0) with
    | some l => some l
    | none => match lines.find? (fun l => l.streamIn) with
      | some l => some l
      | none =>
        let old := lines.filter (fun l => !l.mru)
        let own := if old.isEmpty then lines else old
        own[choice % own.length]?

/-- Lines that share a set and a class with the line of an address, in its home half. -/
def State.peersOf (s : State) (cls a : Nat) : List Line :=
  s.llc.filter (fun l => !l.pinned && l.way = cls && s.homeRegion (l.line * 256) = s.homeRegion a
    && s.setOf (l.line * 256) = s.setOf a)

/-- A lookup hits a line: it is the last used of its set, and no longer the next victim (06 R136). -/
def State.touch (s : State) (line : Nat) : State :=
  match s.tag? line with
  | none => s
  | some l =>
    if l.pinned then s
    else
      let peers := (s.peersOf l.way (line * 256)).map (fun x => x.line)
      { s with llc := s.llc.map (fun x =>
          if x.line = line then { x with mru := true, streamIn := false }
          else if peers.contains x.line then { x with mru := false } else x) }

/-- The line that an allocation of a line displaces. -/
def State.victimFor (s : State) (inst : Option Nat) (line choice : Nat) : Option Line :=
  let a := line * 256
  let r := s.homeRegion a
  let cls := s.allocClass inst r
  victimIn (s.peersOf cls a) (s.classWays cls r - s.shadowIn cls r (s.setOf a)) choice

/-- An allocation of a line has to wait: its victim owes a write that its held stack cannot take (11 R270). -/
def State.allocHeld (s : State) (inst : Option Nat) (line choice : Nat) : Bool :=
  !inWindow (line * 256) && (s.tag? line).isNone
    && (s.victimFor inst line choice).elim false (fun v => v.owes && s.wqFull (v.line * 256))

/-- Give an HBM line a tag in its home half (06 R130, R136), if it has none. -/
def State.allocate (s : State) (inst : Option Nat) (line choice : Nat) (stream : Bool) : State :=
  match s.tag? line with
  | some _ => s
  | none =>
    let cls := s.allocClass inst (s.homeRegion (line * 256))
    let s := match s.victimFor inst line choice with
      | some v => s.evict v.line
      | none => s
    let s := { s with llc := s.llc ++ [{ line := line, mru := false, way := cls, valid := 0, dirty := 0, dead := 0, deadChk := 0,
                                         poison := 0, under := 0, streamIn := stream, pinned := false }] }
    if stream then s else s.touch line

/-- Change a tag. -/
def State.updTag (s : State) (line : Nat) (f : Line → Line) : State :=
  { s with llc := updWhere (fun l => decide (l.line = line)) f s.llc }

/-- Bring a line into its home half: every sector that is not valid or under a dead tag becomes valid with its backing contents, or
poisoned, or, where its dead marker was read, dead and marked; what lies under a dead tag has been read as well (06 R130, R142, R148, R149, 11
R266). -/
def State.fillLine (s : State) (inst : Option Nat) (line choice : Nat) (stream : Bool) : State :=
  if inWindow (line * 256) then s
  else
    let s := s.allocate inst line choice stream
    (List.range 8).foldl (fun s i =>
      let sec := line * 8 + i
      if s.secValid sec then s
      else if s.underDeadTag sec then s.updTag line (fun l => { l with under := l.under ||| (1 <<< i) })
      else if s.secMarked sec then s.updTag line (fun l => { l with dead := l.dead ||| (1 <<< i), deadChk := l.deadChk ||| (1 <<< i) })
      else if s.secPoisoned sec then s.updTag line (fun l => { l with poison := l.poison ||| (1 <<< i), valid := l.valid ||| (1 <<< i) })
      else
        let s := { s with mem := writeBytes s.mem (sec * 32) (readBytes s.back (sec * 32) 32) }
        s.updTag line (fun l => { l with valid := l.valid ||| (1 <<< i) })) s

/-- The 32 bytes that a read of a sector returns at the home: LLC data, or the backing contents of a sector that is not valid
there, or zero bytes of a marked sector (06 R148, R149). -/
def State.secBytes (s : State) (sec : Nat) : List Byte :=
  let sec := s.canonSec sec
  if s.secMarked sec then List.replicate 32 0
  else if s.secValid sec then readBytes s.mem (s.storeAddr (sec * 32)) 32
  else readBytes s.back (sec * 32) 32

/-- The byte of memory that every observer at the home reads at a local address. -/
def State.homeByte (s : State) (a : Nat) : Byte := (s.secBytes (a / 32)).getD (a % 32) 0

/-- `n` bytes at the home from a local address. -/
def State.homeBytes (s : State) (a : Nat) : Nat → List Byte
  | 0 => []
  | n + 1 => s.homeByte a :: s.homeBytes (a + 1) n

/-! ## Writing at the home (06 R130, R147, 11 R265) -/

/-- Keep what a sector holds before it is written, for the commands and kernels that run (01 R29, 03 R61). -/
def State.remember (s : State) (sec : Nat) (old : List Byte) : State :=
  if s.cmds.isEmpty then { s with hist := [] }
  else { s with hist := { seq := s.histSeq, sec := sec, bytes := old } :: s.hist, histSeq := s.histSeq + 1 }

/-- Write some bytes of one sector at its home, as (offset, byte). A whole-sector write needs no read; a partial write merges
with the sector's contents; a partial write of a poisoned sector is dropped and recorded; a write to a half in poison
mode is dropped. A write through the window to a pinned line is a write to that line (06 R140). -/
def State.writeSector (s : State) (inst : Option Nat) (sec choice : Nat) (bs : List (Nat × Byte)) : State :=
  let sec := s.canonSec sec
  let a := sec * 32
  let r := s.homeRegion a
  let full := (List.range 32).all (fun o => bs.any (fun x => x.1 = o))
  if s.poisonMode.getLsbD r then s
  else if s.secPoisoned sec && !full then s.postError 0x08 1 (0x40 + r) (errAddr a)
  else
    let old := s.secBytes sec
    let s := (if inWindow a then s else (s.allocate inst (sec / 8) choice false).touch (sec / 8)).remember sec old
    let new := bs.foldl (fun acc x => acc.set x.1 x.2) old
    let s := { s with mem := writeBytes s.mem (s.storeAddr a) new
                      deadMarks := s.deadMarks.erase sec, poisonMarks := s.poisonMarks.erase sec }
    s.updTag (sec / 8) (fun l =>
      let b : BitVec 8 := 1 <<< secBit sec
      { l with valid := l.valid ||| b, dirty := l.dirty ||| b, dead := l.dead &&& ~~~b, deadChk := l.deadChk &&& ~~~b,
               poison := l.poison &&& ~~~b, under := l.under &&& ~~~b })

/-- Split bytes from a local address into sectors. -/
def bySector (a : Nat) (bs : List Byte) : List (Nat × List (Nat × Byte)) :=
  let ix := (bs.zipIdx).map (fun x => (a + x.2, x.1))
  ((ix.map (fun x => x.1 / 32)).dedup).map (fun sec =>
    (sec, (ix.filter (fun x => x.1 / 32 = sec)).map (fun x => (x.1 % 32, x.2))))

/-- Split a range at the sector boundaries of its addresses. -/
def splitRange (va len : Nat) : List (Nat × Nat) :=
  if len = 0 then []
  else (List.range ((va + len - 1) / 32 - va / 32 + 1)).map (fun i =>
    let lo := max va ((va / 32 + i) * 32)
    (lo, min (va + len) ((va / 32 + i + 1) * 32) - lo))

/-- Write bytes at the home from a local address, sector by sector. -/
def State.homeWrite (s : State) (inst : Option Nat) (a choice : Nat) (bs : List Byte) : State :=
  (bySector a bs).foldl (fun s x => s.writeSector inst x.1 choice x.2) s

/-- A line in a range of an epoch that is not yet `CLOSED` (06 R150). -/
def State.inOpenEpoch (s : State) (line : Nat) : Bool := s.openEpochs.any (fun ce => ce.2.lines.any (fun l => l.2.2 = line))

/-- Declare one sector dead at its home (06 R147, R149, R150): ignored on pinned, window and epoch lines; under a tag the sector
becomes invalid and clean and its dead bit records `DEADCHK`; without a tag only the marker of `DEADCHK` = 1 is written, and not on a
failed pseudo-channel (11 R273). -/
def State.declareDead (s : State) (sec : Nat) (chk : Bool) : State :=
  let line := sec / 8
  let pinned := match s.tag? line with
    | some l => l.pinned
    | none => false
  if inWindow (sec * 32) || pinned || s.inOpenEpoch line then s
  else match s.tag? line with
    | some _ =>
      let b : BitVec 8 := 1 <<< secBit sec
      let s := s.updTag line (fun l =>
        { l with valid := l.valid &&& ~~~b, dirty := l.dirty &&& ~~~b, dead := l.dead ||| b, poison := l.poison &&& ~~~b,
                 under := l.under &&& ~~~b, deadChk := if chk then l.deadChk ||| b else l.deadChk })
      s
    | none =>
      if chk && !s.pcFailed (sec * 32) then (s.putDeadMark sec).queueWrite sec else s

/-- A dead declaration has to wait: its line has no tag, and a held stack can take no more marker writes (11 R270). -/
def State.declareHeld (s : State) (line : Nat) (chk : Bool) : Bool :=
  chk && !inWindow (line * 256) && (s.tag? line).isNone && s.wqFull (line * 256)

/-! ## Context faults (02 R55, R56) -/

/-- Cause codes of `CX_FAULT` (02 R57). -/
inductive Cause where
  | illegalInstr
  | misaligned
  | addressFault
  | permission
  | matrixDescInvalid
  | eccUncorrectable
  | scratchBounds
  | deadRead
  | watchdog
  | trap
  | coreFenced
  | manager
deriving DecidableEq, Repr

/-- The code of a cause. -/
def Cause.code : Cause → Nat
  | .illegalInstr => 1
  | .misaligned => 2
  | .addressFault => 3
  | .permission => 4
  | .matrixDescInvalid => 5
  | .eccUncorrectable => 6
  | .scratchBounds => 7
  | .deadRead => 8
  | .watchdog => 9
  | .trap => 10
  | .coreFenced => 11
  | .manager => 12

/-- A context fault as detected: where and on whose behalf (02 R56, R57). -/
structure FaultInfo where
  cause : Cause
  core : Nat
  herd : Nat
  lane : Option Nat
  pc : Nat
  addr : Nat
deriving DecidableEq, Repr

/-- Record a fault in the context's `CX_` block (02 R56): the first one fills `CX_FAULT` and puts the context into the killing
state, which stops its issue; each further one before the slot wipe counts. A dead context records nothing. -/
def Ctx.recordFault (c : Ctx) (f : FaultInfo) : Ctx :=
  if c.st = 4 then c
  else if c.cause != 0 then { c with faultCount := satInc c.faultCount 1 }
  else
    { c with
      st := 3, cause := BitVec.ofNat 4 f.cause.code, fCore := BitVec.ofNat 6 f.core, fHerd := BitVec.ofNat 7 f.herd
      fLane := BitVec.ofNat 5 (f.lane.getD 0), fLaneValid := f.lane.isSome, faultPc := BitVec.ofNat 57 f.pc
      faultAddr := BitVec.ofNat 57 f.addr }

/-- A fault of a context (95 CONTEXT_FAULT). -/
def State.ctxFault (s : State) (c : CtxRef) (f : FaultInfo) : State := s.updCtx c (fun x => x.recordFault f)

/-- Count a dead re-read of a context (06 R148) and let the queues that run its work carry `DEAD_REREAD`. -/
def State.countReread (s : State) (c : CtxRef) (n : Nat) : State :=
  if n = 0 then s
  else
    let s := s.updCtx c (fun x => { x with deadReread := satInc x.deadReread n })
    s.updInst c.inst (fun i => { i with queues := updWhere (fun q => decide (q.ctx = c.ctx)) (fun q => { q with reread := true }) i.queues })

/-- Does the context check for dead reads (02 R57)? -/
def State.deadchk (s : State) (c : CtxRef) : Bool :=
  match s.ctx? c with
  | some x => x.deadchk
  | none => false

/-! ## HBM request entries (06 R142, 10 R244, 11 R261, R262) -/

/-- Bandwidth group of an instance; 64 is management's. -/
def State.bwgOf (s : State) (inst : Option Nat) : Nat :=
  match inst with
  | none => 64
  | some i => (s.inst? i).elim 64 (fun x => x.bwg)

/-- HBM request entries in a half that a group may still take (10 R244). -/
def State.entriesLeft (s : State) (r grp : Nat) : Nat :=
  let limit := if grp = 64 then 256 else 8192 * ((s.region r).shares.getD grp { int := 15, fab := 15, credits := 16 }).int / 1024
  limit - (s.hbmEntries.filter (fun e => s.homeRegion (e.line * 256) = r && e.grp = grp)).length

/-- A group is at its limit of entries. -/
def State.entriesFull (s : State) (r grp : Nat) : Bool := s.entriesLeft r grp = 0

/-- An entry's read, as the controller sees it. -/
def HbmEntry.read (e : HbmEntry) : HbmRead := { scrub := false, sec := e.line * 8, cls := e.cls, since := e.since, entered := e.entered }

/-- Reads that wait at the controller for the pseudo-channel of an address. -/
def State.readsOf (s : State) (a : Nat) : List HbmRead :=
  (s.hbmEntries.map HbmEntry.read ++ (s.stack (s.homeRegion a)).scrubs).filter (fun y =>
    s.homeRegion (y.sec * 32) = s.homeRegion a && s.pcOf (y.sec * 32) = s.pcOf a)

/-- Reads that go into a window before one: in it already, or waiting in a lower class, or older in the same class. -/
def aheadOf (rs : List HbmRead) (e : HbmRead) : Nat :=
  (rs.filter (fun y => y != e && (y.entered.isSome || y.cls < e.cls || (y.cls = e.cls && y.since < e.since)))).length
    + ((rs.takeWhile (fun y => y != e)).filter (fun y => y.entered.isNone && y.cls = e.cls && y.since = e.since)).length

/-- A read finds room in the window of its pseudo-channel. -/
def State.entersNow (s : State) (r : HbmRead) : Bool := r.entered.isNone && aheadOf (s.readsOf (r.sec * 32)) r < 48

/-- Requests enter the scheduling windows of 48 reads in class order, oldest first within a class (11 R262). -/
def State.fillWindows (s : State) : State :=
  { s with hbmEntries := s.hbmEntries.map (fun e => if s.entersNow e.read then { e with entered := some s.time } else e),
           hbm := s.hbm.map (fun k => { k with scrubs := k.scrubs.map (fun r => if s.entersNow r then { r with entered := some s.time } else r) }) }

/-- The class by which the scheduler takes a read: one that has been in the window for 4 µs counts as class 0 (11 R262). -/
def State.issueClass (s : State) (r : HbmRead) : Nat := if r.entered.elim false (fun t => decide (t + 4000 ≤ s.time)) then 0 else r.cls

/-- A read can be issued: its stack is not held, it is of the lowest class in the window of its pseudo-channel, and within that class it is to
an open row, or, where none is, the oldest (11 R262, R270). The drain of a write queue, for which reads wait, takes no time here. -/
def State.canIssue (s : State) (r : HbmRead) : Bool :=
  let w := (s.readsOf (r.sec * 32)).filter (fun y => y.entered.isSome)
  let own := w.filter (fun y => s.issueClass y = s.issueClass r)
  r.entered.isSome && (s.stack (s.homeRegion (r.sec * 32))).step != 3 && w.all (fun y => s.issueClass r ≤ s.issueClass y)
    && (s.rowOpen (r.sec * 32) || (!own.any (fun y => s.rowOpen (y.sec * 32)) && own.all (fun y => r.since ≤ y.since)))

/-- A new entry. -/
def State.addEntry (s : State) (line cls : Nat) (inst : Option Nat) (stream : Bool) : State :=
  { s with hbmEntries := s.hbmEntries ++ [{ line := line, waiters := [], since := s.time, cls := cls, grp := s.bwgOf inst, inst := inst, entered := none, stream := stream }] }

/-- A miss takes an entry, or joins the entry of its line; it takes none while its group is at its limit. -/
def State.fetchLine (s : State) (line cls : Nat) (inst : Option Nat) (stream : Bool) : State :=
  if s.hbmEntries.any (fun e => e.line = line) then
    let join := fun (e : HbmEntry) => { e with cls := min e.cls cls, stream := e.stream && stream }
    { s with hbmEntries := updWhere (fun (e : HbmEntry) => decide (e.line = line)) join s.hbmEntries }
  else if s.entriesFull (s.homeRegion (line * 256)) (s.bwgOf inst) then s
  else (s.addEntry line cls inst stream).fillWindows

/-- A read of a sector has to go to HBM first: its half does not hold it, neither as data nor, under a dead tag, as a marked sector or as
backing contents that have been read (06 R130, R142, R148). A half in poison mode reads nothing (16 R371). -/
def State.secMissing (s : State) (sec : Nat) : Bool :=
  let a := sec * 32
  s.inHbm a && !s.secValid sec && !s.poisonMode.getLsbD (s.homeRegion a)
    && !(s.underDeadTag sec && (s.secMarked sec || (s.tag? (sec / 8)).elim false (fun l => l.under.getLsbD (secBit sec))))

/-! ## Translation (01 R24 to R29) -/

/-- What an access wants of a leaf. -/
inductive Want where
  | read
  | write
  | fetch
deriving DecidableEq, Repr

/-- Outcome of a translation (01 R27): a device address with its leaf's `W`, a host address, a failure, a host page whose
ATS translation has not arrived, a host page whose translation is refused, or a line of a table that is still to be read from HBM. -/
inductive Xlat where
  | device (pa : Nat) (w : Bool)
  | host (addr : Nat)
  | uncorrectable (pa : Nat)
  | address
  | permission
  | needAts (page : Nat)
  | refused
  | needLine (line : Nat)
deriving DecidableEq, Repr

/-- Levels of the walk: lowest VA bit indexed, index bits (01 R25). -/
def walkLevels : List (Nat × Nat) := [(48, 9), (39, 9), (30, 9), (21, 9), (16, 5)]

/-- Bytes that a leaf at level `lv` maps, as a power of two; levels 0 and 1 permit none (01 R25). -/
def leafLog2 (lv : Nat) : Nat := if lv = 2 then 30 else if lv = 3 then 21 else 16

/-- Bytes of the table that a non-leaf entry at level `lv` names, as a power of two (01 R25). -/
def tableLog2 (lv : Nat) : Nat := if lv = 3 then 8 else 12

/-- A leaf entry whose reserved bits are 0 and whose frame is aligned (01 R26). -/
def leafLegal (e lv : Nat) : Bool :=
  2 ≤ lv && bits e 7 5 = 0 && bits e 15 8 = 0 && (bit e 4 || bits e 63 54 = 0) && bits e (leafLog2 lv - 1) 0 / 2 ^ 16 = 0

/-- A non-leaf entry whose reserved bits are 0 and whose table is aligned (01 R26). -/
def tableLegal (e lv : Nat) : Bool :=
  lv < 4 && bits e 4 2 = 0 && bits e 7 5 = 0 && bits e 63 54 = 0 && bits e (tableLog2 lv - 1) 0 / 2 ^ 8 = 0

/-- Configuration of a function. -/
def State.fnCfg (s : State) (fn : Nat) : FnCfg :=
  (s.host.fns.find? (fun f => f.fn = fn)).getD { fn := fn, busMaster := false, msixEn := true, fnMask := false, ats := true, masked := [], pendingBits := [], table := [] }

/-- Change a function's configuration. -/
def State.updFn (s : State) (fn : Nat) (f : FnCfg → FnCfg) : State :=
  { s with host := { s.host with fns := f (s.fnCfg fn) :: s.host.fns.filter (fun x => x.fn != fn) } }

/-- A host address for a virtual function, by ATS where it is enabled (13 R315); nothing is sent to the host for an instance whose TDI is in
error (13 R320). -/
def State.hostReach (s : State) (i : Inst) (want : Want) (a : Nat) : Xlat :=
  if i.tdi = .error then .refused
  else if !(s.fnCfg (i.id + 1)).ats then .host a
  else match s.host.ats.find? (fun t => t.inst = i.id && t.page = a / 4096) with
    | none => .needAts (a / 4096)
    | some t => if (if want = .write then t.writable else t.readable) then .host a else .refused

/-! ## Requests to the host (13 R303, R304, R315) -/

/-- A host address as the module sends it for a function: Translated where the function has ATS enabled. -/
def State.hostAt (s : State) (fn a : Nat) : Nat × Bool :=
  if fn = 0 || !(s.fnCfg fn).ats then (a, false)
  else ((s.host.ats.find? (fun t => t.inst + 1 = fn && t.page = a / 4096)).elim a (fun t => t.at_ * 4096 + a % 4096), true)

/-- A read request of a function. -/
def State.sendRead (s : State) (fn rid a len : Nat) : State := s.emit (.hostRead fn rid (s.hostAt fn a).1 len (s.hostAt fn a).2)

/-- A write request of a function. -/
def State.sendWrite (s : State) (fn rid a : Nat) (data : List Byte) (poisoned : Bool) : State :=
  s.emit (.hostWrite fn rid (s.hostAt fn a).1 data poisoned (s.hostAt fn a).2)

/-- An AtomicOp request of a function. -/
def State.sendAtomic (s : State) (fn rid a : Nat) (kind : AtomKind) (size operand compare : Nat) : State :=
  s.emit (.hostAtomic fn rid (s.hostAt fn a).1 kind size operand compare (s.hostAt fn a).2)

/-- `n` more non-posted requests fit among the 4,096 that are outstanding at most. -/
def State.hostFits (s : State) (n : Nat) : Bool :=
  decide ((s.reqs.filter (fun q => q.target = .host)).length + (s.fx.txns.filter (fun t => t.port = 16)).length + n ≤ 4096)

/-- The access through a leaf (01 R27, last five rows). A home that is held in reset answers with an error (14 R326). -/
def State.throughLeaf (s : State) (i : Inst) (want : Want) (e lv va : Nat) : Xlat :=
  let off := va % 2 ^ leafLog2 lv
  let okAccess := match want with
    | .read => true
    | .write => bit e 2
    | .fetch => bit e 3
  if bit e 4 then
    let a := e / 2 ^ 16 * 2 ^ 16 + off
    if !okAccess then .permission else s.hostReach i want a
  else
    let pa := bits e 53 16 * 2 ^ 16 + off
    if s.isLocal pa && !s.backed (paLocal pa) then .address
    else if s.isLocal pa && !i.grants (paLocal pa) then .permission
    else if !okAccess then .permission
    else if s.isLocal pa && s.regionDown (s.homeRegion (paLocal pa)) then .address
    else .device pa (bit e 2)

/-- The 8-byte words that a place held since a point of `State.hist`, newest first. -/
def State.olderWords (s : State) (since a : Nat) : List Nat :=
  (s.hist.filter (fun p => since ≤ p.seq && p.sec = s.canonSec (a / 32))).map (fun p => leNat ((p.bytes.drop (a % 32)).take 8))

/-- What one access of something that runs since a point of `State.hist` reads as an entry or instruction word: the word there now, or,
where it was written since, that or an older one; which one is free for each access (01 R29, log 7). -/
def State.wordSince (s : State) (since a pick : Nat) : Nat :=
  let now := leNat (s.homeBytes a 8)
  match s.olderWords since a with
  | [] => now
  | old => (now :: old).getD (Config.staleChoice s.freeSeq pick % (old.length + 1)) now

/-- The next access chooses anew. -/
def State.newChoice (s : State) : State := if s.hist.isEmpty then s else { s with freeSeq := s.freeSeq + 1 }

/-- The walk from the table at `table` (01 R25, R27), level by level, on behalf of something that runs since `since` (R29). -/
def State.walk (s : State) (i : Inst) (want : Want) (va since : Nat) : List (Nat × Nat) → (lv table : Nat) → Xlat
  | [], _, _ => .address
  | (lo, n) :: rest, lv, table =>
    let ea := table + va / 2 ^ lo % 2 ^ n * 8
    if s.regionDown (s.homeRegion ea) then .address
    else if s.secMissing (ea / 32) then .needLine (ea / 256)
    else if s.secPoisoned (ea / 32) then .uncorrectable (ea / 32 * 32)
    else
      let e := s.wordSince since ea (va + lo)
      if !bit e 0 then .address
      else if bit e 1 then (if leafLegal e lv then s.throughLeaf i want e lv va else .address)
      else if !tableLegal e lv then .address
      else
        let t := bits e 53 8 * 2 ^ 8
        if !s.isLocal t then .permission
        else if !s.backed (paLocal t) then .address
        else if !i.grants (paLocal t) then .permission
        else s.walk i want va since rest (lv + 1) (paLocal t)

/-- Translate a 64-bit pointer of an instance (01 R24, R27), for something that runs since a point of `State.hist`. -/
def State.translate (s : State) (inst : Nat) (want : Want) (va since : Nat) : Xlat :=
  if 2 ^ 57 ≤ va then .address
  else match s.inst? inst with
    | none => .address
    | some i => s.walk i want va since walkLevels 0 i.ptRoot

/-- A translation that waits for the host's. -/
def Xlat.isAts : Xlat → Bool
  | .needAts _ => true
  | _ => false

/-- The cause with which a failed translation kills a context (01 R27). -/
def Xlat.cause : Xlat → Option Cause
  | .uncorrectable _ => some .eccUncorrectable
  | .address => some .addressFault
  | .refused => some .addressFault
  | .permission => some .permission
  | _ => none

/-- A sector becomes poisoned, as a whole-sector write makes it anything else (11 R265, R266); a write to a half in poison mode or to a failed
pseudo-channel is dropped. -/
def State.markPoison (s : State) (sec : Nat) : State :=
  let sec := s.canonSec sec
  let a := sec * 32
  if s.poisonMode.getLsbD (s.homeRegion a) then s
  else if inWindow a then { s with poisonMarks := insertNat s.poisonMarks sec }
  else
    let s := (s.allocate none (sec / 8) 0 false).remember sec (s.secBytes sec)
    s.updTag (sec / 8) (fun l =>
      let b : BitVec 8 := 1 <<< secBit sec
      { l with poison := l.poison ||| b, valid := l.valid ||| b, dirty := l.dirty ||| b, dead := l.dead &&& ~~~b, deadChk := l.deadChk &&& ~~~b, under := l.under &&& ~~~b })

/-! ## Speculative writes and reads of a context (07 R179) -/

/-- The epoch of the context that captures a line, if any: `OPEN`, or committing or aborting with the line's shadow still
there. -/
def State.epochOf (s : State) (c : CtxRef) (line : Nat) : Option Epoch :=
  match s.ctx? c with
  | none => none
  | some x => x.epochs.find? (fun e => e.st != .closed && e.lines.any (fun l => l.2.2 = line))

/-- The 32 bytes that the context reads of a sector at its home: a touched sector from the shadow, any other from the ordinary
line (07 R179). -/
def State.ctxSecBytes (s : State) (c : CtxRef) (sec : Nat) : List Byte :=
  match s.epochOf c (sec / 8) with
  | some e => if e.touched.contains sec then readBytes e.shadow (sec * 32) 32 else s.secBytes sec
  | none => s.secBytes sec

/-- Write bytes of a sector into the epoch's shadow line; an untouched sector is first copied from the ordinary line. A partial
write that would copy a poisoned sector is dropped and recorded (07 R179). -/
def State.shadowWrite (s : State) (c : CtxRef) (e : Epoch) (sec : Nat) (bs : List (Nat × Byte)) : State :=
  let full := (List.range 32).all (fun o => bs.any (fun x => x.1 = o))
  if s.poisonMode.getLsbD (s.homeRegion (sec * 32)) then s
  else if !full && (if e.touched.contains sec then e.poison.contains sec else s.secPoisoned sec) then
    s.postError 0x08 1 (0x40 + s.homeRegion (sec * 32)) (errAddr (sec * 32))
  else
    let old := if e.touched.contains sec then readBytes e.shadow (sec * 32) 32 else s.secBytes sec
    let new := bs.foldl (fun acc x => acc.set x.1 x.2) old
    let put := fun (y : Epoch) => { y with shadow := writeBytes y.shadow (sec * 32) new, touched := insertNat y.touched sec, poison := y.poison.erase sec }
    s.updCtx c (fun x => { x with epochs := updWhere (fun y => decide (y.num = e.num)) put x.epochs })

/-- A write of a context at the home of one sector: to the shadow line where an epoch captures it, else to the line. -/
def State.ctxWriteSector (s : State) (c : CtxRef) (sec choice : Nat) (bs : List (Nat × Byte)) : State :=
  match s.epochOf c (sec / 8) with
  | some e => s.shadowWrite c e sec bs
  | none => s.writeSector (some c.inst) sec choice bs

/-- A context's copy poisons a sector: the shadow sector where an epoch captures it, else the line (11 R265). -/
def State.ctxPoison (s : State) (c : CtxRef) (sec : Nat) : State :=
  match s.epochOf c (sec / 8) with
  | some e =>
    let put := fun (y : Epoch) => { y with touched := insertNat y.touched sec, poison := insertNat y.poison sec }
    s.updCtx c (fun x => { x with epochs := updWhere (fun y => decide (y.num = e.num)) put x.epochs })
  | none => s.markPoison sec

/-- A read of a sector on a context's behalf has to go to HBM first: a touched shadow sector never does. -/
def State.ctxMissing (s : State) (c : CtxRef) (sec : Nat) : Bool :=
  s.secMissing sec && !((s.epochOf c (sec / 8)).elim false (fun e => e.touched.contains sec))

/-- Bytes written by a context from a local address. -/
def State.ctxWrite (s : State) (c : CtxRef) (a : Nat) (bs : List Byte) : State :=
  (bySector a bs).foldl (fun s x => s.ctxWriteSector c x.1 0 x.2) s

/-- What a context's read of a sector meets (06 R149, 11 R265): its bytes, poison, a fatal dead read, or a counted one. -/
inductive SecRead where
  | ok (bs : List Byte)
  | reread (bs : List Byte)
  | deadFatal
  | poison
deriving DecidableEq, Repr

/-- Read a sector at its home on a context's behalf. -/
def State.ctxReadSector (s : State) (c : CtxRef) (sec : Nat) : SecRead :=
  match s.epochOf c (sec / 8) with
  | some e =>
    if !e.touched.contains sec then ordinary s c sec
    else if e.poison.contains sec || s.poisonMode.getLsbD (s.homeRegion (sec * 32)) then .poison
    else .ok (readBytes e.shadow (sec * 32) 32)
  | none => ordinary s c sec
where
  /-- the ordinary line -/
  ordinary (s : State) (c : CtxRef) (sec : Nat) : SecRead :=
    if s.poisonMode.getLsbD (s.homeRegion (sec * 32)) then .poison
    else if s.secDead sec && s.deadchk c then .deadFatal
    else if s.secPoisoned sec then .poison
    else if s.secDead sec then .reread (s.secBytes sec)
    else .ok (s.secBytes sec)

/-! ## Interrupts and completion rings (09 R209 to R214, R408; 13 R317, R318) -/

/-- The function that a queue signals and reaches host memory through (09 R203, 13 R304). -/
def qFn : QRef → Nat
  | .admin => 0
  | .tenant i _ => i + 1

/-- Nothing is sent to the host for a function: its Bus Master Enable is 0, or its TDI is in error (13 R314, R320). -/
def State.mute (s : State) (fn : Nat) : Bool :=
  !(s.fnCfg fn).busMaster || (fn != 0 && (s.inst? (fn - 1)).elim false (fun i => i.tdi = .error))

/-- Signal an MSI-X vector: sent, or its pending bit set while masked, or nothing while MSI-X is disabled (13 R318). -/
def State.msix (s : State) (fn v : Nat) : State :=
  let c := s.fnCfg fn
  if !c.msixEn then s
  else if c.masked.contains v || c.fnMask || s.mute fn then s.updFn fn (fun c => { c with pendingBits := insertNat c.pendingBits v })
  else s.emit (.msix fn v)

/-- The 32 bytes of a record (09 R214). -/
def recordBytes (r : Record) (phase : Bool) : List Byte :=
  leBytes r.seq.toNat 4 ++ [r.status, r.opcode] ++ leBytes (r.cflags.toNat + if phase then 32768 else 0) 2
    ++ leBytes r.tag.toNat 8 ++ leBytes r.start.toNat 8 ++ leBytes r.detail.toNat 8

/-- What a ring access meets (09 R408): memory, a wait (for the host, a host translation, a line from HBM), or a failure. -/
inductive RingAccess where
  | device (pa : Nat)
  | host (addr : Nat)
  | held
  | ats (inst page : Nat)
  | line (n : Nat)
  | failed
deriving DecidableEq, Repr

/-- The outcome of a translation for a ring access. While Bus Master Enable is 0 a host access is held and does not fail (13 R314). A page of
another module is taken as an access that fails (DESIGN CHOICE, log 89: the spec names no outcome for such a ring). -/
def State.ringTo (s : State) (q : QRef) (want : Want) : Xlat → RingAccess
  | .device pa _ =>
    if !s.isLocal pa then .failed
    else if want != .write && s.secMissing (paLocal pa / 32) then .line (paLocal pa / 256)
    else if want != .write && s.secPoisoned (paLocal pa / 32) then .failed
    else .device (paLocal pa)
  | .host a => if s.mute (qFn q) then .held else .host a
  | .needAts p => if s.mute (qFn q) then .held else .ats (qFn q - 1) p
  | .needLine l => .line l
  | _ => .failed

/-- Reach byte offset `off` of a ring (09 R408): through the page tables, or in host memory through the function, by ATS where it is a virtual
one that has ATS enabled. -/
def State.ringAt (s : State) (q : QRef) (host : Bool) (base : Word64) (off : Nat) (want : Want) : RingAccess :=
  match q with
  | .admin => if !host then .failed else if s.mute 0 then .held else .host (base.toNat + off)
  | .tenant i _ =>
    if host then
      (if s.mute (i + 1) then .held
       else match s.inst? i with
        | none => .failed
        | some x => s.ringTo q want (s.hostReach x want (base.toNat + off)))
    else s.ringTo q want (s.translate i want (base.toNat + off) s.histSeq)

/-- What a ring access that must wait asks for. -/
def State.ringAsk (s : State) : RingAccess → State
  | .ats i p => s.emit (.atsRequest i p)
  | .line l => s.fetchLine l 0 none false
  | _ => s

/-- Put a queue into the ring-fault state and post its record (09 R211, R408). The records that wait are discarded. -/
def State.ringFault (s : State) (q : QRef) : State :=
  let s := s.updQueue q (fun x =>
    { x with st := .ringFault, held := [], cqFull := false, capped := false, derated := false, reread := false, fetched := [] })
  match q with
  | .admin => s
  | .tenant i n => s.postError 0x13 1 0x71 (i + n * 2 ^ 12)

/-- The completion ring is full: the next record would be written at `CQ_HEAD` - 1 (09 R210). -/
def Queue.full (q : Queue) : Bool := (q.cqWrite + 1) % 2 ^ q.cqLog2 = q.cqHead

/-- `CQ_FULL` says whether a record waits for space (09 R205, R210). -/
def Queue.seen (q : Queue) : Queue := { q with cqFull := q.full && !q.held.isEmpty }

/-- The queue after one more record: index and phase move on (09 R204). -/
def Queue.wrote (q : Queue) : Queue :=
  let n := (q.cqWrite + 1) % 2 ^ q.cqLog2
  Queue.seen { q with cqWrite := n, phase := if n = 0 then !q.phase else q.phase }

/-- Vector that a queue signals. -/
def State.vectorOf (s : State) (q : QRef) (x : Queue) : Nat :=
  match q with
  | .admin => s.mg.vector.toNat
  | .tenant _ _ => x.vector

/-- Write one record into a ring that is not full (09 R209, R214); false where the ring access must wait. -/
def State.putRecord (s : State) (q : QRef) (x : Queue) (r : Record) : State × Bool :=
  match s.ringAt q x.cqHost x.cqAddr (x.cqWrite * 32) .write with
  | .held => (s, false)
  | .ats i p => (s.ringAsk (.ats i p), false)
  | .line l => (s.ringAsk (.line l), false)
  | .failed => (s.ringFault q, true)
  | .host a =>
    let s := { s with hostMem := writeBytes s.hostMem a (recordBytes r x.phase) }
    let s := s.updQueue q Queue.wrote
    (if r.irq then s.msix (qFn q) (if r.event then 0 else s.vectorOf q x) else s, true)
  | .device pa =>
    let s := s.homeWrite none pa 0 (recordBytes r x.phase)
    let s := s.updQueue q Queue.wrote
    (if r.irq then s.msix (qFn q) (s.vectorOf q x) else s, true)

/-- Write the records that wait, in order, while the ring has space (09 R210). -/
def State.drainHeld (s : State) (q : QRef) : List Record → State
  | [] => s.updQueue q (fun x => Queue.seen { x with held := [] })
  | r :: rs =>
    match s.queue? q with
    | none => s
    | some x =>
      if x.st = .ringFault || x.st = .disabled then s.updQueue q (fun x => { x with held := [], cqFull := false })
      else if x.full then s.updQueue q (fun x => Queue.seen { x with held := r :: rs })
      else match s.putRecord q x r with
        | (s, false) => s.updQueue q (fun x => { x with held := r :: rs })
        | (s, true) => drainHeld s q rs

/-- A record of a queue falls due: it takes its place behind those that wait. -/
def State.pushRecord (s : State) (q : QRef) (r : Record) : State :=
  match s.queue? q with
  | none => s
  | some x => s.drainHeld q (x.held ++ [r])

/-- The package controller writes pending event records to the admin ring while it runs and has space (16 R375); a record of
class 0x3F follows where records were lost. -/
def State.drainEvents (s : State) : State :=
  let rec go (s : State) : List Record → State
    | [] => { s with events := { s.events with pend := [] } }
    | r :: rs =>
      if s.mg.queue.st != .running || s.mg.queue.full || !s.mg.queue.held.isEmpty then
        { s with events := { s.events with pend := r :: rs } }
      else match s.putRecord .admin s.mg.queue r with
        | (s, false) => { s with events := { s.events with pend := r :: rs } }
        | (s, true) => go { s with events := s.events.written r s.time } rs
  let s := go s s.events.pend
  let s := if s.events.pend.isEmpty || !s.mg.queue.full then s else s.updQueue .admin (fun x => { x with cqFull := true })
  if s.events.pend.isEmpty && s.events.lost != 0 && s.mg.queue.st = .running && !s.mg.queue.full then
    let d := errorDetail 0x3F 3 0xFF 0 + Nat.min 255 s.events.lost * 2 ^ 56
    match s.putRecord .admin s.mg.queue (eventRecord 4 d s.events.lostAt) with
    | (s, true) => { s with events := { s.events with lost := 0 } }
    | (s, false) => s
  else s

/-- Post an event and let the package controller write what it can. -/
def State.event (s : State) (code detail : Nat) : State := (s.postEvent code detail).drainEvents

/-- Post an error record and let the package controller write what it can. -/
def State.error (s : State) (cls sev source info : Nat) : State := (s.postError cls sev source info).drainEvents

/-! ## Commands -/

/-- Byte `o` of a packet; bytes past its end read 0. -/
def Cmd.byte (c : Cmd) (o : Nat) : Nat := (c.pkt.getD o 0).toNat

/-- A little-endian field of `n` bytes at offset `o` (00 R5, 09 R213). -/
def Cmd.field (c : Cmd) (o n : Nat) : Nat := leNat ((c.pkt.drop o).take n)

/-- Opcode of a packet (09 R213). -/
def Cmd.opcode (c : Cmd) : Nat := c.byte 0

/-- Flags of a packet (09 R213). -/
def Cmd.flags (c : Cmd) : Nat := c.field 2 2

/-- Status codes (09 R215). -/
inductive Status where
  | success
  | invalidOpcode
  | invalidParam
  | noSpace
  | busy
  | notPermitted
  | timeout
  | addressFault
  | memUncorrectable
  | contextFaulted
  | linkDown
  | peerAbort
  | memThermal
  | squashed
  | coreFenced
  | configPending
deriving DecidableEq, Repr

/-- The code of a status. -/
def Status.code : Status → Nat
  | .success => 0
  | .invalidOpcode => 1
  | .invalidParam => 2
  | .noSpace => 3
  | .busy => 4
  | .notPermitted => 5
  | .timeout => 6
  | .addressFault => 7
  | .memUncorrectable => 8
  | .contextFaulted => 9
  | .linkDown => 10
  | .peerAbort => 11
  | .memThermal => 12
  | .squashed => 13
  | .coreFenced => 14
  | .configPending => 15

/-- A `WAIT` that completes with `TIMEOUT` halts its queue (09 R211). -/
def State.haltAfter (s : State) (cid : Nat) (st : Status) : State :=
  match s.cmd? cid with
  | none => s
  | some c =>
    if st = .timeout && c.opcode = 4 then s.updQueue c.q (fun q => if q.st = .running then { q with st := .halted, fetched := [], asked := none } else q)
    else s

/-- A command ends with a status and a detail; its record follows (09 R209). A command that has ended keeps its first status. -/
def State.endCmd (s : State) (cid : Nat) (st : Status) (detail : Nat) : State :=
  (s.haltAfter cid st).updCmd cid (fun c => match c.phase with
    | .ended _ _ => c
    | _ => { c with phase := .ended (BitVec.ofNat 8 st.code) (BitVec.ofNat 64 detail) })

/-- A command uses the HBM of an address's region; `THERMAL_DERATED` where the region is, or since the command began was, derated or held (09
R214, 11 R269). An access that the LLC serves counts as a use (DEDUCED, log 73). -/
def State.noteRegion (s : State) (cid a : Nat) : State :=
  if s.inHbm a then
    let r := s.homeRegion a
    let hot := decide ((2 : BitVec 3) ≤ (s.stack r).step)
    s.updCmd cid (fun c => { c with used := c.used ||| (1 <<< r), derated := c.derated || hot || c.hot.getLsbD r })
  else s

/-- An access of an LLC half (10 R258). -/
def State.countLlc (s : State) (inst : Option Nat) (a : Nat) : State := s.countEvent inst 5 (64 + s.homeRegion a) 1

/-- A command makes an access at the home of an address. -/
def State.useRegion (s : State) (cid a : Nat) : State :=
  (s.noteRegion cid a).countLlc ((s.cmd? cid).bind (fun c => match c.q with
    | .tenant i _ => some i
    | .admin => none)) a

/-- Regions that are derated or held. -/
def State.hotRegions (s : State) : BitVec 16 :=
  (List.range 16).foldl (fun (m : BitVec 16) r => if (2 : BitVec 3) ≤ (s.stack r).step then m ||| (1 <<< r) else m) 0

/-- A region has become derated or held: commands that are outstanding note it, and those that have used its HBM are derated (09 R214). -/
def State.noteHot (s : State) (r : Nat) : State :=
  { s with cmds := s.cmds.map (fun c => { c with hot := c.hot ||| (1 <<< r), derated := c.derated || c.used.getLsbD r }) }

/-- Context of a queue's commands. -/
def State.qCtx (s : State) (q : QRef) : Option CtxRef :=
  match q with
  | .admin => none
  | .tenant i _ => (s.queue? q).map (fun x => CtxRef.mk i x.ctx)

/-- The engines issue for a queue's commands: the clocks run, and its context, where it has one, is neither being killed nor dead (02 R55, 15
R365). -/
def State.engineRuns (s : State) (q : QRef) : Bool :=
  s.clocked && (s.qCtx q).elim true (fun x => (s.ctx? x).elim true (fun y => y.st != 3 && y.st != 4))

/-- A command returns a value, so it always has a record (09 R209). -/
def recordsAlways (op : Nat) : Bool := op = 0x30 || op = 0x80 || op = 0x88

/-- An admin queue that has been stopped is disabled once its running command has completed (09 R231). -/
def State.adminIdle (s : State) : State :=
  if s.mg.en || s.mg.queue.st = .disabled || s.cmds.any (fun c => c.q = .admin) then s
  else { s with mg := { s.mg with queue := Queue.disabled } }

/-- The DMA engine's opcodes (08 R192). -/
def isDmaOp (op : Nat) : Bool := (0x18 ≤ op && op ≤ 0x1A) || op = 0x2A || op = 0x2B

/-- The record of a DMA command is written after those of its queue's earlier DMA commands (08 R192). -/
def State.recordTurn (s : State) (c : Cmd) : Bool :=
  !isDmaOp c.opcode || (s.cmds.takeWhile (fun d => d.cid != c.cid)).all (fun d => decide (d.q ≠ c.q) || !isDmaOp d.opcode)

/-- Write or carry the record of an ended command and forget the command (09 R209, R214). The nonce changes after every `LIFECYCLE_ADVANCE` (14
R341). -/
def State.writeEnd (s : State) (cid : Nat) : State :=
  match s.cmd? cid with
  | none => s
  | some c =>
    match c.phase with
    | .ended st detail =>
      let s := { s with cmds := s.cmds.filter (fun x => x.cid != cid) }
      let s := if c.q = .admin && c.opcode = 0xA0 then s.newNonce else s
      match s.queue? c.q with
      | none => s
      | some x =>
        let capped := c.capped || x.capped
        let derated := c.derated || x.derated
        let need := bit c.flags 1 || bit c.flags 2 || st != 0 || recordsAlways c.opcode
        if x.st = .ringFault || x.st = .disabled then s
        else if need then
          let fl := (if capped then 1 else 0) + (if derated then 2 else 0) + (if x.reread then 4 else 0)
            + (if c.determ then 8 else 0) + (if c.peerHeld then 16 else 0)
          let s := s.updQueue c.q (fun x => { x with capped := false, derated := false, reread := false })
          let s := s.pushRecord c.q
            { seq := BitVec.ofNat 32 (c.field 4 4), status := st, opcode := BitVec.ofNat 8 c.opcode, cflags := BitVec.ofNat 15 fl,
              tag := BitVec.ofNat 64 (c.field 8 8), start := BitVec.ofNat 64 c.start, detail := detail, irq := bit c.flags 2, event := false }
          if c.q = .admin then s.drainEvents.adminIdle else s
        else
          let s := s.updQueue c.q (fun x => { x with capped := capped, derated := derated })
          if c.q = .admin then s.adminIdle else s
    | _ => s

/-- An ended command whose record is due leaves. -/
def State.finishDue (s : State) (cid : Nat) : State :=
  match s.cmd? cid with
  | none => s
  | some c => if s.recordTurn c then s.writeEnd cid else s

/-- An ended command leaves, and with a DMA command those that waited for its record. -/
def State.finishCmd (s : State) (cid : Nat) : State :=
  match s.cmd? cid with
  | none => s
  | some c =>
    let t := s.finishDue cid
    if isDmaOp c.opcode then ((t.cmds.filter (fun d => decide (d.q = c.q))).map (fun d => d.cid)).foldl (fun s k => s.finishDue k) t else t

/-- Commands of a queue that have begun and not ended. -/
def State.inFlight (s : State) (q : QRef) : List Cmd :=
  s.cmds.filter (fun c => decide (c.q = q) && (match c.phase with
    | .ended _ _ => false
    | .waiting => false
    | _ => true))

/-- A begun command of the module's queues that performs, with its opcode; none where its context is being killed (02 R55). -/
def State.begun? (s : State) (cid op : Nat) : Option Cmd :=
  match s.cmd? cid with
  | some c => if c.phase = .begun && c.opcode = op && s.engineRuns c.q then some c else none
  | none => none

/-- D of each P-state (15 R350). -/
def pstateDiv (p : Nat) : Nat := [64, 68, 72, 76, 80, 96, 128, 192].getD p 192

/-- A setting of `CLK_CORE` as one number, growing as the clock slows: D, and below P7 192 + `SKIP` (15 R351). -/
def clockLevel (div skip : Nat) : Nat := if div < 192 then max 64 div else 192 + min 63 skip

/-- `PREQ` as it reads (15 R357, R368). -/
def State.preqRead (s : State) : Nat := if s.pw.pdet then 2 else s.pw.preq.toNat

/-- The setting of the requested P-state, which the governor never exceeds (15 R356). -/
def State.preqLevel (s : State) : Nat := pstateDiv s.preqRead

/-- The current setting as one number. -/
def State.level (s : State) : Nat := clockLevel s.pw.div s.pw.skip

/-- `CLK_CORE` runs below the requested P-state because of the effective cap, either of its parts, or a power alert (15 R356). -/
def State.belowPreq (s : State) : Bool := decide (s.preqLevel < s.level) && (s.pw.limCap || s.pw.limTherm || s.pw.limAlert)

/-- Every outstanding command will set `CAPPED` (15 R356). -/
def State.markCapped (s : State) : State := { s with cmds := s.cmds.map (fun c => { c with capped := true }) }

end Sys2Proof.Machine
end

