-- ==== Sys2Proof/Machine/Operands.lean ====
section
/-! DEFINITION. Operand forms of Chokotha instructions: the fields of a word, register uses and their legality, reading
and writing registers, registers that a load is still to write, and how a herd issues one instruction (02, 03). -/
namespace Sys2Proof.Machine

/-! ## Fields (03 R60, R69, R76, R81, R83) -/

/-- Bits [hi:lo] of the class-specific field [25:0]. -/
def lowBits (f : Fields) (hi lo : Nat) : Nat := bits f.low.toNat hi lo
/-- Bit i of the class-specific field. -/
def lowBit (f : Fields) (i : Nat) : Bool := f.low.getLsbD i
/-- `SC` of form R. -/
def fSC (f : Fields) : Nat := lowBits f 25 18
/-- `UA` of form R and of form I (03 R69). -/
def fUA (f : Fields) : Bool := if f.form then lowBit f 1 else lowBit f 17
/-- `UB` of form R. -/
def fUB (f : Fields) : Bool := !f.form && lowBit f 16
/-- `UC` of form R. -/
def fUC (f : Fields) : Bool := !f.form && lowBit f 15
/-- `UOP` of form R and of form I. -/
def fUOP (f : Fields) : Bool := if f.form then lowBit f 0 else lowBit f 14
/-- `RM`; form I rounds to nearest even. -/
def fRM (f : Fields) : Nat := if f.form then 0 else lowBits f 13 12
/-- `TYPE` of form R. -/
def fTYPE (f : Fields) : Nat := lowBits f 11 8
/-- `XMOD`; form I has none. -/
def fXMOD (f : Fields) : Nat := if f.form then 0 else lowBits f 7 0
/-- `IMM32` of form I: instruction bits [33:2]. -/
def fIMM (f : Fields) : Nat := f.sb.toNat * 2 ^ 24 + lowBits f 25 2
/-- `OFS` of the memory classes: a signed byte offset. -/
def fOFS (f : Fields) : Int := signed (lowBits f 25 14) 12

/-! ## Register uses (03 R64, R65) -/

/-- A register field as an instruction uses it: uniform or vector, first register, how many registers. -/
structure Use where
  uni : Bool
  r : Nat
  span : Nat
deriving DecidableEq, Repr

/-- Registers per thread that a kernel owns (02 R41, 03 R64). -/
def ownedRegs (nreg : Nat) : Nat := cdiv nreg 8 * 8

/-- A use names registers that exist, from an aligned start; vz is exempt. -/
def Use.legal (u : Use) (nreg : Nat) : Bool :=
  if u.uni then u.r % u.span = 0 && u.r + u.span ≤ 64
  else u.r = 255 || (u.r % u.span = 0 && u.r + u.span ≤ ownedRegs nreg)

/-- vz: reads zero, drops writes. -/
def Use.vz (u : Use) : Bool := !u.uni && u.r = 255

/-- Register `r` of a lane, or uniform register `r`: v255 reads zero at all times (02 R42). -/
def Herd.reg (h : Herd) (uni : Bool) (r lane : Nat) : Word :=
  if uni then spGet h.uregs r else if r = 255 then 0 else spGet h.regs (32 * r + lane)

/-- Write register `r` of a lane, or uniform register `r`: v255 drops what is written at all times (02 R42). -/
def Herd.setReg (h : Herd) (uni : Bool) (r lane : Nat) (w : Word) : Herd :=
  if uni then { h with uregs := spSet h.uregs r w }
  else if r = 255 then h
  else { h with regs := spSet h.regs (32 * r + lane) w }

/-- The value of a use in a lane, lowest register first. -/
def Herd.read (h : Herd) (u : Use) (lane : Nat) : Nat :=
  if u.vz then 0
  else (List.range u.span).foldl (fun v i => v + (h.reg u.uni (u.r + i) lane).toNat * 2 ^ (32 * i)) 0

/-- Write a value to a use in a lane; a uniform use is one register set for the herd. -/
def Herd.write (h : Herd) (u : Use) (lane v : Nat) : Herd :=
  if u.vz then h
  else (List.range u.span).foldl (fun h i => h.setReg u.uni (u.r + i) lane (BitVec.ofNat 32 (v / 2 ^ (32 * i)))) h

/-- What an instruction uses: whether its reserved and unused bits are as they must be, the registers it reads, and those it
writes. -/
structure Shape where
  ok : Bool
  src : List Use
  dst : List Use
deriving DecidableEq, Repr

/-- The encoding is legal for a kernel of `nreg` registers (03 R63 to R65). -/
def Shape.legal (sh : Shape) (nreg : Nat) : Bool :=
  sh.ok && sh.src.all (fun u => u.legal nreg) && sh.dst.all (fun u => u.legal nreg)

/-- A register field that the function does not use holds 0xFF (03 R63). -/
def unused (r : BitVec 8) : Bool := r = 0xFF

/-! ## Pending registers (02 R34) -/

/-- Registers that a request in flight still has to write. -/
def Req.dest (r : Req) : Use :=
  let n := match r.lanes with
    | a :: _ => a.size
    | [] => 4
  { uni := r.udst, r := r.dst, span := cdiv n 4 }

/-- Two uses share a register. -/
def Use.meets (a b : Use) : Bool := !a.vz && !b.vz && a.uni = b.uni && a.r < b.r + b.span && b.r < a.r + a.span

/-- Requests in flight of the herd at a position. -/
def State.herdReqs (s : State) (h : HerdRef) : List Req := s.reqs.filter (fun r => r.core = h.core && r.pos = h.pos)

/-- A register that the instruction reads or writes is still being written: it does not issue (02 R34). -/
def State.hazard (s : State) (h : HerdRef) (sh : Shape) : Bool :=
  (s.herdReqs h).any (fun r => r.dst != 255 && (sh.src ++ sh.dst).any (fun u => u.meets r.dest))

/-! ## Predicates and acting lanes (03 R66) -/

/-- Predicate p`n` of every lane; p7 reads true. -/
def Herd.pred (h : Herd) (n : Nat) : LaneMask := if n = 7 then BitVec.allOnes 32 else h.preds.getD n 0

/-- Write a predicate in the lanes of a mask; a write to p7 is dropped. -/
def Herd.setPred (h : Herd) (n : Nat) (lanes v : LaneMask) : Herd :=
  { h with preds := updAt h.preds n (fun p => (p &&& ~~~lanes) ||| (v &&& lanes)) }

/-- Lanes whose guard holds. -/
def Herd.guard (h : Herd) (f : Fields) : LaneMask := if f.pneg then ~~~(h.pred f.pred.toNat) else h.pred f.pred.toNat

/-- Lanes that act. -/
def Herd.acting (h : Herd) (f : Fields) : LaneMask := h.active &&& h.guard f

/-- Lanes of a mask, ascending. -/
def laneList (m : LaneMask) : List Nat := lanes32.filter (fun l => m.getLsbD l)

/-- Lowest lane of a mask. -/
def lowLane (m : LaneMask) : Nat := (laneList m).headD 0

/-! ## Reconvergence (02 R36, 03 R85) -/

/-- Bring the stack up to date at a program counter: a group that has reached its reconvergence point, or that has wholly exited,
gives way to the taken lanes or is popped; an entry whose mask is empty is popped as it is reached. -/
def settle (exited : LaneMask) : List StackEntry → Word64 → LaneMask → Word64 × LaneMask × List StackEntry
  | [], pc, act => (pc, act, [])
  | .call ret mask :: rest, pc, act =>
    if act = 0 then settle exited rest ret (mask &&& ~~~exited) else (pc, act, .call ret mask :: rest)
  | .diverge reconv mask taken target second :: rest, pc, act =>
    if act != 0 && pc != reconv then (pc, act, .diverge reconv mask taken target second :: rest)
    else if !second && (taken &&& ~~~exited) != 0 && target != reconv then
      (target, taken &&& ~~~exited, .diverge reconv mask taken target true :: rest)
    else settle exited rest reconv (mask &&& ~~~exited)

/-- Go on at `pc` with the lanes of `act`. -/
def Herd.goto (h : Herd) (pc : Word64) (act : LaneMask) : Herd :=
  let r := settle h.exited h.stack pc act
  { h with pc := r.1, active := r.2.1, stack := r.2.2, fetched := none }

/-- Go on at the next instruction. -/
def Herd.next (h : Herd) : Herd := h.goto (h.pc + 8) h.active

/-! ## Issue (02 R34, R38, R55, R63) -/

/-- The context of a herd. -/
def Herd.ctxRef (h : Herd) : CtxRef := { inst := h.inst, ctx := h.ctx }

/-- A herd that can issue: the clocks run, its context is not being killed, its slot is running, and it does not wait at a barrier. -/
def State.issuing? (s : State) (r : HerdRef) : Option Herd :=
  match s.herd? r with
  | none => none
  | some h =>
    match s.ctx? h.ctxRef with
    | none => none
    | some c => if c.st = 3 || c.st = 4 || h.atBarrier.isSome || !s.clocked then none else some h

/-- A fault of the herd's current instruction. -/
def State.herdFault (s : State) (r : HerdRef) (h : Herd) (cause : Cause) (lane : Nat) (addr : Nat) : State :=
  s.ctxFault h.ctxRef { cause := cause, core := r.core, herd := r.pos, lane := some lane, pc := h.pc.toNat, addr := addr }

/-- Issue one instruction of a herd: no effect but the next program counter where no lane acts; `ILLEGAL_INSTR` where the encoding
is not legal; held while a register it uses is still being written; else `go` with the acting lanes. -/
def State.issue (s : State) (r : HerdRef) (f : Fields) (sh : Shape) (go : State → Herd → LaneMask → State) : State :=
  match s.issuing? r with
  | none => s
  | some h =>
    let act := h.acting f
    if act = 0 then s.updHerd r Herd.next
    else if !sh.legal h.nreg then s.herdFault r h .illegalInstr (lowLane act) 0
    else if s.hazard r sh then s
    else go s h act

/-! ## The address pipelines (02 R32, R46) -/

/-- The scheduler that a herd position belongs to (log 28). -/
def schedulerOf (pos : Nat) : Nat := pos / 32

/-- No other herd's instruction holds the address pipeline of a herd's scheduler. -/
def State.pipeFree (s : State) (r : HerdRef) : Bool :=
  ((s.core r.core).pipes.getD (schedulerOf r.pos) none).elim true (fun p => decide (p = r.pos))

/-- An instruction holds its scheduler's address pipeline. -/
def State.holdPipe (s : State) (r : HerdRef) : State :=
  s.updCore r.core (fun c => { c with pipes := updAt c.pipes (schedulerOf r.pos) (fun _ => some r.pos) })

/-- The pipelines that herds of a core hold are free again. -/
def State.freePipes (s : State) (core : Nat) (gone : Nat → Bool) : State :=
  s.updCore core (fun c => { c with pipes := c.pipes.map (fun x => if x.elim false gone then none else x) })

/-- Issue an instruction that changes only its herd. -/
def State.issueHerd (s : State) (r : HerdRef) (f : Fields) (sh : Shape) (go : Herd → LaneMask → Herd) : State :=
  s.issue r f sh (fun s h act => s.updHerd r (fun _ => (go h act).next))

/-- Write one result per acting lane, computed from the herd as it stood before. -/
def Herd.writeLanes (h : Herd) (u : Use) (act : LaneMask) (v : Nat → Nat) : Herd :=
  if u.uni then h.write u 0 (v (lowLane act)) else (laneList act).foldl (fun x l => x.write u l (v l)) h

end Sys2Proof.Machine
end

