-- ==== Sys2Proof/Machine/Flags.lean ====
section
/-! DEFINITION. The conditions of the compare class, written to predicates or registers (03 R74), and the
operand types of the arithmetic classes (03 R70). -/
namespace Sys2Proof.Machine

/-- Element width of a `TYPE` in bits (03 R70). -/
def elemBits (t : Nat) : Nat :=
  if t = 2 || t = 3 || t = 5 then 64 else if 6 ≤ t && t ≤ 9 then 16 else if t = 10 || t = 11 then 8 else 32

/-- Elements that one register of a `TYPE` holds; 1 for a 64-bit type (03 R70, R73). -/
def elemCount (t : Nat) : Nat := if 6 ≤ t && t ≤ 9 then 2 else if t = 10 || t = 11 then 4 else 1

/-- Registers of one operand of a `TYPE` (03 R64). -/
def typeSpan (t : Nat) : Nat := if t = 2 || t = 3 || t = 5 then 2 else 1

/-- Signed integer types (03 R70). -/
def typeSigned (t : Nat) : Bool := t = 1 || t = 3 || t = 9

/-- Floating types (03 R70). -/
def typeFloat (t : Nat) : Bool := (4 ≤ t && t ≤ 7) || t = 10 || t = 11

/-- Element `i` of width `w` of a value. -/
def elem (v w i : Nat) : Nat := v / 2 ^ (w * i) % 2 ^ w

/-- Put elements of width `w` together, lowest first. -/
def packElems (w : Nat) : List Nat → Nat
  | [] => 0
  | x :: xs => x % 2 ^ w + 2 ^ w * packElems w xs

/-- Apply an operation to each element of the operands (03 R72). -/
def mapElems (t : Nat) (op : Nat → Nat → Nat → Nat) (a b c : Nat) : Nat :=
  let w := elemBits t
  packElems w ((List.range (elemCount t)).map (fun i => op (elem a w i) (elem b w i) (elem c w i)))

/-- The number that an element of an integer type stands for. -/
def intVal (t x : Nat) : Int := if typeSigned t then signed x (elemBits t) else (x : Int)

/-- What a comparison finds: the order of the operands, or that they are unordered. -/
inductive Cmp where
  | lt
  | eq
  | gt
  | unordered
deriving DecidableEq, Repr

/-- `COND` of a comparison (03 R74): with a NaN operand only NE and unordered hold. -/
def condHolds (cond : Nat) (c : Cmp) : Bool :=
  match cond with
  | 0 => c = .eq
  | 1 => c != .eq
  | 2 => c = .lt
  | 3 => c = .lt || c = .eq
  | 4 => c = .gt
  | 5 => c = .gt || c = .eq
  | 6 => c = .unordered
  | _ => false

/-- Comparison of integers. -/
def cmpInt (a b : Int) : Cmp := if a < b then .lt else if a = b then .eq else .gt

/-- `MERGE` (03 R74): what the predicate takes, from the condition and its previous value. -/
def mergePred (merge : Nat) (c old : Bool) : Bool :=
  match merge with
  | 0 => c
  | 1 => c && old
  | 2 => c || old
  | _ => !c

/-- A mask with bit l set where `p l` holds. -/
def laneMask (p : Nat → Bool) : LaneMask := lanes32.foldl (fun m l => if p l then m ||| (1 <<< l) else m) 0

end Sys2Proof.Machine
end

