-- ==== Sys2Proof/Machine/Numerics.lean ====
section
/-! DEFINITION. Exact numbers and their rounding: the formats of the vector pipes (03 R72, R73), of the arrays (04) and of
add-to-line (07), and the functions that 03 R73 bounds in ulp. -/
namespace Sys2Proof.Machine

/-! ## Formats and values -/

/-- What the all-ones exponent of a format means: infinities and NaNs as in IEEE 754; one NaN and no infinity (F8E4M3); or
finite numbers only (the FP6 and FP4 formats). -/
inductive Special where
  | ieee
  | oneNan
  | none
deriving DecidableEq, Repr

/-- A binary format. -/
structure Fmt where
  ebits : Nat
  mbits : Nat
  special : Special
  /-- the magnitude bits of its canonical NaN -/
  nan : Nat
deriving DecidableEq, Repr

def fmtF32 : Fmt := { ebits := 8, mbits := 23, special := .ieee, nan := 0x7FC00000 }
def fmtF64 : Fmt := { ebits := 11, mbits := 52, special := .ieee, nan := 0x7FF8000000000000 }
def fmtF16 : Fmt := { ebits := 5, mbits := 10, special := .ieee, nan := 0x7E00 }
def fmtBF16 : Fmt := { ebits := 8, mbits := 7, special := .ieee, nan := 0x7FC0 }
def fmtE5M2 : Fmt := { ebits := 5, mbits := 2, special := .ieee, nan := 0x7E }
def fmtE4M3 : Fmt := { ebits := 4, mbits := 3, special := .oneNan, nan := 0x7F }
def fmtE2M3 : Fmt := { ebits := 2, mbits := 3, special := .none, nan := 0 }
def fmtE3M2 : Fmt := { ebits := 3, mbits := 2, special := .none, nan := 0 }
def fmtE2M1 : Fmt := { ebits := 2, mbits := 1, special := .none, nan := 0 }

/-- Width in bits. -/
def Fmt.width (F : Fmt) : Nat := 1 + F.ebits + F.mbits
/-- Exponent bias. -/
def Fmt.bias (F : Fmt) : Int := 2 ^ (F.ebits - 1) - 1
/-- Exponent of the smallest normal number. -/
def Fmt.emin (F : Fmt) : Int := 1 - F.bias
/-- Magnitude bits of the largest finite number. -/
def Fmt.maxCode (F : Fmt) : Nat :=
  match F.special with
  | .ieee => (2 ^ F.ebits - 1) * 2 ^ F.mbits - 1
  | .oneNan => 2 ^ (F.ebits + F.mbits) - 2
  | .none => 2 ^ (F.ebits + F.mbits) - 1

/-- A value: NaN, an infinity, or (-1)^neg * m * 2^e. -/
inductive FV where
  | nan
  | inf (neg : Bool)
  | fin (neg : Bool) (m : Nat) (e : Int)
deriving DecidableEq, Repr

/-- The value that bits of a format stand for. -/
def Fmt.decode (F : Fmt) (x : Nat) : FV :=
  let s := x.testBit (F.ebits + F.mbits)
  let ex := x / 2 ^ F.mbits % 2 ^ F.ebits
  let ma := x % 2 ^ F.mbits
  let num := if ex = 0 then FV.fin s ma (F.emin - F.mbits) else FV.fin s (2 ^ F.mbits + ma) (ex - F.bias - F.mbits)
  match F.special with
  | .ieee => if ex = 2 ^ F.ebits - 1 then (if ma = 0 then .inf s else .nan) else num
  | .oneNan => if ex = 2 ^ F.ebits - 1 && ma = 2 ^ F.mbits - 1 then .nan else num
  | .none => num

/-! ## Rounding (03 R69, R72, R73) -/

/-- m / 2^d rounded under `RM`: 0 nearest even, 1 toward zero, 2 toward minus infinity, 3 toward plus infinity. -/
def roundShift (rm : Nat) (neg : Bool) (m d : Nat) : Nat :=
  let q := m / 2 ^ d
  let r := m % 2 ^ d
  let up := match rm with
    | 0 => decide (2 ^ d < 2 * r) || (decide (2 * r = 2 ^ d) && decide (0 < d) && decide (q % 2 = 1))
    | 1 => false
    | 2 => neg && decide (r ≠ 0)
    | _ => !neg && decide (r ≠ 0)
  if up then q + 1 else q

/-- The sign bit of a format. -/
def Fmt.sign (F : Fmt) (neg : Bool) : Nat := if neg then 2 ^ (F.ebits + F.mbits) else 0

/-- An infinite result (03 R73): the infinity, the NaN of a format that has none, or the largest finite number. -/
def Fmt.encInf (F : Fmt) (sat neg : Bool) : Nat :=
  if sat then F.sign neg + F.maxCode
  else match F.special with
    | .ieee => F.sign neg + (2 ^ F.ebits - 1) * 2 ^ F.mbits
    | .oneNan => F.nan
    | .none => F.sign neg + F.maxCode

/-- A result beyond the range (03 R73): infinite where the rounding goes away from zero, else the largest finite number. -/
def Fmt.overflow (F : Fmt) (rm : Nat) (sat neg : Bool) : Nat :=
  let away := match rm with
    | 0 => true
    | 1 => false
    | 2 => neg
    | _ => !neg
  if sat || !away then F.sign neg + F.maxCode else F.encInf false neg

/-- Round (-1)^neg * m * 2^e into a format, subnormals kept. -/
def Fmt.round (F : Fmt) (rm : Nat) (sat neg : Bool) (m : Nat) (e : Int) : Nat :=
  if m = 0 then F.sign neg
  else
    let q : Int := max ((Nat.log2 m : Int) + e) F.emin - F.mbits
    let mant := if q ≤ e then m * 2 ^ (e - q).toNat else roundShift rm neg m (q - e).toNat
    let code := (q + F.mbits + F.bias - 1).toNat * 2 ^ F.mbits + mant
    if F.maxCode < code then F.overflow rm sat neg else F.sign neg + code

/-- Bits of a value in a format. -/
def Fmt.encode (F : Fmt) (rm : Nat) (sat : Bool) : FV → Nat
  | .nan => F.nan
  | .inf neg => F.encInf sat neg
  | .fin neg m e => F.round rm sat neg m e

/-! ## Arithmetic (IEEE 754, 03 R72) -/

/-- The negative of a value. -/
def FV.neg : FV → FV
  | .nan => .nan
  | .inf s => .inf (!s)
  | .fin s m e => .fin (!s) m e

/-- Sign times magnitude. -/
def sgn (s : Bool) (m : Nat) : Int := if s then -(m : Int) else m

/-- Exact sum; an exact zero of unlike signs is +0, or -0 when rounding toward minus infinity. -/
def FV.add (rm : Nat) : FV → FV → FV
  | .nan, _ => .nan
  | _, .nan => .nan
  | .inf s, .inf t => if s = t then .inf s else .nan
  | .inf s, _ => .inf s
  | _, .inf t => .inf t
  | .fin s m e, .fin t n f =>
    let g := min e f
    let x := sgn s (m * 2 ^ (e - g).toNat) + sgn t (n * 2 ^ (f - g).toNat)
    if x = 0 then .fin (if s = t then s else decide (rm = 2)) 0 0 else .fin (decide (x < 0)) x.natAbs g

/-- Exact product. -/
def FV.mul : FV → FV → FV
  | .nan, _ => .nan
  | _, .nan => .nan
  | .inf s, .inf t => .inf (s != t)
  | .inf s, .fin t n _ => if n = 0 then .nan else .inf (s != t)
  | .fin s m _, .inf t => if m = 0 then .nan else .inf (s != t)
  | .fin s m e, .fin t n f => .fin (s != t) (m * n) (e + f)

/-- Order of two values. -/
def FV.cmp : FV → FV → Cmp
  | .nan, _ => .unordered
  | _, .nan => .unordered
  | .inf s, .inf t => if s = t then .eq else if s then .lt else .gt
  | .inf s, _ => if s then .lt else .gt
  | _, .inf t => if t then .gt else .lt
  | .fin s m e, .fin t n f =>
    let g := min e f
    cmpInt (sgn s (m * 2 ^ (e - g).toNat)) (sgn t (n * 2 ^ (f - g).toNat))

/-- The value is negative, minus zero included. -/
def FV.isNeg : FV → Bool
  | .nan => false
  | .inf s => s
  | .fin s _ _ => s

/-- a is below b, with -0 below +0 (03 R72). -/
def FV.below (a b : FV) : Bool :=
  match a.cmp b with
  | .lt => true
  | .eq => a.isNeg && !b.isNeg
  | _ => false

/-- `FMIN`, `FMAX` (03 R72): the other operand where exactly one is NaN. -/
def FV.pick (wantMax : Bool) (a b : FV) : FV :=
  match a, b with
  | .nan, y => y
  | x, .nan => x
  | x, y => if x.below y then (if wantMax then y else x) else if wantMax then x else y

/-- Float to integer bits of width `w` (03 R73): rounded, clamped to the bound of the source's sign; a NaN gives 0. -/
def FV.toInt (rm w : Nat) (isSigned : Bool) (v : FV) : Nat :=
  let hi : Int := if isSigned then 2 ^ (w - 1) - 1 else 2 ^ w - 1
  let lo : Int := if isSigned then -(2 ^ (w - 1)) else 0
  let clamp := fun (x : Int) => (BitVec.ofInt w (if x < lo then lo else if hi < x then hi else x)).toNat
  match v with
  | .nan => 0
  | .inf s => clamp (if s then lo else hi)
  | .fin s m e =>
    if 0 ≤ e then clamp (sgn s (m * 2 ^ e.toNat)) else clamp (sgn s (roundShift rm s m (-e).toNat))

/-! ## Division and roots -/

/-- Integer square root below 2^k. -/
def isqrt (n : Nat) : Nat → Nat → Nat
  | 0, r => r
  | k + 1, r => isqrt n k (if (r + 2 ^ k) * (r + 2 ^ k) ≤ n then r + 2 ^ k else r)

/-- 1 / x before rounding; the lowest bit is sticky, so that one rounding is correct (03 R73). -/
def FV.recip : FV → FV
  | .nan => .nan
  | .inf s => .fin s 0 0
  | .fin s m e =>
    if m = 0 then .inf s
    else
      let k := Nat.log2 m + 64
      .fin s (2 * (2 ^ k / m) + if 2 ^ k % m = 0 then 0 else 1) (-(k : Int) - 1 - e)

/-- Square root before rounding, with a sticky lowest bit. -/
def FV.sqrt : FV → FV
  | .nan => .nan
  | .inf s => if s then .nan else .inf false
  | .fin s m e =>
    if m = 0 then .fin s 0 0
    else if s then .nan
    else
      let odd := e % 2 = 1
      let n := (if odd then 2 * m else m) * 2 ^ 128
      let e' := if odd then e - 1 else e
      let r := isqrt n (Nat.log2 n / 2 + 1) 0
      .fin false (2 * r + if r * r = n then 0 else 1) (e' / 2 - 65)

/-! ## Functions bounded in ulp (03 R73, log 8)

Each is computed in fixed point with 256 fraction bits, far below one ulp, rounded, and then moved by the implementation's
own number of ulp within the bound. -/

/-- Pi times 2^256, rounded down. -/
def piFix : Nat := 0x3243f6a8885a308d313198a2e03707344a4093822299f31d0082efa98ec4e6c89
/-- The natural logarithm of 2 times 2^256, rounded down. -/
def ln2Fix : Nat := 0xb17217f7d1cf79abc9e3b39803f2f6af40f343267298b62d8a0d175b8baafa2b
/-- One, with 256 fraction bits. -/
def oneFix : Nat := 2 ^ 256

/-- e^x for 0 ≤ x < 1, 70 terms. -/
def expFix (x : Nat) : Nat :=
  ((List.range 70).foldl (fun p k => (p.1 + p.2 * x / oneFix / (k + 1), p.2 * x / oneFix / (k + 1))) (oneFix, oneFix)).1

/-- The alternating series whose terms start at (t, k): t - t x² / ((k+1)(k+2)) + …, for a sine or cosine. -/
def altSeries (x2 t k : Nat) : Int :=
  ((List.range 45).foldl (fun (p : Int × Nat × Nat × Bool) _ =>
    let n := p.2.1 * x2 / oneFix / ((p.2.2.1 + 1) * (p.2.2.1 + 2))
    (if p.2.2.2 then p.1 + n else p.1 - n, n, p.2.2.1 + 2, !p.2.2.2)) ((t : Int), t, k, false)).1

/-- Sine of r for 0 ≤ r ≤ pi/2. -/
def sinFix (r : Nat) : Int := altSeries (r * r / oneFix) r 1
/-- Cosine of r for 0 ≤ r ≤ pi/2. -/
def cosFix (r : Nat) : Int := altSeries (r * r / oneFix) oneFix 0

/-- A fixed-point number as a value. -/
def ofFix (x : Int) (e : Int) : FV := .fin (decide (x < 0)) x.natAbs e

/-- m * 2^e with 256 fraction bits. -/
def toFix (m : Nat) (e : Int) : Nat := if 0 ≤ e + 256 then m * 2 ^ (e + 256).toNat else 0

/-- Sine or cosine of a finite value. Other than at 0 its magnitude lies below the value that the series starts from, as that of the truncated
result does here. -/
def trigFix (isCos neg : Bool) (m : Nat) (e : Int) : FV :=
  let x := toFix m e
  let half := piFix / 2
  let r := x % half
  let k := x / half + (if isCos then 1 else 0)
  let v := if k % 2 = 0 then sinFix r else cosFix r
  let v := if m = 0 then v else v - 1
  let v := if k % 4 < 2 then v else -v
  ofFix (if neg && !isCos then -v else v) (-256)

/-- 2^x of a finite value below 2^9 in magnitude. -/
def exp2Fix (neg : Bool) (m : Nat) (e : Int) : FV :=
  let x : Int := sgn neg (toFix m e)
  let n := x / (oneFix : Int)
  let f := (x % (oneFix : Int)).toNat
  .fin false (expFix (f * ln2Fix / oneFix)) (n - 256)

/-- Binary logarithm of m * 2^e above zero, 160 fraction bits by repeated squaring. -/
def log2Fix (m : Nat) (e : Int) : FV :=
  let l := Nat.log2 m
  let y := m * 2 ^ 256 / 2 ^ l
  let p := (List.range 160).foldl (fun (p : Nat × Nat) _ =>
    let z := p.2 * p.2 / oneFix
    if 2 * oneFix ≤ z then (2 * p.1 + 1, z / 2) else (2 * p.1, z)) (0, y)
  ofFix (((l : Int) + e) * 2 ^ 160 + p.1) (-160)

/-- Hyperbolic tangent of a finite value. -/
def tanhFix (neg : Bool) (m : Nat) (e : Int) : FV :=
  let y := 2 * toFix m e
  if 64 * oneFix ≤ y then .fin neg (2 ^ 90 - 1) (-90)
  else
    let ex := expFix (y % ln2Fix) * 2 ^ (y / ln2Fix)
    .fin neg ((ex - oneFix) * oneFix / (ex + oneFix)) (-256)

/-- 1 / sqrt(m * 2^e). -/
def rsqrtFix (m : Nat) (e : Int) : FV :=
  let odd := e % 2 = 1
  let n := (if odd then 2 * m else m) * 2 ^ 400
  let e' := if odd then e - 1 else e
  let r := isqrt n (Nat.log2 n / 2 + 1) 0
  .fin false (2 ^ 600 / r) (-400 - e' / 2)

/-- FP32 magnitudes at most `k` ulp from m * 2^e, an ulp being the spacing of FP32 numbers at that value; `mag` is the one it rounds to. -/
def within (k mag m : Nat) (e : Int) : List Nat :=
  let q : Int := max ((Nat.log2 m : Int) + e) fmtF32.emin - fmtF32.mbits
  let near := fun (n : Nat) => match FV.add 0 (fmtF32.decode n) (.fin true m e) with
    | .fin _ d x => FV.cmp (.fin false d x) (.fin false k q) != .gt
    | _ => false
  ((List.range (2 * k + 1)).filterMap (fun i => if k ≤ mag + i then some (mag + i - k) else none)).filter near

/-- The FP32 value at most `k` ulp from the exact one that the implementation gives (log 8). -/
def nearFix (fn k : Nat) (x : Word) (v : FV) : Word :=
  let c := fmtF32.encode 0 false v
  match v with
  | .fin _ m e =>
    let near := within k (c % 2 ^ 31) m e
    if fmtF32.maxCode < c % 2 ^ 31 then Config.transFree fn x
    else BitVec.ofNat 32 (c / 2 ^ 31 * 2 ^ 31 + near.getD (Config.ulpOffset fn x % near.length) (c % 2 ^ 31))
  | _ => Config.transFree fn x

/-- The transcendental functions other than `RECIP` and `SQRT` (03 R73). An operand for which the rule states no result gives
a free value: a NaN, an infinity, a number not above zero for `RSQRT` and `LOG2`, a magnitude above 2^15 for `SIN` and `COS`, a result
beyond the range. -/
def transcendental (fn : Nat) (x : Word) : Word :=
  match fmtF32.decode x.toNat with
  | .fin neg m e =>
    let big := fun (k : Int) => m != 0 && k ≤ (Nat.log2 m : Int) + e
    match fn with
    | 2 => if neg || m = 0 then Config.transFree fn x else nearFix fn 1 x (rsqrtFix m e)
    | 4 => if big 9 then (if neg then nearFix fn 2 x (.fin false 1 (-400)) else Config.transFree fn x)
           else nearFix fn 2 x (exp2Fix neg m e)
    | 5 => if neg || m = 0 then Config.transFree fn x else nearFix fn 2 x (log2Fix m e)
    | 6 => if FV.cmp (.fin false m e) (.fin false 1 15) = .gt then Config.transFree fn x
           else nearFix fn 2 x (trigFix false neg m e)
    | 7 => if FV.cmp (.fin false m e) (.fin false 1 15) = .gt then Config.transFree fn x
           else nearFix fn 2 x (trigFix true neg m e)
    | 8 => nearFix fn 2 x (tanhFix neg m e)
    | _ => Config.transFree fn x
  | _ => Config.transFree fn x

/-- The format of a floating `TYPE` (03 R70). -/
def typeFmt (t : Nat) : Fmt :=
  match t with
  | 4 => fmtF32
  | 5 => fmtF64
  | 6 => fmtF16
  | 7 => fmtBF16
  | 10 => fmtE4M3
  | _ => fmtE5M2

end Sys2Proof.Machine
end

