-- ==== Sys2Proof/Machine/Integer.lean ====
section
/-! DEFINITION. Integer and logic class (03 R68 to R71), and the form shared with the floating and multiply class. -/
namespace Sys2Proof.Machine

/-- What a function of the arithmetic classes allows (03 R69 to R72): its types, how many of a, b, c it reads, the `XMOD` bits it
uses, whether it uses `RM`, whether `UOP` is accepted, whether form I exists and with which type. -/
structure AluForm where
  types : List Nat
  n : Nat
  xmask : Nat
  rounds : Bool
  uop : Bool
  formI : Bool
  immType : Nat
deriving DecidableEq, Repr

/-- Operand type of the instruction. -/
def AluForm.type (a : AluForm) (f : Fields) : Nat := if f.form then a.immType else fTYPE f

/-- Uses of sources a, b, c and of the destination (03 R65, R69). -/
def useA (f : Fields) (span : Nat) : Use := { uni := fUA f || fUOP f, r := f.sa.toNat, span := span }
def useB (f : Fields) (span : Nat) : Use := { uni := fUB f || fUOP f, r := f.sb.toNat, span := span }
def useC (f : Fields) (span : Nat) : Use := { uni := fUC f || fUOP f, r := fSC f, span := span }
def useD (f : Fields) (span : Nat) : Use := { uni := fUOP f, r := f.dst.toNat, span := span }

/-- Legality and register uses of an arithmetic instruction. -/
def AluForm.shape (a : AluForm) (f : Fields) : Shape :=
  let k := typeSpan (a.type f)
  if f.form then
    { ok := a.formI && (a.uop || !fUOP f) && (a.n != 1 || (unused f.sa && !fUA f))
      src := (if a.n = 1 then [] else [useA f 1]) ++ (if a.n = 3 then [useD f 1] else [])
      dst := [useD f 1] }
  else
    { ok := a.types.contains (fTYPE f) && (a.uop || !fUOP f) && (a.rounds || fRM f = 0) && fXMOD f &&& (255 - a.xmask) = 0
        && (2 ≤ a.n || (unused f.sb && !fUB f)) && (3 ≤ a.n || (fSC f = 255 && !fUC f))
      src := [useA f k] ++ (if 2 ≤ a.n then [useB f k] else []) ++ (if 3 ≤ a.n then [useC f k] else [])
      dst := [useD f k] }

/-- Values of a, b and c in a lane: form I takes `IMM32` for a in `MOV` and for b elsewhere, and d for c in `FMA`. -/
def AluForm.vals (a : AluForm) (f : Fields) (h : Herd) (lane : Nat) : Nat × Nat × Nat :=
  let k := typeSpan (a.type f)
  if f.form then
    (if a.n = 1 then fIMM f else h.read (useA f 1) lane, fIMM f, if a.n = 3 then h.read (useD f 1) lane else 0)
  else
    (h.read (useA f k) lane, if 2 ≤ a.n then h.read (useB f k) lane else 0,
      if 3 ≤ a.n then h.read (useC f k) lane else 0)

/-- Run an arithmetic instruction: `op` gives the result of a lane from its herd, its lane, the type and a, b, c. With `UOP` it
runs once, in the lowest acting lane (03 R65). -/
def State.alu (s : State) (r : HerdRef) (f : Fields) (a : AluForm) (op : Herd → Nat → Nat → Nat → Nat → Nat → Nat) : State :=
  s.issueHerd r f (a.shape f) (fun h act =>
    h.writeLanes (useD f (typeSpan (a.type f))) act (fun l =>
      let v := a.vals f h l
      op h l (a.type f) v.1 v.2.1 v.2.2))

/-- Form of an integer and logic function. -/
def intForm (types : List Nat) (n : Nat) (formI : Bool) : AluForm :=
  { types := types, n := n, xmask := 0, rounds := false, uop := true, formI := formI, immType := 0 }

/-- Types of `ADD`, `SUB`, `MIN`, `MAX`. -/
def addTypes : List Nat := [0, 1, 2, 3, 8, 9]

/-! ## Results of one element -/

/-- Sum modulo the width. -/
def addElem (t a b : Nat) : Nat := (a + b) % 2 ^ elemBits t
/-- Difference modulo the width. -/
def subElem (t a b : Nat) : Nat := (a + (2 ^ elemBits t - b % 2 ^ elemBits t)) % 2 ^ elemBits t
/-- Minimum, signed or unsigned by type. -/
def minElem (t a b : Nat) : Nat := if intVal t b < intVal t a then b else a
/-- Maximum, signed or unsigned by type. -/
def maxElem (t a b : Nat) : Nat := if intVal t a < intVal t b then b else a
/-- Shift left by b modulo the width. -/
def shlElem (t a b : Nat) : Nat := a * 2 ^ (b % elemBits t) % 2 ^ elemBits t
/-- Shift right by b modulo the width, logical or arithmetic by type. -/
def shrElem (t a b : Nat) : Nat :=
  if typeSigned t then ((BitVec.ofNat (elemBits t) a).sshiftRight (b % elemBits t)).toNat else a / 2 ^ (b % elemBits t)
/-- Bits that are 1. -/
def countOnes (w a : Nat) : Nat := ((List.range w).filter (fun i => a.testBit i)).length
/-- 0 bits above the highest 1 bit; the width for 0. -/
def leadZeros (w a : Nat) : Nat := if a = 0 then w else w - 1 - Nat.log2 a
/-- Bit-wise choice: a where c is 1, b where it is 0. -/
def bmux (w a b c : Nat) : Nat := (a &&& c) ||| (b &&& (2 ^ w - 1 - c))
/-- a AND NOT b. -/
def andNot (w a b : Nat) : Nat := a &&& (2 ^ w - 1 - b)
/-- Bit-field extract (03 R71). -/
def bfx (t a b n : Nat) : Nat :=
  let x := a / 2 ^ (b % 32) % 2 ^ n
  if typeSigned t && x.testBit (n - 1) then x + (2 ^ 32 - 2 ^ n) else x
/-- Bit-field insert (03 R71). -/
def bfi (a b c n : Nat) : Nat :=
  let m := (2 ^ n - 1) * 2 ^ (b % 32) % 2 ^ 32
  (a &&& (2 ^ 32 - 1 - m)) ||| (c * 2 ^ (b % 32) % 2 ^ 32 &&& m)

/-! ## Status registers (03 R68) -/

/-- Width of a status register in registers. -/
def srSpan (n : Nat) : Nat := if n = 4 || n = 5 then 2 else 1

/-- Legality of `RDSR`: with `UOP` only a register that is the same in every lane. -/
def rdsrShape (f : Fields) : Shape :=
  { ok := !f.form && fTYPE f = 0 && fRM f = 0 && fXMOD f = 0 && f.sa.toNat ≤ 5 && !(fUOP f && f.sa.toNat = 0)
      && !fUA f && !fUB f && !fUC f && unused f.sb && fSC f = 255
    src := [], dst := [useD f (srSpan f.sa.toNat)] }

/-- `CLK_CORE` cycles since the start of the kernel on a herd's slot (03 R68, 15 R351). -/
def State.kernelCycles (s : State) (r : HerdRef) (h : Herd) : Nat :=
  (s.dieClk (dieOfCore r.core)).cycles - ((s.slot? { core := r.core, slot := h.slot }).bind (fun x => x.kernel)).elim 0 (fun k => k.startCycles)

/-- Value of a status register in a lane; `cyc` is `CYCLES`. -/
def statusReg (time cyc : Nat) (r : HerdRef) (act : LaneMask) (n lane : Nat) : Nat :=
  match n with
  | 0 => lane
  | 1 => r.pos
  | 2 => r.core
  | 3 => act.toNat
  | 4 => time % 2 ^ 64
  | _ => cyc % 2 ^ 64

/-! ## Meanings -/

/-- MOV: d = a, or `IMM32`. -/
def execMov (h : HerdRef) (f : Fields) (s : State) : Host.Outcome State Fault Refusal :=
  .next (s.alu h f (intForm [0] 1 true) (fun _ _ _ a _ _ => a))
/-- ADD: d = a + b. -/
def execAdd (h : HerdRef) (f : Fields) (s : State) : Host.Outcome State Fault Refusal :=
  .next (s.alu h f (intForm addTypes 2 true) (fun _ _ t a b c => mapElems t (fun x y _ => addElem t x y) a b c))
/-- SUB: d = a - b. -/
def execSub (h : HerdRef) (f : Fields) (s : State) : Host.Outcome State Fault Refusal :=
  .next (s.alu h f (intForm addTypes 2 true) (fun _ _ t a b c => mapElems t (fun x y _ => subElem t x y) a b c))
/-- MIN. -/
def execMin (h : HerdRef) (f : Fields) (s : State) : Host.Outcome State Fault Refusal :=
  .next (s.alu h f (intForm addTypes 2 true) (fun _ _ t a b c => mapElems t (fun x y _ => minElem t x y) a b c))
/-- MAX. -/
def execMax (h : HerdRef) (f : Fields) (s : State) : Host.Outcome State Fault Refusal :=
  .next (s.alu h f (intForm addTypes 2 true) (fun _ _ t a b c => mapElems t (fun x y _ => maxElem t x y) a b c))
/-- AND. -/
def execAnd (h : HerdRef) (f : Fields) (s : State) : Host.Outcome State Fault Refusal :=
  .next (s.alu h f (intForm [0, 2] 2 true) (fun _ _ _ a b _ => a &&& b))
/-- OR. -/
def execOr (h : HerdRef) (f : Fields) (s : State) : Host.Outcome State Fault Refusal :=
  .next (s.alu h f (intForm [0, 2] 2 true) (fun _ _ _ a b _ => a ||| b))
/-- XOR. -/
def execXor (h : HerdRef) (f : Fields) (s : State) : Host.Outcome State Fault Refusal :=
  .next (s.alu h f (intForm [0, 2] 2 true) (fun _ _ _ a b _ => a ^^^ b))
/-- SHL. -/
def execShl (h : HerdRef) (f : Fields) (s : State) : Host.Outcome State Fault Refusal :=
  .next (s.alu h f (intForm [0, 2] 2 true) (fun _ _ t a b _ => shlElem t a b))
/-- SHR. -/
def execShr (h : HerdRef) (f : Fields) (s : State) : Host.Outcome State Fault Refusal :=
  .next (s.alu h f (intForm [0, 1, 2, 3] 2 true) (fun _ _ t a b _ => shrElem t a b))
/-- PICK: by p`XMOD`[2:0] of the lane, or of the lowest acting lane with `UOP`. -/
def execPick (h : HerdRef) (f : Fields) (s : State) : Host.Outcome State Fault Refusal :=
  .next (s.alu h f { intForm [0, 2] 2 false with xmask := 7 }
    (fun x l _ a b _ => if (x.pred (fXMOD f % 8)).getLsbD l then a else b))
/-- CNT1. -/
def execCnt1 (h : HerdRef) (f : Fields) (s : State) : Host.Outcome State Fault Refusal :=
  .next (s.alu h f (intForm [0, 2] 1 false) (fun _ _ t a _ _ => countOnes (elemBits t) a))
/-- LZC. -/
def execLzc (h : HerdRef) (f : Fields) (s : State) : Host.Outcome State Fault Refusal :=
  .next (s.alu h f (intForm [0, 2] 1 false) (fun _ _ t a _ _ => leadZeros (elemBits t) a))
/-- BMUX. -/
def execBmux (h : HerdRef) (f : Fields) (s : State) : Host.Outcome State Fault Refusal :=
  .next (s.alu h f (intForm [0, 2] 3 false) (fun _ _ t a b c => bmux (elemBits t) a b c))
/-- RDSR: copy a status register into v`DST`, or u`DST` with `UOP` (03 R68). -/
def execRdsr (h : HerdRef) (f : Fields) (s : State) : Host.Outcome State Fault Refusal :=
  .next (s.issue h f (rdsrShape f) (fun s x act =>
    s.updHerd h (fun _ => (x.writeLanes (useD f (srSpan f.sa.toNat)) act
      (fun l => statusReg s.time (s.kernelCycles h x) h act f.sa.toNat l)).next)))
/-- ANDN. -/
def execAndn (h : HerdRef) (f : Fields) (s : State) : Host.Outcome State Fault Refusal :=
  .next (s.alu h f (intForm [0, 2] 2 true) (fun _ _ t a b _ => andNot (elemBits t) a b))
/-- BFX. -/
def execBfx (h : HerdRef) (f : Fields) (s : State) : Host.Outcome State Fault Refusal :=
  .next (s.alu h f { intForm [0, 1] 2 false with xmask := 31 } (fun _ _ t a b _ => bfx t a b (fXMOD f % 32 + 1)))
/-- BFI. -/
def execBfi (h : HerdRef) (f : Fields) (s : State) : Host.Outcome State Fault Refusal :=
  .next (s.alu h f { intForm [0] 3 false with xmask := 31 } (fun _ _ _ a b c => bfi a b c (fXMOD f % 32 + 1)))

end Sys2Proof.Machine
end

