-- ==== Sys2Proof/Machine/Floating.lean ====
section
/-! DEFINITION. Floating and multiply class (03 R72), conversion and transcendental class (03 R73). -/
namespace Sys2Proof.Machine

/-- Form of a floating function: `XMOD` bit 0 negates a, bit 1 negates c (03 R72). -/
def fltForm (n xmask : Nat) (rounds : Bool) : AluForm :=
  { types := [4, 5, 6, 7], n := n, xmask := xmask, rounds := rounds, uop := false, formI := true, immType := 4 }

/-- Form of an integer multiply. -/
def mulForm (n xmask : Nat) : AluForm :=
  { types := [0, 1], n := n, xmask := xmask, rounds := false, uop := false, formI := false, immType := 0 }

/-- A value negated where its `XMOD` bit is set. -/
def negIf (f : Fields) (i : Nat) (v : FV) : FV := if (fXMOD f).testBit i then v.neg else v

/-- One element of a floating operation: decode, negate, operate exactly, round once. -/
def fltElem (f : Fields) (t : Nat) (op : FV → FV → FV → FV) (a b c : Nat) : Nat :=
  let F := typeFmt t
  F.encode (fRM f) false (op (negIf f 0 (F.decode a)) (F.decode b) (negIf f 1 (F.decode c)))

/-- An integer multiply operand: signed by type, negated where its `XMOD` bit is set. -/
def mulVal (f : Fields) (t i x : Nat) : Int := if (fXMOD f).testBit i then -(intVal t x) else intVal t x

/-- Low 32 bits of an integer. -/
def low32 (x : Int) : Nat := (BitVec.ofInt 32 x).toNat

/-- FADD. -/
def execFadd (h : HerdRef) (f : Fields) (s : State) : Host.Outcome State Fault Refusal :=
  .next (s.alu h f (fltForm 2 1 true) (fun _ _ t a b c => mapElems t (fltElem f t (fun x y _ => x.add (fRM f) y)) a b c))
/-- FMUL. -/
def execFmul (h : HerdRef) (f : Fields) (s : State) : Host.Outcome State Fault Refusal :=
  .next (s.alu h f (fltForm 2 1 true) (fun _ _ t a b c => mapElems t (fltElem f t (fun x y _ => x.mul y)) a b c))
/-- FMA: one rounding. Form I: d = a x `IMM32` + d. -/
def execFma (h : HerdRef) (f : Fields) (s : State) : Host.Outcome State Fault Refusal :=
  .next (s.alu h f (fltForm 3 3 true)
    (fun _ _ t a b c => mapElems t (fltElem f t (fun x y z => (x.mul y).add (fRM f) z)) a b c))
/-- FMIN. -/
def execFmin (h : HerdRef) (f : Fields) (s : State) : Host.Outcome State Fault Refusal :=
  .next (s.alu h f (fltForm 2 1 false) (fun _ _ t a b c => mapElems t (fltElem f t (fun x y _ => x.pick false y)) a b c))
/-- FMAX. -/
def execFmax (h : HerdRef) (f : Fields) (s : State) : Host.Outcome State Fault Refusal :=
  .next (s.alu h f (fltForm 2 1 false) (fun _ _ t a b c => mapElems t (fltElem f t (fun x y _ => x.pick true y)) a b c))
/-- MULLO: low 32 bits of a x b. -/
def execMullo (h : HerdRef) (f : Fields) (s : State) : Host.Outcome State Fault Refusal :=
  .next (s.alu h f (mulForm 2 1) (fun _ _ t a b _ => low32 (mulVal f t 0 a * intVal t b)))
/-- MULHI: high 32 bits of a x b. -/
def execMulhi (h : HerdRef) (f : Fields) (s : State) : Host.Outcome State Fault Refusal :=
  .next (s.alu h f (mulForm 2 1) (fun _ _ t a b _ => low32 (mulVal f t 0 a * intVal t b / 2 ^ 32)))
/-- MADLO: low 32 bits of a x b + c. -/
def execMadlo (h : HerdRef) (f : Fields) (s : State) : Host.Outcome State Fault Refusal :=
  .next (s.alu h f (mulForm 3 3) (fun _ _ t a b c => low32 (mulVal f t 0 a * intVal t b + mulVal f t 1 c)))

/-! ## Conversion (03 R73) -/

/-- Destination type of `CONV`. -/
def convDst (f : Fields) : Nat := fXMOD f / 16
/-- `SAT`. -/
def convSat (f : Fields) : Bool := (fXMOD f).testBit 3
/-- Elements converted: the larger of what one register of either type holds. -/
def convCount (f : Fields) : Nat := max (elemCount (fTYPE f)) (elemCount (convDst f))
/-- Registers that an operand of a type spans. -/
def convSpan (f : Fields) (t : Nat) : Nat := max 1 (convCount f * elemBits t / 32)

/-- Legality of the conversion class: `SB`, `SC` and their bits unused, no `UOP`. -/
def convOk (f : Fields) : Bool :=
  !f.form && unused f.sb && fSC f = 255 && !fUB f && !fUC f && !fUOP f

/-- Legality and uses of `CONV`. -/
def convShape (f : Fields) : Shape :=
  { ok := convOk f && fTYPE f ≤ 11 && convDst f ≤ 11 && fXMOD f % 8 = 0
    src := [useA f (convSpan f (fTYPE f))], dst := [useD f (convSpan f (convDst f))] }

/-- An integer into bits of width `w`: modulo the width, or clamped to the bound of its sign with `SAT`. -/
def intToInt (sat isSigned : Bool) (w : Nat) (v : Int) : Nat :=
  let hi : Int := if isSigned then 2 ^ (w - 1) - 1 else 2 ^ w - 1
  let lo : Int := if isSigned then -(2 ^ (w - 1)) else 0
  (BitVec.ofInt w (if sat then (if v < lo then lo else if hi < v then hi else v) else v)).toNat

/-- Convert one element. `SAT` acts on a conversion to a float that is not wider than the source (DEDUCED, log 24). -/
def convElem (rm : Nat) (sat : Bool) (t d x : Nat) : Nat :=
  if typeFloat t then
    let v := (typeFmt t).decode x
    if typeFloat d then (typeFmt d).encode rm (sat && elemBits d ≤ elemBits t) v
    else v.toInt rm (elemBits d) (typeSigned d)
  else
    let v := intVal t x
    if typeFloat d then (typeFmt d).encode rm sat (.fin (decide (v < 0)) v.natAbs 0)
    else intToInt sat (typeSigned d) (elemBits d) v

/-- CONV: N elements, lowest bits first. -/
def execConv (h : HerdRef) (f : Fields) (s : State) : Host.Outcome State Fault Refusal :=
  .next (s.issueHerd h f (convShape f) (fun x act =>
    x.writeLanes (useD f (convSpan f (convDst f))) act (fun l =>
      let v := x.read (useA f (convSpan f (fTYPE f))) l
      packElems (elemBits (convDst f)) ((List.range (convCount f)).map (fun i =>
        convElem (fRM f) (convSat f) (fTYPE f) (convDst f) (elem v (elemBits (fTYPE f)) i))))))

/-! ## Transcendental functions, F32 only (03 R73) -/

/-- Legality and uses of a transcendental function. A function with an error bound does not round as `RM` says, so that its `RM` is a field
that it does not use (03 R63). -/
def transShape (f : Fields) (rounds : Bool) : Shape :=
  { ok := convOk f && fTYPE f = 4 && fXMOD f = 0 && (rounds || fRM f = 0), src := [useA f 1], dst := [useD f 1] }

/-- Apply an FP32 function in each acting lane. -/
def State.trans (s : State) (h : HerdRef) (f : Fields) (rounds : Bool) (op : Nat → Nat) : State :=
  s.issueHerd h f (transShape f rounds) (fun x act => x.writeLanes (useD f 1) act (fun l => op (x.read (useA f 1) l)))

/-- RECIP, correctly rounded. -/
def execRecip (h : HerdRef) (f : Fields) (s : State) : Host.Outcome State Fault Refusal :=
  .next (s.trans h f true (fun x => fmtF32.encode (fRM f) false (fmtF32.decode x).recip))
/-- RSQRT, within 1 ulp. -/
def execRsqrt (h : HerdRef) (f : Fields) (s : State) : Host.Outcome State Fault Refusal :=
  .next (s.trans h f false (fun x => (transcendental 2 (BitVec.ofNat 32 x)).toNat))
/-- SQRT, correctly rounded. -/
def execSqrt (h : HerdRef) (f : Fields) (s : State) : Host.Outcome State Fault Refusal :=
  .next (s.trans h f true (fun x => fmtF32.encode (fRM f) false (fmtF32.decode x).sqrt))
/-- EXP2, within 2 ulp. -/
def execExp2 (h : HerdRef) (f : Fields) (s : State) : Host.Outcome State Fault Refusal :=
  .next (s.trans h f false (fun x => (transcendental 4 (BitVec.ofNat 32 x)).toNat))
/-- LOG2, within 2 ulp. -/
def execLog2 (h : HerdRef) (f : Fields) (s : State) : Host.Outcome State Fault Refusal :=
  .next (s.trans h f false (fun x => (transcendental 5 (BitVec.ofNat 32 x)).toNat))
/-- SIN, within 2 ulp up to magnitude 2^15. -/
def execSin (h : HerdRef) (f : Fields) (s : State) : Host.Outcome State Fault Refusal :=
  .next (s.trans h f false (fun x => (transcendental 6 (BitVec.ofNat 32 x)).toNat))
/-- COS, within 2 ulp up to magnitude 2^15. -/
def execCos (h : HerdRef) (f : Fields) (s : State) : Host.Outcome State Fault Refusal :=
  .next (s.trans h f false (fun x => (transcendental 7 (BitVec.ofNat 32 x)).toNat))
/-- TANH, within 2 ulp. -/
def execTanh (h : HerdRef) (f : Fields) (s : State) : Host.Outcome State Fault Refusal :=
  .next (s.trans h f false (fun x => (transcendental 8 (BitVec.ofNat 32 x)).toNat))

end Sys2Proof.Machine
end

