-- ==== Sys2Proof/Machine/HerdWide.lean ====
section
/-! DEFINITION. Compare class (03 R74) and herd-wide class (03 R75). -/
namespace Sys2Proof.Machine

/-! ## Compare -/

/-- `COND` and `MERGE` of the compare class. -/
def cmpCond (f : Fields) : Nat := fXMOD f / 32
def cmpMerge (f : Fields) : Nat := fXMOD f / 8 % 4

/-- Legality and sources of a compare over some types: `SC`, `UC`, `UOP` and `RM` unused, `XMOD`[2:0] zero, `COND` 7 reserved and 6 for
floats only. -/
def cmpShape (types : List Nat) (f : Fields) : Shape :=
  let k := typeSpan (fTYPE f)
  { ok := !f.form && types.contains (fTYPE f) && fXMOD f % 8 = 0 && cmpCond f != 7 && (cmpCond f != 6 || typeFloat (fTYPE f))
      && fRM f = 0 && fSC f = 255 && !fUC f && !fUOP f
    src := [useA f k, useB f k], dst := [] }

/-- Legality of a compare that writes a predicate. -/
def cmpPredShape (types : List Nat) (f : Fields) : Shape :=
  let sh := cmpShape types f
  { sh with ok := sh.ok && f.dst.toNat < 8 }

/-- Whether `COND`(a, b) holds in a lane. -/
def cmpLane (f : Fields) (h : Herd) (l : Nat) : Bool :=
  let t := fTYPE f
  let a := h.read (useA f (typeSpan t)) l
  let b := h.read (useB f (typeSpan t)) l
  condHolds (cmpCond f) (if typeFloat t then ((typeFmt t).decode a).cmp ((typeFmt t).decode b)
    else cmpInt (intVal t a) (intVal t b))

/-- A compare to a predicate in the acting lanes. -/
def State.cmpPred (s : State) (h : HerdRef) (f : Fields) (types : List Nat) : State :=
  s.issueHerd h f (cmpPredShape types f) (fun x act =>
    let old := x.pred f.dst.toNat
    x.setPred f.dst.toNat act (laneMask (fun l => mergePred (cmpMerge f) (cmpLane f x l) (old.getLsbD l))))

/-- CMPI. -/
def execCmpi (h : HerdRef) (f : Fields) (s : State) : Host.Outcome State Fault Refusal := .next (s.cmpPred h f [0, 1, 2, 3])
/-- CMPF. -/
def execCmpf (h : HerdRef) (f : Fields) (s : State) : Host.Outcome State Fault Refusal := .next (s.cmpPred h f [4, 5])
/-- CMPV: all ones where the condition holds, else 0. -/
def execCmpv (h : HerdRef) (f : Fields) (s : State) : Host.Outcome State Fault Refusal :=
  let sh := cmpShape [0, 1, 2, 3, 4, 5] f
  let d := useD f (typeSpan (fTYPE f))
  .next (s.issueHerd h f { ok := sh.ok && cmpMerge f = 0, src := sh.src, dst := [d] } (fun x act =>
    x.writeLanes d act (fun l => if cmpLane f x l then 2 ^ (32 * d.span) - 1 else 0)))

/-! ## Herd-wide -/

/-- Bits common to every herd-wide function: `XMOD`, `RM`, `SC` and `UC` unused. -/
def wideOk (f : Fields) (types : List Nat) : Bool :=
  !f.form && types.contains (fTYPE f) && fXMOD f = 0 && fRM f = 0 && fSC f = 255 && !fUC f

/-- Legality of `FIRST`, `ANYP` and `ALLP`: `DST` names a predicate, and `SA` one where it is used. -/
def votePredShape (usesSA : Bool) (f : Fields) : Shape :=
  { ok := wideOk f [0] && !fUOP f && !fUA f && !fUB f && unused f.sb && f.dst.toNat < 8
      && (if usesSA then decide (f.sa.toNat < 8) else unused f.sa)
    src := [], dst := [] }

/-- Legality of `LMASK`. -/
def lmaskShape (f : Fields) : Shape :=
  { ok := wideOk f [0] && !fUA f && !fUB f && unused f.sb && f.sa.toNat < 8, src := [], dst := [useD f 1] }

/-- Source a of a herd-wide function; `UOP` concerns only the destination (03 R65). -/
def wideA (f : Fields) : Use := { uni := fUA f, r := f.sa.toNat, span := 1 }
/-- Source b of a herd-wide function. -/
def wideB (f : Fields) : Use := { uni := fUB f, r := f.sb.toNat, span := 1 }

/-- Legality of `LGET`, `LROT`, `LSWZ`. -/
def moveShape (f : Fields) : Shape :=
  { ok := wideOk f [0] && !fUOP f, src := [wideA f, wideB f], dst := [useD f 1] }

/-- Legality of `HSUM`, `HMIN`, `HMAX`. -/
def reduceShape (f : Fields) : Shape :=
  { ok := wideOk f [0, 1] && !fUB f && unused f.sb, src := [wideA f], dst := [useD f 1] }

/-- A vote: one predicate value for every acting lane. -/
def State.vote (s : State) (h : HerdRef) (f : Fields) (p : LaneMask → LaneMask → Bool) : State :=
  s.issueHerd h f (votePredShape true f) (fun x act =>
    x.setPred f.dst.toNat act (if p (x.pred f.sa.toNat) act then BitVec.allOnes 32 else 0))

/-- A value moved between lanes: d = a of lane `src n b`. The source lane need not act. -/
def State.laneMove (s : State) (h : HerdRef) (f : Fields) (src : Nat → Nat → Nat) : State :=
  s.issueHerd h f (moveShape f) (fun x act =>
    x.writeLanes (useD f 1) act (fun l => x.read (wideA f) (src l (x.read (wideB f) l))))

/-- A reduction over the acting lanes, written to every acting lane or to one uniform register. -/
def State.reduce (s : State) (h : HerdRef) (f : Fields) (op : Nat → Nat → Nat → Nat) : State :=
  s.issueHerd h f (reduceShape f) (fun x act =>
    let vs := (laneList act).map (fun l => x.read (wideA f) l)
    let v := vs.tail.foldl (op (fTYPE f)) (vs.headD 0)
    x.writeLanes (useD f 1) act (fun _ => v))

/-- FIRST: true in the lowest acting lane only. -/
def execFirst (h : HerdRef) (f : Fields) (s : State) : Host.Outcome State Fault Refusal :=
  .next (s.issueHerd h f (votePredShape false f) (fun x act => x.setPred f.dst.toNat act (1 <<< lowLane act)))
/-- ANYP. -/
def execAnyp (h : HerdRef) (f : Fields) (s : State) : Host.Outcome State Fault Refusal :=
  .next (s.vote h f (fun p act => p &&& act != 0))
/-- ALLP. -/
def execAllp (h : HerdRef) (f : Fields) (s : State) : Host.Outcome State Fault Refusal :=
  .next (s.vote h f (fun p act => p &&& act = act))
/-- LMASK: the lanes that act and whose predicate is true. -/
def execLmask (h : HerdRef) (f : Fields) (s : State) : Host.Outcome State Fault Refusal :=
  .next (s.issueHerd h f (lmaskShape f) (fun x act =>
    x.writeLanes (useD f 1) act (fun _ => (x.pred f.sa.toNat &&& act).toNat)))
/-- LGET: from lane b mod 32. -/
def execLget (h : HerdRef) (f : Fields) (s : State) : Host.Outcome State Fault Refusal :=
  .next (s.laneMove h f (fun _ b => b % 32))
/-- LROT: from lane (n + b) mod 32. -/
def execLrot (h : HerdRef) (f : Fields) (s : State) : Host.Outcome State Fault Refusal :=
  .next (s.laneMove h f (fun n b => (n + b) % 32))
/-- LSWZ: from lane n XOR (b mod 32). -/
def execLswz (h : HerdRef) (f : Fields) (s : State) : Host.Outcome State Fault Refusal :=
  .next (s.laneMove h f (fun n b => n ^^^ (b % 32)))
/-- HSUM modulo 2^32. -/
def execHsum (h : HerdRef) (f : Fields) (s : State) : Host.Outcome State Fault Refusal :=
  .next (s.reduce h f addElem)
/-- HMIN. -/
def execHmin (h : HerdRef) (f : Fields) (s : State) : Host.Outcome State Fault Refusal :=
  .next (s.reduce h f minElem)
/-- HMAX. -/
def execHmax (h : HerdRef) (f : Fields) (s : State) : Host.Outcome State Fault Refusal :=
  .next (s.reduce h f maxElem)

end Sys2Proof.Machine
end

