-- ==== Sys2Proof/Machine/FabricOps.lean ====
section
/-! DEFINITION. Sending on the fabric: routes, groups, transactions, credits (12 R282, R287 to R294), and breaking a
group (07 R175). -/
namespace Sys2Proof.Machine

/-- Routing entry of a package (12 R287). -/
def State.routeEntry (s : State) (pkg : Nat) : Nat :=
  match s.fx.routes.find? (fun r => r.1 = pkg) with
  | some r => r.2.toNat
  | none => 0

/-- Ports of the live paths to a package, in path order (12 R288). -/
def State.livePaths (s : State) (pkg : Nat) : List Nat :=
  let e := s.routeEntry pkg
  ((List.range 4).filter (fun k => e.testBit (8 * k + 7) && (s.port (bits e (8 * k + 3) (8 * k))).st = .live)).map
    (fun k => bits e (8 * k + 3) (8 * k))

/-- Egress port of a request for local physical address `pa` of a package (12 R288). -/
def State.egress? (s : State) (pkg pa : Nat) : Option Nat :=
  let g := pa / 2 ^ 11
  let f := (g ^^^ (g >>> 8) ^^^ (g >>> 16) ^^^ (g >>> 24)) % 256
  let ps := s.livePaths pkg
  ps[f % ps.length]?

/-- The lowest-numbered group of an instance that has a package as member (12 R292). -/
def State.groupFor (s : State) (inst pkg : Nat) : Option Group :=
  (s.fx.groups.filter (fun g => decide (g.inst = inst) && g.members.any (fun m => m.1 = pkg))).foldl (fun b g =>
    match b with
    | none => some g
    | some x => if g.id < x.id then some g else some x) none

/-- A header with every field zero but its type and destination. -/
def Msg.to (typ dst : Nat) : Msg :=
  { typ := BitVec.ofNat 8 typ, hops := 0, stream := false, cmd := false, srcPkg := 0, srcPort := 0,
    dstPkg := BitVec.ofNat 12 dst, txn := 0, addr := 0, nsect := 0, firstMask := 0, lastMask := 0, deadMask := 0,
    poisonMask := 0, groupId := 0, op := 0, status := 0, bwg := 0, reserved := 0 }

/-- Second slot of a message that carries only a sequence number and a rank (12 R297, R298). -/
def CollHdr.seqRank (seq rank : Nat) : CollHdr :=
  { seq := BitVec.ofNat 32 seq, opcode := 0, dfmt := 0, cfl := 0, root := 0, rank := BitVec.ofNat 16 rank, count := 0,
    offset := 0 }

/-! ## Bytes on the wire (12 R280, R290, R292) -/

/-- Small fields side by side, from bit 0: (value, bits). -/
def packBits (fs : List (Nat × Nat)) : Nat := fs.foldr (fun f acc => f.1 + 2 ^ f.2 * acc) 0

/-- The 32 bytes of a header slot. A response holds its masks where a request holds its address and byte enables. -/
def headerBytes (m : Msg) : List Byte :=
  let response := decide (0x10 ≤ m.typ.toNat) && decide (m.typ.toNat < 0x20)
  [m.typ] ++ leBytes (packBits [(m.hops.toNat, 3), (m.stream.toNat, 1), (m.cmd.toNat, 1)]) 1
    ++ leBytes (packBits [(m.srcPkg.toNat, 12), (m.srcPort.toNat, 4)]) 2 ++ leBytes m.dstPkg.toNat 2 ++ leBytes m.txn.toNat 2
    ++ (if response then leBytes m.deadMask.toNat 8 ++ leBytes m.poisonMask.toNat 8
        else leBytes m.addr.toNat 6 ++ leBytes m.nsect.toNat 2 ++ leBytes m.firstMask.toNat 4 ++ leBytes m.lastMask.toNat 4)
    ++ leBytes m.groupId.toNat 2 ++ [m.op, m.status] ++ leBytes m.bwg.toNat 1 ++ leBytes 0 3

/-- The 32 bytes of the second header slot. -/
def collSlotBytes (h : CollHdr) : List Byte :=
  leBytes h.seq.toNat 4 ++ [h.opcode, h.dfmt, h.cfl, 0] ++ leBytes h.root.toNat 2 ++ leBytes h.rank.toNat 2 ++ leBytes 0 4
    ++ leBytes h.count.toNat 8 ++ leBytes h.offset.toNat 8

/-- Bytes 0 to 263 of a flit. -/
def flitBytes (f : Flit) : List Byte :=
  let r := f.reserved.toNat
  (f.payload ++ List.replicate (256 - f.payload.length) 0).take 256 ++ leBytes f.fseq.toNat 2 ++ leBytes f.ack.toNat 2
    ++ leBytes (packBits [(f.ftype.toNat, 2), (f.nak.toNat, 1), (bits r 4 0, 5)]) 1 ++ leBytes (packBits [(f.pool.toNat, 4), (bits r 8 5, 4)]) 1
    ++ leBytes (packBits [(f.crPool.toNat, 4), (bits r 12 9, 4)]) 1 ++ [f.crCount]

/-- One byte of CRC-64, polynomial of ECMA-182, bit 7 first. -/
def crcByte (c : Word64) (b : Byte) : Word64 :=
  (List.range 8).foldl (fun (c : Word64) _ => if c.msb then (c <<< 1) ^^^ 0x42F0E1EBA9EA3693 else c <<< 1) (c ^^^ (b.setWidth 64 <<< 56))

/-- CRC-64 of bytes, from 0, with nothing inverted (PRESUMED of the polynomial's standard, log 72). -/
def crc64 (bs : List Byte) : Word64 := bs.foldl crcByte 0

/-- A flit's `CRC` agrees with its bytes. -/
def flitIntact (f : Flit) : Bool := f.crc = crc64 (flitBytes f)

/-- Flits that a message takes: one for its header slots, one per eight sectors of data (12 R290). -/
def msgFlits (data : List Byte) : Nat := 1 + cdiv (cdiv data.length 32) 8

/-- Credit pool of a message: 0 management, 1 to 4 requests and 5 to 8 responses by links crossed (12 R282). -/
def msgPool (m : Msg) : Nat :=
  if 0x20 ≤ m.typ.toNat then 0 else if 0x10 ≤ m.typ.toNat then 5 + m.hops.toNat else 1 + m.hops.toNat

/-- Flits sent and not yet acknowledged (12 R281). -/
def Port.unacked (p : Port) : Nat := (p.txNext - p.lastAck).toNat

/-- A port can take a message now: credits of its pool and room in the replay buffer, and no message of that pool waits (12 R281, R282). -/
def Port.canSend (p : Port) (m : Msg) (data : List Byte) : Bool :=
  !p.retraining && decide (msgFlits data ≤ p.credits.getD (msgPool m) 0) && decide (p.unacked + msgFlits data ≤ 4096)
    && p.outq.all (fun o => decide (msgPool o.m ≠ msgPool m))

/-- The pool whose credits the next flit returns, and how many (12 R280, R282). -/
def Port.returns (p : Port) : Nat × Nat :=
  match (List.range 9).find? (fun k => p.owed.getD k 0 != 0) with
  | some k => (k, min 255 (p.owed.getD k 0))
  | none => (0, 0)

/-- The next flit of a port (12 R280). -/
def Port.link (p : Port) (ftype pool : Nat) (payload : List Byte) : Flit :=
  let f : Flit :=
    { payload := payload, fseq := p.txNext, ack := p.rxNext - 1, ftype := BitVec.ofNat 2 ftype, nak := false, pool := BitVec.ofNat 4 pool,
      crPool := BitVec.ofNat 4 p.returns.1, crCount := BitVec.ofNat 8 p.returns.2, reserved := 0, crc := 0 }
  { f with crc := crc64 (flitBytes f) }

/-- A NAK: a control flit that asks for replay (12 R281). -/
def Port.nakFlit (p : Port) : Flit :=
  let f := { p.link 0 0 [] with nak := true, crc := 0 }
  { f with crc := crc64 (flitBytes f) }

/-- `n` flits leave a port: they take sequence numbers, and the first returns credits. -/
def Port.sent (p : Port) (n : Nat) : Port :=
  { p with owed := updAt p.owed p.returns.1 (fun k => k - p.returns.2), txNext := p.txNext + BitVec.ofNat 16 n }

/-- A port with nothing to send sends a control flit, so that `ACK` and credits flow (12 R280); it takes no credit. -/
def State.controlFlit (s : State) (port : Nat) : State :=
  let p := s.port port
  if p.retraining || 4096 ≤ p.unacked || p.st = .down then s
  else (s.updPort port (fun p => p.sent 1)).emit (.control port (p.link 0 0 []))

/-- Flits leave a receiver's buffers: their credits are returned (12 R282). -/
def State.freeRx (s : State) (port pool n : Nat) : State :=
  let k := min n ((s.port port).rx.getD pool 0)
  if k = 0 then s
  else (s.updPort port (fun p => { p with rx := updAt p.rx pool (fun x => x - k), owed := updAt p.owed pool (fun x => x + k) })).controlFlit port

/-- A message leaves a port: its flits take credits and sequence numbers. -/
def State.sendNow (s : State) (port : Nat) (o : OutMsg) : State :=
  let n := msgFlits o.data
  let link := (s.port port).link 1 (msgPool o.m) (headerBytes o.m ++ o.coll.elim [] collSlotBytes)
  let s := (s.updPort port (fun p => { p.sent n with credits := updAt p.credits (msgPool o.m) (fun k => k - n) })).emit
    (.fabric port link o.m o.coll o.data)
  match o.back with
  | some (q, pool, k) => s.freeRx q pool k
  | none => s

/-- Put a message on a port, or, where the port cannot take it now, behind those that wait there. -/
def State.putOut (s : State) (port : Nat) (o : OutMsg) : State :=
  if (s.port port).canSend o.m o.data then s.sendNow port o else s.updPort port (fun p => { p with outq := p.outq ++ [o] })

/-- Put a message of this module on a port: its flits are the instance's whose group it carries (10 R258). -/
def State.putMsg (s : State) (port : Nat) (m : Msg) (c : Option CollHdr) (data : List Byte) : State :=
  let inst := (s.fx.groups.find? (fun g => g.id = m.groupId.toNat)).map (fun g => g.inst)
  (s.countEvent inst 7 (96 + dieOfPort port) (msgFlits data)).putOut port { m := m, coll := c, data := data, back := none }

/-- Send the messages that wait at a port and can leave now, each pool in order. -/
def State.drainOut (s : State) (port : Nat) : State :=
  (s.port port).outq.foldl (fun s o => s.putOut port o) (s.updPort port (fun p => { p with outq := [] }))

/-- Transactions outstanding on a port. -/
def State.portTxns (s : State) (port : Nat) : List Txn := s.fx.txns.filter (fun t => t.port = port)

/-- The first of 16,384 numbers, from `start` on, that is not in use. -/
def freeNumber (used : List Nat) (start : Nat) : Option Nat :=
  if 16384 ≤ used.length then none
  else ((List.range (used.length + 1)).map (fun k => (start + k) % 16384)).find? (fun n => !used.contains n)

/-- A transaction number that is free on a port, from the one after the last used (12 R293); where there is one, a number that no transaction
of any port has, else one that no transaction with the package has, so that an answer names its transaction (log 22). -/
def State.freeTxn (s : State) (port dst : Nat) : Option Nat :=
  let used := (s.portTxns port).map (fun t => t.num)
  let start := (s.port port).txnNext
  let avoid := fun (p : Txn → Bool) => freeNumber ((s.fx.txns.filter p).map (fun t => t.num)).dedup start
  if 16384 ≤ used.length then none
  else match avoid (fun t => t.port < 16) with
    | some n => some n
    | none => match avoid (fun t => t.port = port || (t.port < 16 && t.dst = dst)) with
      | some n => some n
      | none => freeNumber used start

/-- What became of a request for another module. -/
inductive Sent where
  | ok (s : State)
  | noRoute
  | noGroup
  | wait

/-- A request on a path to the package that is no longer selected for its granule has not been accepted yet: new ones wait (08
R185). -/
def State.pathChanging (s : State) (pkg : Nat) : Bool :=
  s.fx.txns.any (fun t => t.port < 16 && t.dst = pkg && s.egress? pkg t.addr != some t.port)

/-- Send a request of a group by a port: a transaction is recorded for its response (12 R290, R293). -/
def State.requestVia (s : State) (port gid bwg : Nat) (owner : TxnOwner) (m : Msg) (c : Option CollHdr)
    (data : List Byte) : Sent :=
  match s.freeTxn port m.dstPkg.toNat with
  | none => .wait
  | some t =>
    let m := { m with srcPkg := s.fx.pkgId, srcPort := BitVec.ofNat 4 port, txn := BitVec.ofNat 14 t,
                      groupId := BitVec.ofNat 12 gid, bwg := BitVec.ofNat 6 bwg }
    if !(s.port port).canSend m data || s.pathChanging m.dstPkg.toNat then .wait
    else
      let s := s.putMsg port m c data
      let s := s.updPort port (fun p => { p with txnNext := (t + 1) % 16384 })
      let tx : Txn := { port := port, num := t, owner := owner, dst := m.dstPkg.toNat, addr := m.addr.toNat, since := s.time,
                        first := s.time, resendAt := none }
      .ok { s with fx := { s.fx with txns := s.fx.txns ++ [tx] } }

/-- Send a request of an instance to a physical address of another module (12 R288, R292). -/
def State.request (s : State) (inst : Nat) (owner : TxnOwner) (pa : Nat) (m : Msg) (data : List Byte) : Sent :=
  match s.egress? (paPkg pa) (paLocal pa) with
  | none => .noRoute
  | some p =>
    match s.groupFor inst (paPkg pa) with
    | none => .noGroup
    | some g => s.requestVia p g.id ((s.inst? inst).elim 0 (fun i => i.bwg)) owner
        { m with dstPkg := BitVec.ofNat 12 (paPkg pa), addr := BitVec.ofNat 48 (paLocal pa / 32 * 32) } none data

/-- Answer a message by the port it came on (log 22): same transaction, destination its source. A link that has been lost carries
nothing. -/
def State.respond (s : State) (port : Nat) (req : Msg) (m : Msg) (data : List Byte) : State :=
  if (s.port port).st = .down then s
  else
    let r := { m with srcPkg := s.fx.pkgId, srcPort := BitVec.ofNat 4 port, dstPkg := req.srcPkg, txn := req.txn, groupId := req.groupId }
    s.putMsg port r none data

/-- Refuse a request with a reason code (12 R294). -/
def State.nackMsg (s : State) (port : Nat) (req : Msg) (reason : Nat) : State :=
  s.respond port req { Msg.to 0x12 0 with status := BitVec.ofNat 8 reason } []

/-- Accept a write-like request. -/
def State.ackMsg (s : State) (port : Nat) (req : Msg) : State := s.respond port req (Msg.to 0x11 0) []

/-- Forget a transaction. -/
def State.endTxn (s : State) (port num : Nat) : State :=
  { s with fx := { s.fx with txns := s.fx.txns.filter (fun t => !(t.port = port && t.num = num)) } }

/-- The instance whose access a transaction is. -/
def State.ownerInst (s : State) (o : TxnOwner) : Option Nat :=
  let of := fun (cid : Nat) => (s.cmd? cid).bind (fun c => match c.q with
    | .tenant i _ => some i
    | .admin => none)
  match o with
  | .herd rid => (s.reqs.find? (fun (x : Req) => x.rid = rid)).map (fun x => x.inst)
  | .cmd cid => of cid
  | .dma cid _ => of cid
  | .coll cid _ _ => of cid
  | .ring (.tenant i _) => some i
  | .gone i _ => i
  | _ => none

/-- What a contribution counts against: the region of its engine, the owner's engine, its bytes (12 R292). -/
def State.ownerSent (s : State) (dst : Nat) : TxnOwner → Option (Nat × (Nat × Nat) × Nat)
  | .coll cid _ d => (s.fx.groups.find? (fun g => g.coll.elim false (fun k => k.cid = cid))).bind (fun g =>
      (g.members.find? (fun m => m.1 = dst)).map (fun m => ((g.members.getD g.rank (0, 0)).2, m, d.length)))
  | .gone _ x => x
  | _ => none

/-- Transactions of something that has ended: those not sent again are forgotten, the others wait for their answers for nobody, so that a
change of path, an invalidation and the limit on contributions still wait for them (08 R185, 12 R292, 13 R316). -/
def State.orphanTxns (s : State) (mine : TxnOwner → Bool) : State :=
  { s with fx := { s.fx with txns := (s.fx.txns.filter (fun t => !(mine t.owner && t.resendAt.isSome))).map (fun t =>
      if mine t.owner then { t with owner := .gone (s.ownerInst t.owner) (s.ownerSent t.dst t.owner) } else t) } }

/-- A transaction belongs to a command. -/
def TxnOwner.ofCmd (cid : Nat) : TxnOwner → Bool
  | .coll c _ _ => decide (c = cid)
  | .cmd c => decide (c = cid)
  | .dma c _ => decide (c = cid)
  | _ => false

/-- A transaction reads for a command. -/
def TxnOwner.readOf (cid : Nat) : TxnOwner → Bool
  | .dma c _ => decide (c = cid)
  | _ => false

/-- Change a group. -/
def State.updGroup (s : State) (gid : Nat) (f : Group → Group) : State :=
  { s with fx := { s.fx with groups := updWhere (fun g => decide (g.id = gid)) f s.fx.groups } }

/-- A group. -/
def State.group? (s : State) (gid : Nat) : Option Group := s.fx.groups.find? (fun g => g.id = gid)

/-- A management message to every other member of a group; where no path is live it is discarded (12 R297, R298). -/
def State.toMembers (s : State) (g : Group) (typ seq status : Nat) : State :=
  g.members.foldl (fun s m =>
    if m.1 = s.fx.pkgId.toNat then s
    else match s.egress? m.1 0 with
      | none => s
      | some p => s.putMsg p { Msg.to typ m.1 with srcPkg := s.fx.pkgId, srcPort := BitVec.ofNat 4 p, status := BitVec.ofNat 8 status,
                                                   groupId := BitVec.ofNat 12 g.id } (some (CollHdr.seqRank seq g.rank)) []) s

/-- Break a group: the first member to blame stays named, held contributions are dropped (07 R175). -/
def State.breakGroup (s : State) (gid member : Nat) : State :=
  s.updGroup gid (fun g => { g with broken := some (g.broken.getD member), coll := none, held := [] })

/-- Bytes of an element of a line format: FP32, BF16, FP16, INT32, INT64. -/
def fmtBytes (f : Nat) : Nat := if f = 4 then 8 else if f = 1 || f = 2 then 2 else 4

/-! ## Collectives: their shapes (07 R164, R165) and their early ends (07 R175) -/

/-- `DFMT`, `COUNT`, `SRC`, `DST`, and whether `DETERMINISTIC` is set. -/
def Cmd.dfmt (c : Cmd) : Nat := c.byte 18
/-- `COUNT`. -/
def Cmd.count (c : Cmd) : Nat := c.field 24 8
/-- `DETERMINISTIC`. -/
def Cmd.det (c : Cmd) : Bool := bit (c.byte 19) 0
/-- Bytes of `COUNT` elements. -/
def Cmd.collBytes (c : Cmd) : Nat := c.count * fmtBytes c.dfmt
/-- A reduction, as against a copy. -/
def Cmd.reduces (c : Cmd) : Bool := c.opcode = 0x20 || c.opcode = 0x21
/-- A reduction that stages its contributions (R170): of floating elements, among several members. -/
def Cmd.stages (c : Cmd) (g : Nat) : Bool := c.reduces && c.det && c.dfmt ≤ 2 && 1 < g

/-- Shard size S (07 R165). -/
def shardSize (n g : Nat) : Nat := cdiv n (g * 256) * 256
/-- Bytes of shard i. -/
def shardLen (n g i : Nat) : Nat := min ((i + 1) * shardSize n g) n - min (i * shardSize n g) n

/-- Bytes that a rank reads from its `SRC`. -/
def Cmd.srcLen (c : Cmd) (rank : Nat) : Nat := if c.opcode = 0x24 || (c.opcode = 0x23 && rank != c.field 20 2) then 0 else c.collBytes

/-- Bytes of a rank's `DST`. -/
def Cmd.dstLen (c : Cmd) (g rank : Nat) : Nat :=
  if c.opcode = 0x21 then shardLen c.collBytes g rank
  else if c.opcode = 0x22 then g * c.collBytes
  else if c.opcode = 0x24 then 0
  else c.collBytes

/-- The bytes of a range on this module become free (log 7), as its context sees them or, where a peer wrote them, on the ordinary line (07
R179). -/
def State.scramble (s : State) (x : CtxRef) (since va len : Nat) (own : Bool) : State :=
  (splitRange va len).foldl (fun s p => match s.translate x.inst .write p.1 since with
    | .device pa _ =>
      if s.isLocal pa then
        let f := s.freeBytes p.2
        if own then f.2.ctxWrite x (paLocal pa) f.1 else f.2.homeWrite (some x.inst) (paLocal pa) 0 f.1
      else s
    | _ => s) s

/-- Offset in a rank's result at which its own shard begins: `DST` + 0 for a reduce-scatter (07 R165). -/
def Cmd.shardBase (c : Cmd) (g rank : Nat) : Nat := if c.opcode = 0x21 then 0 else rank * shardSize c.collBytes g

/-- An offset of a result belongs to the shard of the rank. -/
def Cmd.inShard (c : Cmd) (g rank off : Nat) : Bool :=
  c.reduces && decide (c.shardBase g rank ≤ off) && decide (off < c.shardBase g rank + shardLen c.collBytes g rank)

/-- Offsets of the 32-byte pieces of `n` bytes from `off`. -/
def pieceOffs (off n : Nat) : List Nat := (List.range (cdiv n 32)).map (fun i => off + 32 * i)

/-- Pieces of its `DST` that a collective has written, as (offset, written for this rank itself): the pieces that it has received, but its own where
`SRC` is `DST` and those that it has staged; and, where it stages, the final lines. -/
def Cmd.wrote (c : Cmd) (g : Group) (k : Coll) : List (Nat × Bool) :=
  let n := g.members.length
  let got := k.got.filter (fun p => !(c.field 32 8 = c.field 40 8 && p.2 = g.rank) && !(c.stages n && c.inShard n g.rank p.1))
  let finals := if c.stages n then k.finals.flatMap (fun o => pieceOffs o (min 256 (c.dstLen n g.rank - o))) else []
  (got.map (fun p => (p.1, decide (p.2 = g.rank))) ++ finals.map (fun o => (o, true))).dedup

/-- What the collective in progress on a group has written of its `DST` is an unspecified mixture (07 R175). What it has not sent yet is never
written (08 R197). -/
def State.scrambleDst (s : State) (g : Group) (k : Coll) : State :=
  match s.cmd? k.cid with
  | none => s
  | some c => match s.qCtx c.q with
    | some x =>
      let waits := fun (va : Nat) => c.out.any (fun p => p.1 / 32 = va / 32)
      (c.wrote g k).foldl (fun s p =>
        let va := c.field 40 8 + p.1
        if waits va then s else s.scramble x c.since va (min 32 (c.dstLen g.members.length g.rank - p.1)) p.2) s
    | none => s

/-- The collective in progress on a group ends early, if there is one: its command completes, and the group breaks (07 R175). -/
def State.dropColl (s : State) (gid blame : Nat) (st : Status) (detail : Nat) : State :=
  match s.group? gid with
  | none => s
  | some g =>
    match g.coll with
    | none => s.breakGroup gid blame
    | some c =>
      let s := (s.scrambleDst g c).updCmd c.cid (fun d => { d with todo := [], out := [], parts := [] })
      ((s.endCmd c.cid st detail).orphanTxns (TxnOwner.ofCmd c.cid)).breakGroup gid blame

/-- A collective of this module cannot finish: it ends, and the other members are told (07 R175, 12 R298). -/
def State.failColl (s : State) (gid blame : Nat) (st : Status) (detail : Nat) : State :=
  let t := s.dropColl gid blame st detail
  match s.group? gid with
  | none => t
  | some g => match g.coll with
    | none => t
    | some c => t.toMembers g 0x22 c.seq st.code

end Sys2Proof.Machine
end

