-- ==== Sys2Proof/Machine/Kill.lean ====
section
/-! DEFINITION. Context kill, slot wipe and epoch end (02 R55, 07 R178 to R181), core errors and core fencing (16 R370,
R376, R377), and a TDI in error (13 R320). -/
namespace Sys2Proof.Machine

/-! ## Epochs -/

/-- Change an epoch. -/
def State.updEpoch (s : State) (c : CtxRef) (n : Nat) (f : Epoch → Epoch) : State :=
  s.updCtx c (fun x => { x with epochs := updWhere (fun e => decide (e.num = n)) f x.epochs })

/-- Discard an epoch's shadow lines: it is `CLOSED` (07 R178). -/
def State.closeEpoch (s : State) (c : CtxRef) (n : Nat) : State :=
  s.updEpoch c n (fun e => { e with st := .closed, shadow := [], touched := [], poison := [], lines := [], ranges := [], keep := [] })

/-- Publish the touched sectors within the kept bytes of their ranges, then close (07 R180). -/
def State.publishEpoch (s : State) (c : CtxRef) (e : Epoch) : State :=
  let s := s.closeEpoch c e.num
  e.lines.foldl (fun s l => (List.range 8).foldl (fun s k =>
    let sec := l.2.2 * 8 + k
    if e.touched.contains sec && l.2.1 + 32 * k < e.keep.getD l.1 0 then
      (if e.poison.contains sec then s.markPoison sec
       else s.homeWrite (some c.inst) (sec * 32) 0 (readBytes e.shadow (sec * 32) 32))
    else s) s) s

/-- Epochs of a context. -/
def State.epochsOf (s : State) (c : CtxRef) : List Epoch := (s.ctx? c).elim [] (fun x => x.epochs)

/-- End every epoch of a context: one that commits finishes, any other is discarded (07 R178). -/
def State.endEpochs (s : State) (c : CtxRef) : State :=
  (s.epochsOf c).foldl (fun s e => match e.st with
    | .closed => s
    | .committing => s.publishEpoch c e
    | _ => s.closeEpoch c e.num) s

/-! ## Slots -/

/-- Every slot bound to a context. -/
def State.boundSlots (s : State) (c : CtxRef) : List SlotRef :=
  (List.range 64).flatMap (fun k => ((s.core k).slots.filter (fun x => x.inst = c.inst && x.ctx = some c.ctx)).map
    (fun x => SlotRef.mk k x.num))

/-- Replay slots that a half uses. -/
def State.replayUsed (s : State) (r : Nat) : Nat := (s.replay.filter (fun p => s.homeRegion (p.line * 256) = r)).length

/-- Targets of a fill that are blocked: they still wait and hold no landing line (06 R144). -/
def State.blockedOf (s : State) (p : Replay) : List Nat := p.targets.filter (fun k => s.reqs.any (fun x => x.rid = k && x.stream && !x.credited))

/-- A fill leaves its home; its blocked targets take a replay slot. -/
def State.fillLeaves (s : State) (p : Replay) : State :=
  match s.blockedOf p with
  | [] => s
  | ts => { s with replay := s.replay ++ [{ p with targets := ts }] }

/-- Fills that hold for want of a slot leave in order as far as they go: one without a blocked target needs none (06 R145). -/
def State.fillsLeave (s : State) : List Replay → State
  | [] => s
  | p :: rest =>
    if (s.blockedOf p).isEmpty || s.replayUsed (s.homeRegion (p.line * 256)) < 64 then ({ s with fillHold := s.fillHold.erase p }.fillLeaves p).fillsLeave rest
    else s.fillsLeave rest

/-- Replay slots keep only blocked targets that still wait; a slot without one is free (06 R144), and a fill that held for it leaves (R145). A
request that is gone leaves its bank's queue. -/
def State.trimReplay (s : State) : State :=
  let s := { s with replay := (s.replay.map (fun (p : Replay) => { p with targets := s.blockedOf p })).filter (fun p => !p.targets.isEmpty)
                    fillHold := s.fillHold.map (fun (p : Replay) => { p with targets := p.targets.filter (fun k => s.reqs.any (fun x => x.rid = k)) })
                    bankq := s.bankq.filter (fun k => s.reqs.any (fun x => x.rid = k)) }
  s.fillsLeave s.fillHold

/-- Loads whose miss register has lost its request send their own (06 R141). -/
def requeue (gone : Nat → Bool) (xs : List Req) : List Req :=
  xs.map (fun (y : Req) => match y.phase with
    | .joined k => if gone k then { y with phase := .queued } else y
    | _ => y)

/-- Landing lines whose data waits in the operations of a slot (06 R144). -/
def Slot.landed (x : Slot) : Nat := (x.mxq.map (fun o => o.lands.length)).sum

/-- The operations of a slot lose what they have fetched. -/
def Slot.unland (x : Slot) : Slot := { x with mxq := x.mxq.map (fun o => { o with reads := [], lands := [] }) }

/-- Requests of a slot's herds: loads are dropped, what has been sent to a home stays and completes for nobody (02 R55 step
4). Landing lines return, blocked deliveries are dropped (06 R145), and a held address pipeline is free. -/
def State.dropReqs (s : State) (r : SlotRef) : State :=
  let mine := fun (x : Req) => x.core = r.core && x.slot = r.slot
  let isRead := fun (x : Req) => match x.kind with
    | .read => true
    | .operand _ => true
    | .fetch => true
    | _ => false
  let back := (s.reqs.filter (fun x => mine x && isRead x && x.credited)).length + (s.slot? r).elim 0 Slot.landed
  let herds := ((s.core r.core).herds.filter (fun h => h.slot = r.slot)).map (fun h => h.pos)
  let s := (s.updCore r.core (fun c => { c with landing := min 1536 (c.landing + back) })).freePipes r.core (fun p => herds.contains p)
  let s := s.updSlot r Slot.unland
  let lost := (s.reqs.filter (fun x => mine x && isRead x)).map (fun x => x.rid)
  let hostReads := s.reqs.filter (fun x => mine x && isRead x && x.target = .host)
  let open_ : List Txn := hostReads.map (fun x =>
    { port := 16, num := x.rid, owner := .gone (some x.inst) none, dst := 0, addr := (x.lanes.head?).elim (x.line * 256) (fun l => l.pa),
      since := s.time, first := s.time, resendAt := none })
  let s := { s with fx := { s.fx with txns := s.fx.txns ++ open_ } }
  ({ s with reqs := requeue (fun k => lost.contains k) ((s.reqs.filter (fun x => !(mine x && isRead x))).map (fun x =>
      if mine x then { x with pos := 128, slot := 64, dst := 255, acquire := false } else x)) }).trimReplay

/-- The wipe of a slot: registers, private ways, tagged L1 lines, matrix queue; it returns to `IDLE` (02 R55 step 5). -/
def Slot.wiped (x : Slot) : Slot :=
  { x with st := .idle, ctx := none, lastCtx := none, scratch := [], l1 := [], kernel := none, mxq := [],
           barriers := List.replicate 16 0 }

/-- Wipe a slot and end its herds. -/
def State.wipeSlot (s : State) (r : SlotRef) : State :=
  let s := s.dropReqs r
  let s := s.updSlot r Slot.wiped
  s.updCore r.core (fun c => { c with herds := c.herds.filter (fun h => h.slot != r.slot) })

/-! ## Context kill (02 R55) -/

/-- Begun commands of the queues of a context that have not ended. -/
def State.ctxCmds (s : State) (c : CtxRef) : List Cmd :=
  s.cmds.filter (fun x => decide (s.qCtx x.q = some c) && (match x.phase with
    | .ended _ _ => false
    | _ => true))

/-- Steps 1 to 4: issue has stopped, bound slots are in `KILLING`, queued matrix operations are discarded, loads are dropped, open
epochs abort, and a collective of the context breaks its group, on its own module too (07 R175, log 60). -/
def State.killCtx (s : State) (c : CtxRef) : State :=
  match s.ctx? c with
  | none => s
  | some x =>
    if x.st != 3 || x.stopped then s
    else
      let abort := fun (e : Epoch) => if e.st = .opened then { e with st := .aborting } else e
      let s := s.updCtx c (fun x => { x with stopped := true, epochs := x.epochs.map abort })
      let s := s.countReset 13
      let s := (s.boundSlots c).foldl (fun s r => (s.dropReqs r).updSlot r (fun y => { y with st := .killing, mxq := [] })) s
      (s.fx.groups.filter (fun g => match g.coll with
        | some k => (s.ctxCmds c).any (fun d => d.cid = k.cid)
        | none => false)).foldl (fun s g => s.failColl g.id s.fx.pkgId.toNat .contextFaulted x.cause.toNat) s

/-- MSI-X vectors of the queues of a context, each once. -/
def State.ctxVectors (s : State) (c : CtxRef) : List Nat :=
  match s.inst? c.inst with
  | none => []
  | some i => ((i.queues.filter (fun q => q.ctx = c.ctx)).map (fun q => q.vector)).dedup

/-- Steps 5 and 6: the slots are wiped, the context is dead, its queues are faulted, its commands complete with
`CONTEXT_FAULTED`, the manager receives the event and the tenant its vector. -/
def State.killComplete (s : State) (c : CtxRef) : State :=
  match s.ctx? c with
  | none => s
  | some x =>
    if x.st != 3 || !x.stopped then s
    else
      let s := (s.boundSlots c).foldl (fun s r => s.wipeSlot r) s
      let s := s.endEpochs c
      let s := s.updCtx c (fun x => { x with st := 4, stopped := false })
      let cids := (s.ctxCmds c).map (fun d => d.cid)
      let ended := (s.cmds.filter (fun d => decide (s.qCtx d.q = some c))).map (fun d => d.cid)
      let faulted := fun (q : Queue) =>
        if q.ctx = c.ctx && q.st != .resetting && q.st != .ringFault then { q with st := .faulted } else q
      let s := s.updInst c.inst (fun i => { i with kills := satInc i.kills 1, queues := i.queues.map faulted })
      let s := cids.foldl (fun s k => s.endCmd k .contextFaulted x.cause.toNat) s
      let s := ended.foldl (fun s k => s.finishCmd k) s
      let s := s.event 0x01 (c.inst + c.ctx * 2 ^ 12 + x.cause.toNat * 2 ^ 18)
      (s.ctxVectors c).foldl (fun s v => s.msix (c.inst + 1) v) s

/-- A fault that no instruction of a herd raised. Where the spec states no core, herd or program counter for it, the field holds a
free value (02 R57, log 7). -/
def State.bareFault (s : State) (c : CtxRef) (cause : Cause) (core : Option Nat) : State :=
  let k := s.free
  let h := k.2.free
  let p := h.2.free
  p.2.ctxFault c { cause := cause, core := core.getD k.1, herd := h.1, lane := none, pc := p.1, addr := 0 }

/-- A whole kill, from its cause to its end, for the events that contain one (13 R320, 14 R325, 16 R377). -/
def State.killWhole (s : State) (c : CtxRef) (cause : Cause) (core : Option Nat) : State :=
  ((s.bareFault c cause core).killCtx c).killComplete c

/-! ## TDI error (13 R320) -/

/-- Quiesce an instance's queues (09 R211). -/
def Inst.quiesceQueues (i : Inst) : Inst :=
  { i with queues := updWhere (fun q => q.st = .running || q.st = .halted) (fun q => { q with st := .quiesced }) i.queues }

/-- A TDI in `CONFIG_LOCKED` or `RUN` enters `ERROR`: its instance's queues are quiesced. -/
def State.tdiError (s : State) (inst : Nat) : State :=
  match s.inst? inst with
  | none => s
  | some i =>
    if i.tdi = .locked || i.tdi = .run then
      (s.updInst inst (fun i => { i.quiesceQueues with tdi := .error })).emit (.tdispState (inst + 1) 3)
    else s

/-! ## Core fencing (16 R376, R377) -/

/-- Instances that hold a slot on a core. -/
def State.instsOn (s : State) (core : Nat) : List Nat := ((s.core core).slots.map (fun x => x.inst)).dedup

/-- A `LAUNCH` that waits for residency on a fenced core: it ends with `CORE_FENCED` where no herd has started; else its context is killed (09
R223). The slots that it had taken, which ran no herd of it, are left `BOUND` to its context, whoever held them before (DESIGN CHOICE, log 84: the
spec names no transition for them). -/
def State.fenceLaunch (s : State) (core : Nat) (d : Cmd) : State :=
  if d.opcode = 0x10 && d.cores.contains core && d.phase = .active then
    if d.herdRan then
      match s.qCtx d.q with
      | some c => s.killWhole c .coreFenced (some core)
      | none => s
    else
      let free := fun (x : Slot) => if x.kernel.elim false (fun k => k.cid = d.cid) then { x with st := .bound, kernel := none } else x
      let s := d.took.foldl (fun s r => s.updSlot r free) s
      (s.endCmd d.cid .coreFenced core).finishCmd d.cid
  else s

/-- An instance with a slot on a core is being reset, and its slots are not wiped yet. -/
def State.resetOn (s : State) (core : Nat) : Bool :=
  (s.instsOn core).any (fun i => (s.inst? i).elim false (fun x => x.st = .resetting || x.st = .destroying))

/-- Fence a core: every context with a slot on it is killed, the core is held in `CORE` reset, the fence is recorded and
reported, and flash keeps it. A core already fenced stays as it is. -/
def State.fenceNow (s : State) (core cause : Nat) : State :=
  if s.coreFenced core || !s.coreEnabled core then s
  else
    let s := (s.instsOn core).foldl (fun s i => s.tdiError i) s
    let ctxs := (((s.core core).slots.filterMap (fun x => x.ctx.map (fun c => CtxRef.mk x.inst c)))).dedup
    let s := ctxs.foldl (fun s c => s.killWhole c .coreFenced (some core)) s
    let s := s.cmds.foldl (fun s d => s.fenceLaunch core d) s
    let s := s.countReset 11
    let s := s.updCore core (fun c => { Core.reset with held := true, slots := c.slots.map Slot.wiped, arrNext := c.arrNext, sbNext := c.sbNext, arrIdleSince := c.arrIdleSince, ues := c.ues })
    let b : Word64 := 1 <<< core
    let s := { s with health := { s.health with fenced := s.health.fenced ||| b, causes := (core, cause) :: s.health.causes }
                      flash := { s.flash with fenceList := s.flash.fenceList ||| b } }
    let s := s.event 0x03 (core + cause * 2 ^ 8 + (s.core core).slots.length * 2 ^ 16)
    s.error 0x0A 2 core cause

/-- A fence is asserted: a context kill that runs on the core is completed by it, and it waits for an instance reset to reach the slot wipe (R377). -/
def State.fenceCore (s : State) (core cause : Nat) : State :=
  if s.coreFenced core || !s.coreEnabled core || s.health.fenceWait.any (fun f => f.1 = core) then s
  else if s.resetOn core then { s with health := { s.health with fenceWait := s.health.fenceWait ++ [(core, cause)] } }
  else s.fenceNow core cause

/-- Fences that waited for an instance reset and need to wait no longer. -/
def State.runFences (s : State) : State :=
  s.health.fenceWait.foldl (fun s f =>
    if s.resetOn f.1 then s
    else { s with health := { s.health with fenceWait := s.health.fenceWait.erase f } }.fenceNow f.1 f.2) s

/-- 24 hours in ns. -/
def dayNs : Nat := 86400000000000

/-- An uncorrectable error of a core's memory (class 0x02): recorded; the second within 24 h fences the core (16 R373, R376). -/
def State.coreUe (s : State) (core memory inst : Nat) : State :=
  let s := s.error 0x02 1 core (memory + inst * 2 ^ 4)
  let s := s.updCore core (fun c => { c with ues := s.time :: c.ues.filter (fun t => decide (s.time < t + dayNs)) })
  if 2 ≤ (s.core core).ues.length then s.fenceCore core 1 else s

/-- A corrected error of a core's memory (class 0x01). -/
def State.coreCe (s : State) (core memory : Nat) : State := s.error 0x01 0 core memory

end Sys2Proof.Machine
end

