-- ==== Sys2Proof/Machine/Control.lean ====
section
/-! DEFINITION. Instruction fetch (03 R61), branch and control class (03 R84, R85), synchronisation class (03 R86 to
R88), and the points that accesses reach by scope (08 R183). -/
namespace Sys2Proof.Machine

/-! ## Fetch -/

/-- A herd takes a fetched word: a reserved class or an unlisted function with an acting lane is `ILLEGAL_INSTR`, without
one it has no effect; any other word is the herd's next instruction. -/
def State.takeWord (s : State) (r : HerdRef) (h : Herd) (w : Word64) : State :=
  match decodeWord r w with
  | some _ => (s.updHerd r (fun x => { x with fetched := some w })).countEvent (some h.inst) 4 r.core 1
  | none =>
    let act := h.acting (wordFields w)
    if act = 0 then s.updHerd r Herd.next else s.herdFault r h .illegalInstr (lowLane act) 0

/-- Place in `State.hist` of the start of the kernel on a slot (01 R29, 03 R61). -/
def State.kernelSince (s : State) (core slot : Nat) : Nat :=
  ((s.slot? { core := core, slot := slot }).bind (fun x => x.kernel)).elim s.histSeq (fun k => k.since)

/-- A herd's translation of an address, which sees a table entry as its running kernel may. -/
def State.herdXlat (s : State) (r : HerdRef) (h : Herd) (want : Want) (va : Nat) : Xlat :=
  s.translate h.inst want va (s.kernelSince r.core h.slot)

/-- A request for an instruction word that lies outside this module. -/
def fetchReq (rid : Nat) (r : HerdRef) (h : Herd) (t : Target) (a : Nat) : Req :=
  { rid := rid, op := rid, core := r.core, slot := h.slot, pos := r.pos, herd := r.pos, inst := h.inst, ctx := h.ctx, kind := .fetch, target := t, drop := 0,
    line := a / 256, lanes := [{ lane := lowLane h.active, va := h.pc.toNat, pa := a, size := 8, data := 0, cmp := 0 }],
    dst := 255, udst := false, sx := false, stream := false, credited := false, last := false, scope := 0, acquire := false,
    pc := h.pc, phase := .queued }

/-- What a herd's translation must wait for is asked for: a host translation, or a line of a table. -/
def State.askXlat (s : State) (inst : Nat) : Xlat → State
  | .needAts p => s.emit (.atsRequest inst p)
  | .needLine l => s.fetchLine l 0 (some inst) false
  | _ => s

/-- The word that a fetch returns: the one there now, or with `stale` one that the place has held while the kernel ran, whole (03 R61). -/
def State.fetchWord (s : State) (r : HerdRef) (h : Herd) (stale : Bool) (a : Nat) : Word64 :=
  BitVec.ofNat 64 (if stale then s.wordSince (s.kernelSince r.core h.slot) a 0 else leNat (s.homeBytes a 8))

/-- INSTRUCTION_FETCH: the next word through the page tables, with execute permission; `stale` lets an older word be returned where the
kernel's memory has held one. A word that HBM, another module or the host holds is requested and arrives later. -/
def execInstructionFetch (r : HerdRef) (stale : Bool) (s : State) : Host.Outcome State Fault Refusal :=
  .next (match s.issuing? r with
  | none => s
  | some h =>
    let low := lowLane h.active
    if h.fetched.isSome || (s.herdReqs r).any (fun q => q.kind = .fetch) then s
    else match s.herdXlat r h .fetch h.pc.toNat with
      | .device pa _ =>
        let s := s.newChoice
        if !s.isLocal pa then
          let (rid, s1) := s.fresh
          match s1.request h.inst (.herd rid) pa { Msg.to 1 0 with nsect := 1 } [] with
          | .ok s2 => { s2 with reqs := s2.reqs ++ [fetchReq rid r h .remote pa] }
          | .noRoute => s.herdFault r h .addressFault low h.pc.toNat
          | .noGroup => s.herdFault r h .permission low h.pc.toNat
          | .wait => s
        else if s.secMissing (paLocal pa / 32) then (s.noteRegion h.cid (paLocal pa)).fetchLine (paLocal pa / 256) 0 (some h.inst) false
        else if s.secPoisoned (paLocal pa / 32) then s.herdFault r h .eccUncorrectable low h.pc.toNat
        else s.newChoice.takeWord r h (s.fetchWord r h stale (paLocal pa))
      | .host a =>
        let s := s.newChoice
        if !(s.fnCfg (h.inst + 1)).busMaster then s.herdFault r h .addressFault low h.pc.toNat
        else if !s.hostFits 1 then s
        else
          let (rid, s1) := s.fresh
          ({ s1 with reqs := s1.reqs ++ [fetchReq rid r h .host a] }).sendRead (h.inst + 1) rid a 8
      | x => match x.cause with
        | some c => s.herdFault r h c low h.pc.toNat
        | none =>
          if x.isAts && !(s.fnCfg (h.inst + 1)).busMaster then s.herdFault r h .addressFault low h.pc.toNat
          else s.newChoice.askXlat h.inst x)

/-! ## Herd end (02 R38, R49, R51) -/

/-- Every lane has exited: the herd leaves its position; what it still has in flight completes for nobody; the last herd of a
kernel puts its slot into `DRAINING`. -/
def State.endHerd (s : State) (r : HerdRef) (h : Herd) : State :=
  let orphan := fun (x : Req) =>
    if x.core = r.core && (x.pos = r.pos || (256 ≤ x.pos && (x.pos - 256) / 16 = r.pos)) then
      { x with pos := 128, dst := 255, acquire := false } else x
  let s := { s with reqs := s.reqs.map orphan }
  let s := (s.updCore r.core (fun c => { c with herds := c.herds.filter (fun x => x.pos != r.pos) })).freePipes r.core (fun p => p = r.pos)
  let left := (s.core r.core).herds.any (fun x => x.slot = h.slot)
  let release := fun (o : MxOp) => if o.pos = r.pos then { o with live := false } else o
  s.updSlot { core := r.core, slot := h.slot } (fun (x : Slot) =>
    let x := { x with mxq := x.mxq.map release }
    match x.kernel with
    | some k => if !left && k.herds ≤ k.next && x.st = .running then { x with st := .draining } else x
    | none => x)

/-- Put a herd back after a control instruction, or end it where no lane is left. -/
def State.putHerd (s : State) (r : HerdRef) (h : Herd) : State :=
  if h.active = 0 && h.stack.isEmpty then s.endHerd r h else s.updHerd r (fun _ => h)

/-! ## Branch and control -/

/-- A signed offset in instructions, added to an address. -/
def jump (pc : Word64) (off24 : Nat) : Word64 := pc + BitVec.ofInt 64 (8 * signed off24 24)

/-- `TARGET` of `BRA` and `CALL`: bits [49:26]. -/
def fTarget (f : Fields) : Nat := f.dst.toNat * 2 ^ 16 + f.sa.toNat * 2 ^ 8 + f.sb.toNat

/-- `RECONV` of `BRA`: bits [25:2]. -/
def fReconv (f : Fields) : Nat := lowBits f 25 2

/-- A stack with 64 entries takes no more (02 R37). -/
def stackMax : Nat := 64

/-- A translation has to wait for the host or for a line of a table. -/
def Xlat.waits : Xlat → Bool
  | .needAts _ => true
  | .needLine _ => true
  | _ => false

/-- Go on with a branch or call if every address that it adds an offset to lies in the kernel's executable pages; else it faults for `lane`
with the lowest cause (02 R56), or waits for what a walk needs (03 R84, R91). -/
def State.withTargets (s : State) (r : HerdRef) (h : Herd) (lane : Nat) (as : List Word64) (go : State → State) : State :=
  let xs := as.map (fun a => (a, s.herdXlat r h .fetch a.toNat))
  let bad := xs.filterMap (fun x => x.2.cause.map (fun c => (c, x.1)))
  match xs.find? (fun x => x.2.waits) with
  | some x => s.newChoice.askXlat h.inst x.2
  | none => match bad.find? (fun b => bad.all (fun d => decide (b.1.code ≤ d.1.code))) with
    | some b => s.herdFault r h b.1 lane b.2.toNat
    | none => go s.newChoice

/-- BRA: lanes whose guard holds go to `TARGET`, the others on; a herd that disagrees runs the fall-through lanes first and
pushes an entry (02 R36). Every active lane acts (03 R63). `TARGET` is checked always, `RECONV` where the lanes diverge (log 25). -/
def execBra (r : HerdRef) (f : Fields) (s : State) : Host.Outcome State Fault Refusal :=
  .next (match s.issuing? r with
  | none => s
  | some h =>
    let taken := h.acting f
    let tgt := jump h.pc (fTarget f)
    if h.active = 0 then s.updHerd r Herd.next
    else if f.form || lowBits f 1 0 != 0 then s.herdFault r h .illegalInstr (lowLane h.active) 0
    else if taken = 0 then s.withTargets r h (lowLane h.active) [tgt] (fun s => s.updHerd r Herd.next)
    else if taken = h.active then s.withTargets r h (lowLane h.active) [tgt] (fun s => s.updHerd r (fun h => h.goto tgt h.active))
    else if stackMax ≤ h.stack.length then s.herdFault r h .illegalInstr (lowLane h.active) 0
    else s.withTargets r h (lowLane h.active) [tgt, jump h.pc (fReconv f)] (fun s =>
      s.updHerd r (fun h =>
        { h with stack := .diverge (jump h.pc (fReconv f)) h.active taken tgt false :: h.stack }.goto (h.pc + 8)
          (h.active &&& ~~~taken))))

/-- Legality of a control instruction without register fields. -/
def ctrlShape (f : Fields) : Shape :=
  { ok := !f.form && unused f.dst && unused f.sa && unused f.sb && f.low = 0, src := [], dst := [] }

/-- CALL: the active lanes push a call entry; the acting lanes jump, the others wait at the return address. -/
def execCall (r : HerdRef) (f : Fields) (s : State) : Host.Outcome State Fault Refusal :=
  .next (s.issue r f { ok := !f.form && f.low = 0, src := [], dst := [] } (fun s h act =>
    if stackMax ≤ h.stack.length then s.herdFault r h .illegalInstr (lowLane act) 0
    else s.withTargets r h (lowLane act) [jump h.pc (fTarget f)] (fun s =>
      s.updHerd r (fun h => { h with stack := .call (h.pc + 8) h.active :: h.stack }.goto (jump h.pc (fTarget f)) act))))

/-- RET: pop the top call entry; every lane of its mask that has not exited goes on at the return address. -/
def execRet (r : HerdRef) (f : Fields) (s : State) : Host.Outcome State Fault Refusal :=
  .next (s.issue r f (ctrlShape f) (fun s h act =>
    match h.stack with
    | .call ret mask :: rest => s.updHerd r (fun h => { h with stack := rest }.goto ret (mask &&& ~~~h.exited))
    | _ => s.herdFault r h .illegalInstr (lowLane act) 0))

/-- EXIT: the acting lanes exit; a herd all of whose lanes have exited ends. -/
def execExit (r : HerdRef) (f : Fields) (s : State) : Host.Outcome State Fault Refusal :=
  .next (s.issue r f (ctrlShape f) (fun s h act =>
    s.putHerd r ({ h with exited := h.exited ||| act }.goto (h.pc + 8) (h.active &&& ~~~act))))

/-- TRAP: faults the context, naming the lowest acting lane. -/
def execTrap (r : HerdRef) (f : Fields) (s : State) : Host.Outcome State Fault Refusal :=
  .next (s.issue r f (ctrlShape f) (fun s h act => s.herdFault r h .trap (lowLane act) 0))

/-- NOP. -/
def execNop (r : HerdRef) (f : Fields) (s : State) : Host.Outcome State Fault Refusal :=
  .next (s.issueHerd r f (ctrlShape f) (fun h _ => h))

/-! ## Ordering points (08 R183) -/

/-- Scopes: 1 `HERD`, 2 `CORE`, 3 `REGION`, 4 `PACKAGE`, 5 `HOST`, 6 `FABRIC`. An earlier access in flight has reached the point
of a scope: a read or atomic only by returning; a write to a home once issued up to `CORE`, or up to `REGION` where its home is
another region's; a remote write up to `HOST`; a host write up to `PACKAGE`. -/
def State.reached (s : State) (x : Req) (scope : Nat) : Bool :=
  match x.kind with
  | .read => false
  | .atomic _ _ => false
  | .fetch => true
  | .operand _ => true
  | .declare _ => true
  | _ => match x.target with
    | .home => scope ≤ 2 || (scope = 3 && s.homeRegion (x.line * 256) != regionOfCore x.core)
    | .remote => scope ≤ 5
    | .host => scope ≤ 4

/-- Every earlier access of a herd has reached the point of a scope. -/
def State.allReached (s : State) (r : HerdRef) (scope : Nat) : Bool := (s.herdReqs r).all (fun x => s.reached x scope)

/-- Every earlier load of a herd has returned. -/
def State.loadsDone (s : State) (r : HerdRef) : Bool :=
  (s.herdReqs r).all (fun x => match x.kind with
    | .read => false
    | .atomic _ _ => false
    | _ => true)

/-- Invalidate a slot's L1 lines (02 R45, 08 R188); fills still outstanding do not enter it. -/
def State.invalidateL1 (s : State) (r : SlotRef) : State :=
  let s := s.updSlot r (fun x => { x with l1 := [] })
  let late := fun (x : Req) => if x.core = r.core && x.slot = r.slot then { x with drop := BitVec.allOnes 8 } else x
  { s with reqs := s.reqs.map late }

/-! ## Synchronisation -/

/-- FENCE holds the herd until the earlier accesses it covers have reached the point of its scope; full or acquire at `CORE` or wider it then
invalidates the slot's L1. A release fence at `PACKAGE` may let the herd go on, as a row of 08 R199 requires: it then holds the herd's later
stores, atomics and adds until then, and not its later loads (log 59). -/
def execFence (r : HerdRef) (f : Fields) (s : State) : Host.Outcome State Fault Refusal :=
  let scope := lowBits f 7 5
  let kind := lowBits f 1 0
  let ok := !f.form && unused f.dst && unused f.sa && unused f.sb && scope != 0 && scope != 7 && kind != 3
    && lowBits f 25 8 = 0 && lowBits f 4 2 = 0
  .next (s.issue r f { ok := ok, src := [], dst := [] } (fun s h _ =>
    let ready := if kind = 1 then s.loadsDone r else s.allReached r scope
    if h.acquire.isSome then s
    else if kind = 2 && scope = 4 && !ready then
      let held := ((s.herdReqs r).filter (fun x => !s.reached x scope)).map (fun x => x.rid)
      let go := Config.passesFence s.freeSeq
      let s := { s with freeSeq := s.freeSeq + 1 }
      if go then s.updHerd r (fun h => { h.next with releases := h.releases ++ [(scope, held)] }) else s
    else if !ready then s
    else
      let s := s.updHerd r Herd.next
      if kind != 2 && 2 ≤ scope then s.invalidateL1 { core := r.core, slot := h.slot } else s))

/-- Herds of a slot that wait at a barrier. -/
def State.waiters (s : State) (core slot bar : Nat) : List Herd :=
  (s.core core).herds.filter (fun h => h.slot = slot && (match h.atBarrier with
    | some b => decide (b.1 = bar)
    | none => false))

/-- Count an arrival at a barrier; where the count awaited by some waiting herd is reached, all of them go on and the count
returns to 0 (03 R87). -/
def State.arrive (s : State) (r : HerdRef) (slot bar count : Nat) : State :=
  let s := s.updHerd r (fun h => { h with atBarrier := some (bar, count) })
  let s := s.updSlot { core := r.core, slot := slot } (fun x => { x with barriers := updAt x.barriers bar (fun n => n + 1) })
  let n := (s.slot? { core := r.core, slot := slot }).elim 0 (fun x => x.barriers.getD bar 0)
  let ws := s.waiters r.core slot bar
  if ws.any (fun h => match h.atBarrier with
    | some b => decide (b.2 ≤ n)
    | none => false) then
    let s := ws.foldl (fun s w => s.updHerd { core := r.core, pos := w.pos } (fun h => { h with atBarrier := none }.next)) s
    s.updSlot { core := r.core, slot := slot } (fun x => { x with barriers := updAt x.barriers bar (fun _ => 0) })
  else s

/-- BAR: a full fence at `CORE` scope, then an arrival; `COUNT` 0 keeps only the fence. -/
def execBar (r : HerdRef) (f : Fields) (s : State) : Host.Outcome State Fault Refusal :=
  let ok := !f.form && unused f.dst && unused f.sa && unused f.sb && lowBits f 13 0 = 0
  .next (s.issue r f { ok := ok, src := [], dst := [] } (fun s h _ =>
    if !s.allReached r 2 || h.acquire.isSome then s
    else
      let s := s.invalidateL1 { core := r.core, slot := h.slot }
      if lowBits f 21 14 = 0 then s.updHerd r Herd.next else s.arrive r h.slot (lowBits f 25 22) (lowBits f 21 14)))

/-- HSYNC: every lane that has not exited must be active. -/
def execHsync (r : HerdRef) (f : Fields) (s : State) : Host.Outcome State Fault Refusal :=
  .next (s.issue r f (ctrlShape f) (fun s h act =>
    if h.active = ~~~h.exited then s.updHerd r Herd.next else s.herdFault r h .illegalInstr (lowLane act) 0))

end Sys2Proof.Machine
end

