-- ==== Sys2Proof/Machine/Access.lean ====
section
/-! DEFINITION. What the memory instructions share: the result of an atomic and of an add-to-line, a lane's way to the memory it
addresses, and the requests that a herd sends (03 R76 to R83, 07 R154, R155, 08). -/
namespace Sys2Proof.Machine

/-! ## Atomics and adds (03 R81, 07 R155) -/

/-- FP32 sum rounded to nearest even; a NaN is canonical. -/
def addF32 (a b : Nat) : Nat := fmtF32.encode 0 false (FV.add 0 (fmtF32.decode a) (fmtF32.decode b))

/-- The value that an atomic leaves, from the old value, the operand and the compare value. -/
def atomNew (aop size old op cmp : Nat) : Nat :=
  let w := 8 * size
  match aop with
  | 0 => (old + op) % 2 ^ w
  | 1 => if signed op w < signed old w then op else old
  | 2 => if signed old w < signed op w then op else old
  | 3 => min old op
  | 4 => max old op
  | 5 => old &&& op
  | 6 => old ||| op
  | 7 => old ^^^ op
  | 8 => op
  | 9 => if old = cmp then op else old
  | _ => addF32 old op

/-- The value of an element of a floating line format, exact. -/
def fmtVal (f x : Nat) : FV := if f = 1 then fmtBF16.decode x else if f = 2 then fmtF16.decode x else fmtF32.decode x

/-- One element added: in FP32, then rounded to the line's format; integers modulo the width. -/
def lineAdd (lineFmt opFmt old op : Nat) : Nat :=
  if lineFmt = 3 then (old + op) % 2 ^ 32
  else if lineFmt = 4 then (old + op) % 2 ^ 64
  else
    let sum := fmtF32.encode 0 false (FV.add 0 (fmtVal lineFmt old) (fmtVal opFmt op))
    if lineFmt = 1 then fmtBF16.encode 0 false (fmtF32.decode sum)
    else if lineFmt = 2 then fmtF16.encode 0 false (fmtF32.decode sum)
    else sum

/-- Consecutive elements added: `n` elements of the line at `old`, operands packed at `op`. -/
def lineAdds (lineFmt opFmt n old op : Nat) : Nat :=
  let w := 8 * fmtBytes lineFmt
  let v := 8 * fmtBytes opFmt
  packElems w ((List.range n).map (fun i => lineAdd lineFmt opFmt (elem old w i) (elem op v i)))

/-! ## Where a lane's access goes (01 R24 to R28, 03 R77, 12 R292, R294) -/

/-- The memory that a lane addresses: a local address, a physical address of another module, a host address. -/
inductive LaneTo where
  | home (a : Nat)
  | remote (pa : Nat)
  | host (a : Nat)
deriving DecidableEq, Repr

/-- What becomes of a lane's address. -/
inductive LaneRes where
  | ok (t : LaneTo)
  | bad (c : Cause)
  | needAts (page : Nat)
  | needLine (line : Nat)
deriving DecidableEq, Repr

/-- Translate a lane's address, then check its alignment, then that another module can be reached (12 R288, R292) or that the
function may be bus master (13 R314). `since` is the place in `State.hist` of the start of what makes the access. -/
def State.laneTo (s : State) (inst since : Nat) (want : Want) (va size : Nat) : LaneRes :=
  match s.translate inst want va since with
  | .device pa _ =>
    if va % size != 0 then .bad .misaligned
    else if s.isLocal pa then .ok (.home (paLocal pa))
    else if (s.egress? (paPkg pa) (paLocal pa)).isNone then .bad .addressFault
    else if (s.groupFor inst (paPkg pa)).isNone then .bad .permission
    else .ok (.remote pa)
  | .host a =>
    if va % size != 0 then .bad .misaligned
    else if !(s.fnCfg (inst + 1)).busMaster then .bad .addressFault
    else .ok (.host a)
  | .needAts p => if (s.fnCfg (inst + 1)).busMaster then .needAts p else .bad .addressFault
  | .needLine l => .needLine l
  | .uncorrectable _ => .bad .eccUncorrectable
  | .address => .bad .addressFault
  | .refused => .bad .addressFault
  | .permission => .bad .permission

/-- A lane's access: lane, virtual address, where it goes. -/
structure LaneVa where
  lane : Nat
  va : Nat
  res : LaneRes
deriving DecidableEq, Repr

/-- The fault that one instruction records: the lowest cause code, then the lowest lane (02 R56, log 17). -/
def firstFault : List LaneVa → Option (Cause × Nat × Nat)
  | [] => none
  | x :: xs =>
    match x.res, firstFault xs with
    | .bad c, some (d, l, v) => if c.code ≤ d.code then some (c, x.lane, x.va) else some (d, l, v)
    | .bad c, none => some (c, x.lane, x.va)
    | _, r => r

/-- What the first lane that cannot be translated yet waits for: a host translation, or a line of a table. -/
def firstWait : List LaneVa → Option Xlat
  | [] => none
  | x :: xs => match x.res with
    | .needAts p => some (.needAts p)
    | .needLine l => some (.needLine l)
    | _ => firstWait xs

/-- Reach memory in every lane, or fault, or wait for a host translation (13 R315) or a line of a table. One instruction records one fault: its
further faulting lanes count in no register (02 R56, log 17). -/
def State.withLanes (s : State) (r : HerdRef) (h : Herd) (xs : List LaneVa) (go : State → List (Nat × Nat × LaneTo) → State) : State :=
  match firstFault xs with
  | some (c, lane, va) => s.herdFault r h c lane va
  | none =>
    match firstWait xs with
    | some x => s.newChoice.askXlat h.inst x
    | none => go s.newChoice (xs.filterMap (fun x => match x.res with
      | .ok t => some (x.lane, x.va, t)
      | _ => none))

/-! ## Issue of a memory instruction (02 R46, 03 R80, R86) -/

/-- The accesses that release fences of a herd hold its stores behind have reached their points. -/
def State.releasesDone (s : State) (h : Herd) : Bool :=
  h.releases.all (fun p => s.reqs.all (fun (x : Req) => !p.2.contains x.rid || s.reached x p.1))

/-- Issue an instruction that accesses memory: not while another herd's instruction holds the address pipeline, nor while an acquire of the herd
is outstanding, nor, where it `stores`, before a release fence lets it. -/
def State.issueMem (s : State) (r : HerdRef) (f : Fields) (sh : Shape) (stores : Bool) (go : State → Herd → LaneMask → State) : State :=
  s.issue r f sh (fun s h act =>
    if !s.pipeFree r || h.acquire.isSome || (stores && !s.releasesDone h) then s
    else go (s.freePipes r.core (fun p => p = r.pos)) h act)

/-! ## Base and address (03 R76, R77) -/

/-- `SIZE` in bytes per lane. -/
def fSize (f : Fields) : Nat := 2 ^ lowBits f 12 10
/-- `SPACE`. -/
def fSpace (f : Fields) : Nat := lowBits f 9 8
/-- `SCOPE`. -/
def fScope (f : Fields) : Nat := lowBits f 7 5
/-- `UBASE`. -/
def fUbase (f : Fields) : Bool := lowBit f 2

/-- The base register: a 64-bit pointer, or a 32-bit scratchpad offset. -/
def baseUse (f : Fields) (global : Bool) : Use := { uni := fUbase f, r := f.sa.toNat, span := if global then 2 else 1 }

/-- A lane's global address: base plus offset, modulo 2^64. -/
def globalVa (h : Herd) (f : Fields) (ofs : Int) (lane : Nat) : Nat :=
  (BitVec.ofNat 64 (h.read (baseUse f true) lane) + BitVec.ofInt 64 ofs).toNat

/-- A lane's scratchpad offset, modulo 2^32. -/
def scratchOff (h : Herd) (f : Fields) (ofs : Int) (lane : Nat) : Nat :=
  (BitVec.ofNat 32 (h.read (baseUse f false) lane) + BitVec.ofInt 32 ofs).toNat

/-- Scratchpad size of the kernel on a herd's slot. -/
def State.scratchSize (s : State) (r : HerdRef) (h : Herd) : Nat :=
  match s.slot? { core := r.core, slot := h.slot } with
  | some x => x.kernel.elim 0 (fun k => k.scratchBytes)
  | none => 0

/-- Scratchpad of a herd's slot. -/
def State.scratch (s : State) (r : HerdRef) (h : Herd) : Memory :=
  (s.slot? { core := r.core, slot := h.slot }).elim [] (fun x => x.scratch)

/-- Check the scratchpad offsets of the acting lanes (02 R43, R47, 03 R77). -/
def State.withScratch (s : State) (r : HerdRef) (h : Herd) (size : Nat) (xs : List (Nat × Nat)) (go : State) : State :=
  let check := fun (o : Nat) =>
    if o % size != 0 then LaneRes.bad .misaligned
    else if s.scratchSize r h ≤ o then .bad .scratchBounds
    else .ok (.home o)
  match firstFault (xs.map (fun x => LaneVa.mk x.1 0 (check x.2))) with
  | some (c, lane, va) => s.herdFault r h c lane va
  | none => go

/-! ## Requests -/

/-- A request of a herd; `op` is the number of its instruction. -/
def herdReq (rid op : Nat) (r : HerdRef) (h : Herd) (kind : ReqKind) (t : Target) (line : Nat) (lanes : List LaneAcc) : Req :=
  { rid := rid, op := op, core := r.core, slot := h.slot, pos := r.pos, herd := r.pos, inst := h.inst, ctx := h.ctx, kind := kind, target := t, drop := 0,
    line := line, lanes := lanes, dst := 255, udst := false, sx := false, stream := false, credited := false, last := false,
    scope := 0, acquire := false, pc := h.pc, phase := .queued }

/-- Distinct values, in the order of their first appearance. -/
def distinct : List Nat → List Nat
  | [] => []
  | x :: xs => x :: (distinct xs).filter (fun y => y != x)

/-- Sectors that a request touches, by number, in the order of its lanes; a declaration names its whole line. -/
def Req.sectors (x : Req) : List Nat :=
  match x.kind with
  | .declare _ => (List.range 8).map (fun i => x.line * 8 + i)
  | _ => distinct (x.lanes.map (fun l => l.pa / 32))

/-- Group lane accesses by a key, keys in order of first appearance, lanes ascending. -/
def groupLanes (key : LaneAcc → Nat) (xs : List LaneAcc) : List (Nat × List LaneAcc) :=
  (distinct (xs.map key)).map (fun k => (k, xs.filter (fun x => key x = k)))

/-- Put a request in flight, numbered and then shaped by `f`. -/
def State.addReq (s : State) (q : Nat → Req) : State :=
  let n := s.fresh
  { n.2 with reqs := n.2.reqs ++ [q n.1] }

/-- Lanes that go to this module's homes, with the physical address they reach. -/
def homeLanes (ts : List (Nat × Nat × LaneTo)) (acc : Nat → Nat → Nat → LaneAcc) : List LaneAcc :=
  ts.filterMap (fun t => match t.2.2 with
    | .home a => some (acc t.1 t.2.1 a)
    | _ => none)

/-- Lanes that go to other modules. -/
def remoteLanes (ts : List (Nat × Nat × LaneTo)) (acc : Nat → Nat → Nat → LaneAcc) : List LaneAcc :=
  ts.filterMap (fun t => match t.2.2 with
    | .remote a => some (acc t.1 t.2.1 a)
    | _ => none)

/-- Lanes that go to the host. -/
def hostLanes (ts : List (Nat × Nat × LaneTo)) (acc : Nat → Nat → Nat → LaneAcc) : List LaneAcc :=
  ts.filterMap (fun t => match t.2.2 with
    | .host a => some (acc t.1 t.2.1 a)
    | _ => none)

/-- The state after a list of requests to other modules; none where one must wait for a credit or a transaction number. -/
def State.sentAll (s : State) (inst : Nat) : List ((Nat → Req) × Nat × Msg × List Byte) → Option State
  | [] => some s
  | (q, pa, m, data) :: rest =>
    let n := s.fresh
    match n.2.request inst (.herd n.1) pa m data with
    | .ok t => State.sentAll { t with reqs := t.reqs ++ [q n.1] } inst rest
    | _ => none

/-- Send a list of requests to other modules, all or none: false where they must wait. -/
def State.sendAll (s : State) (inst : Nat) (xs : List ((Nat → Req) × Nat × Msg × List Byte)) : State × Bool :=
  match s.sentAll inst xs with
  | some t => (t, true)
  | none => (s, false)

/-! ## L1 (02 R45, 08 R187) -/

/-- L1 lines of a herd's slot. -/
def State.l1 (s : State) (r : HerdRef) (h : Herd) : List L1Line :=
  (s.slot? { core := r.core, slot := h.slot }).elim [] (fun x => x.l1)

/-- A valid copy of the sector at a local address. -/
def l1Hit (l1 : List L1Line) (a : Nat) : Option L1Line :=
  l1.find? (fun l => l.line = a / 256 && l.valid.getLsbD (a / 32 % 8))

/-- `n` bytes of a line's data at an address within it. -/
def lineBytes (d : BitVec 2048) (a n : Nat) : Nat := d.toNat / 2 ^ (8 * (a % 256)) % 2 ^ (8 * n)

/-- Replace `n` bytes of a line's data. -/
def setLineBytes (d : BitVec 2048) (a n v : Nat) : BitVec 2048 :=
  let sh := 8 * (a % 256)
  let m : BitVec 2048 := BitVec.ofNat 2048 (2 ^ (8 * n) - 1) <<< sh
  (d &&& ~~~m) ||| (BitVec.ofNat 2048 (v % 2 ^ (8 * n)) <<< sh)

/-- A store also writes a sector that is valid in the slot's L1; a fill outstanding for the sector is not to enter. -/
def State.storeL1 (s : State) (r : HerdRef) (h : Herd) (x : LaneAcc) : State :=
  let put := fun (l : L1Line) =>
    if l.line = x.pa / 256 && l.valid.getLsbD (x.pa / 32 % 8) then { l with data := setLineBytes l.data x.pa x.size x.data } else l
  let s := s.updSlot { core := r.core, slot := h.slot } (fun (y : Slot) => { y with l1 := y.l1.map put })
  let late := fun (q : Req) =>
    if q.core = r.core && q.slot = h.slot && q.target = .home && q.line = x.pa / 256 && q.kind = .read then
      { q with drop := q.drop ||| (1 <<< (x.pa / 32 % 8)) } else q
  { s with reqs := s.reqs.map late }

/-- A line last used in its set and group of ways: lines of the common ways share one state per set, whatever their slot; a slot's private
ways keep their own (02 R45). -/
def State.touchL1 (s : State) (r : SlotRef) (line : Nat) : State :=
  let st := Config.l1Set line % 2048
  let common := (s.slot? r).elim false (fun x => x.l1.any (fun l => l.line = line && 14 ≤ l.way))
  let upd := fun (x : Slot) =>
    if common || x.num = r.slot then
      { x with l1 := x.l1.map (fun l =>
          if Config.l1Set l.line % 2048 = st && decide (14 ≤ l.way) = common then { l with mru := decide (x.num = r.slot ∧ l.line = line) } else l) }
    else x
  s.updCore r.core (fun c => { c with slots := c.slots.map upd })

/-! ## Miss registers (02 R45, R46, 06 R141) -/

/-- A request holds a miss register: it brings data of a line to the core. -/
def Req.fetches (q : Req) : Bool :=
  match q.kind with
  | .read => true
  | .operand _ => true
  | _ => false

/-- A stream request to a home of this module that holds no landing line; one that waits for another request's data needs none (06 R144). -/
def Req.owesCredit (q : Req) : Bool :=
  q.fetches && q.stream && !q.credited && q.target = .home && (match q.phase with
    | .joined _ => false
    | _ => true)

/-- Lines in flight to a core, of any owner. -/
def State.missLines (s : State) (core : Nat) : List (Target × Nat) :=
  ((s.reqs.filter (fun q => q.core = core && q.fetches)).map (fun q => (q.target, q.line))).dedup

/-- Instructions that wait at the miss register of a line. -/
def State.missWaiters (s : State) (core : Nat) (t : Target) (line : Nat) : Nat :=
  (distinct ((s.reqs.filter (fun q => q.core = core && q.fetches && q.target = t && q.line = line)).map (fun q => q.op))).length

/-- An instruction that brings in these lines finds registers: at most 2,048 lines, and at most 16 waiters at each. -/
def State.missFits (s : State) (core : Nat) (lines : List (Target × Nat)) : Bool :=
  decide ((s.missLines core ++ lines).dedup.length ≤ 2048) && lines.all (fun l => decide (s.missWaiters core l.1 l.2 < 16))

/-- A request of a herd after `q` on its core's path may write the line. -/
def State.writtenAfter (s : State) (q : Req) (pos : Nat) : Bool :=
  (s.reqs.dropWhile (fun y => y.rid != q.rid)).any (fun y => y.core = q.core && y.pos = pos && y.target = .home && y.line = q.line && !y.fetches)

/-- One read serves two contexts alike: they are one, or neither checks for dead reads nor captures the line in an epoch (06 R149, 07 R179). -/
def State.readsAlike (s : State) (c d : CtxRef) (line : Nat) : Bool :=
  c = d || (!s.deadchk c && !s.deadchk d && (s.epochOf c line).isNone && (s.epochOf d line).isNone)

/-- The request in flight that a load of a sector joins: of the same core, in whatever slot, for that sector, read alike for both contexts, with no
store of the herd to the line since, which it would not see, and, for a load that reads at the home, not performed yet (06 R141, 03 R80, 08 R187,
log 10). Loads of other modules' lines join nothing: they go to their owners every time (08 R187). -/
def State.joins (s : State) (r : HerdRef) (h : Herd) (scope : Nat) (x : LaneAcc) : Option Nat :=
  (s.reqs.find? (fun q =>
    q.core = r.core && s.readsAlike { inst := q.inst, ctx := q.ctx } { inst := h.inst, ctx := h.ctx } q.line && q.kind = .read && q.target = .home && q.line = x.pa / 256
      && q.lanes.any (fun l => l.pa / 32 = x.pa / 32) && !q.drop.getLsbD (x.pa / 32 % 8) && !s.writtenAfter q r.pos
      && (match q.phase with
        | .queued => true
        | .hbm => true
        | .served _ _ _ => decide (scope ≤ 1)
        | .joined _ => false))).map (fun q => q.rid)

end Sys2Proof.Machine
end

