-- ==== Sys2Proof/Machine/Queues.lean ====
section
/-! DEFINITION. Queues: reading and beginning commands, and the doorbells (09 R202 to R218, 08 R192, R193). -/
namespace Sys2Proof.Machine

/-! ## Ends of commands -/

/-- A command ends at once: its status, then its record (09 R209). -/
def State.doneCmd (s : State) (cid : Nat) (st : Status) (detail : Nat) : State := (s.endCmd cid st detail).finishCmd cid

/-- A field is found invalid at a packet offset. -/
def State.badParam (s : State) (cid off : Nat) : State := s.doneCmd cid .invalidParam off

/-- A command is under way on its engine. -/
def State.activate (s : State) (cid : Nat) : State := s.updCmd cid (fun c => { c with phase := .active })

/-- Offset of the first check that fails (R217, first pass): checks in ascending byte order. -/
def firstFail : List (Nat × Bool) → Option Nat
  | [] => none
  | (o, ok) :: l => if ok then firstFail l else some o

/-- Every byte of a packet from `lo` to below `hi` is 0. -/
def Cmd.zero (c : Cmd) (lo hi : Nat) : Bool := (List.range (hi - lo)).all (fun i => c.byte (lo + i) = 0)

/-- A pointer field whose bits [63:57] are 0, as every command needs (01 R24). -/
def Cmd.pointer (c : Cmd) (o : Nat) : Bool := c.field o 8 < 2 ^ 57

/-- Run a command's own effect once its fields pass. -/
def State.checked (s : State) (c : Cmd) (checks : List (Nat × Bool)) (go : State) : State :=
  match firstFail checks with
  | some o => s.badParam c.cid o
  | none => go

/-! ## Reading a ring (09 R206 to R208, R408) -/

/-- What reading ring entries meets. -/
inductive EntryRead where
  | ok (bs : List Byte)
  /-- what has been read so far, and what the next entry waits for -/
  | wait (have_ : List Byte) (a : RingAccess)
  | failed
deriving DecidableEq, Repr

/-- The entry of a submission ring at an offset: at its home, or in host memory, also where a leaf leads there (R408). -/
def State.readEntry (s : State) (q : QRef) (x : Queue) (off : Nat) : EntryRead :=
  match s.ringAt q x.sqHost x.sqAddr off .read, s.ringAt q x.sqHost x.sqAddr (off + 32) .read with
  | .device a, .device b => .ok (s.homeBytes a 32 ++ s.homeBytes b 32)
  | .failed, _ => .failed
  | _, .failed => .failed
  | .device _, b => .wait [] b
  | a, _ => .wait [] a

/-- `n` more entries, behind the bytes from `SQ_HEAD` on that are here. -/
def State.gather (s : State) (q : QRef) (x : Queue) (bs : List Byte) : Nat → EntryRead
  | 0 => .ok bs
  | n + 1 =>
    match s.readEntry q x (64 * ((x.sqHead + bs.length / 64) % 2 ^ x.sqLog2)) with
    | .ok e => s.gather q x (bs ++ e) n
    | .wait _ a => .wait bs a
    | .failed => .failed

/-- `n` entries from `SQ_HEAD`. -/
def State.readEntries (s : State) (q : QRef) (x : Queue) (n : Nat) : EntryRead :=
  if 64 * n ≤ x.fetched.length then .ok (x.fetched.take (64 * n)) else s.gather q x x.fetched (n - x.fetched.length / 64)

/-- Ask for what a ring read waits for; of a ring in host memory its next entry, unless a read of it is outstanding. -/
def State.askRing (s : State) (q : QRef) (x : Queue) (have_ : List Byte) : RingAccess → State
  | .host a =>
    if x.asked.isSome || !s.hostFits 1 then s
    else
      let n := s.fresh
      let t : Txn := { port := 16, num := n.1, owner := .ring q, dst := 0, addr := a, since := s.time, first := s.time, resendAt := none }
      (({ n.2 with fx := { n.2.fx with txns := n.2.fx.txns ++ [t] } }).updQueue q (fun x => { x with asked := some n.1, fetched := have_ })).sendRead
        (qFn q) n.1 a 64
  | a => s.ringAsk a

/-- An entry of a ring in host memory arrives, or the host has refused it (09 R408). -/
def State.ringData (s : State) (q : QRef) (rid : Nat) (data : Option (List Byte)) : State :=
  match s.queue? q with
  | none => s
  | some x =>
    if x.asked != some rid then s
    else match data with
      | some bs => s.updQueue q (fun x => { x with asked := none, fetched := x.fetched ++ (bs ++ List.replicate 64 0).take 64 })
      | none => (s.updQueue q (fun x => { x with asked := none })).ringFault q

/-- Entries that the tail covers. -/
def Queue.covered (x : Queue) : Nat := (x.sqTail + 2 ^ x.sqLog2 - x.sqHead) % 2 ^ x.sqLog2

/-! ## Engines and their order (08 R192, R193) -/

/-- Engines of Nolzin commands. -/
inductive Engine where
  | dispatch
  | dma
  | collective
  | cache
  | speculation
  | control
  | manager
deriving DecidableEq, Repr

/-- Engine of a tenant opcode. -/
def tenantEngine (op : Nat) : Option Engine :=
  if op = 0x10 then some .dispatch
  else if isDmaOp op then some .dma
  else if 0x20 ≤ op && op ≤ 0x24 then some .collective
  else if op = 0x28 || op = 0x29 then some .cache
  else if 0x30 ≤ op && op ≤ 0x32 then some .speculation
  else if 1 ≤ op && op ≤ 4 then some .control
  else none

/-- Manager opcodes (09 R228). -/
def isManagerOp (op : Nat) : Bool :=
  [0x80, 0x81, 0x82, 0x83, 0x84, 0x88, 0x89, 0x8A, 0x90, 0x91, 0x98, 0x99, 0xA0, 0xA1, 0xA2, 0xA8, 0xB0, 0xB1, 0xC0, 0xC1].contains op

/-- Entries that an opcode needs. -/
def opSize (op : Nat) : Nat := if op = 0x1A then 2 else 1

/-- Commands of a queue whose record is not yet due, in queue order. -/
def State.queueCmds (s : State) (q : QRef) : List Cmd := s.cmds.filter (fun c => decide (c.q = q))

/-- The ordering conditions under which a command begins, given the earlier commands of its queue that have not completed: an earlier
`FENCE` or `WAIT` has completed; with `FENCE_BEFORE`, and for speculation, every earlier command; for `LAUNCH`, a collective and a cache
command, the earlier ones of its engine; for DMA, the earlier ones have begun; on the admin queue, every earlier one (09 R226). -/
def mayBegin (q : QRef) (earlier : List Cmd) (op : Nat) (fenceBefore : Bool) : Bool :=
  if q = .admin || fenceBefore then earlier.isEmpty
  else if earlier.any (fun c => c.opcode = 2 || c.opcode = 4) then false
  else match tenantEngine op with
    | some .speculation => earlier.isEmpty
    | some .dma => earlier.all (fun c => tenantEngine c.opcode != some .dma || c.phase != .waiting)
    | some .control => true
    | some e => earlier.all (fun c => tenantEngine c.opcode != some e)
    | none => true

/-- How a header is received: begun, or ended at once with a status and detail (09 R208, R213, R218). -/
def headerCheck (q : QRef) (x : Queue) (op size flags : Nat) : Option (Status × Nat) :=
  let known := match q with
    | .admin => op = 1 || op = 2 || isManagerOp op
    | .tenant _ _ => (tenantEngine op).isSome && !(0x20 ≤ op && op ≤ 0x24 && !x.coll)
  let lone := match q with
    | .admin => false
    | .tenant _ _ => isManagerOp op
  if lone then some (.notPermitted, 0)
  else if !known then some (.invalidOpcode, 0)
  else if op != 1 && size != opSize op then some (.invalidParam, 1)
  else if 8 ≤ flags then some (.invalidParam, 2)
  else none

/-- The die whose command processor serves a queue is not held in reset; the admin queue is the package controller's (09, 14 R330). -/
def State.served (s : State) (q : QRef) (x : Queue) : Bool :=
  match q with
  | .admin => true
  | .tenant _ _ => !s.rs.dieHeld.getLsbD (dieOfRegion x.region)

/-- Consume entries and enter a command in the list of those read. It is outstanding, for `CAPPED`, from here on (09 R214; DESIGN CHOICE, log 90: the
spec does not say whether a command that has been read and waits to begin is outstanding). -/
def State.enter (s : State) (q : QRef) (n : Nat) (pkt : List Byte) (phase : CmdPhase) : State :=
  let s := s.updQueue q (fun x => { x with sqHead := (x.sqHead + n) % 2 ^ x.sqLog2, fetched := x.fetched.drop (64 * n) })
  let k := s.fresh
  let c : Cmd :=
    { cid := k.1, q := q, pkt := pkt, start := s.time, since := s.histSeq, wdMs := s.mg.wdMs.toNat, capped := s.belowPreq, derated := false, determ := false,
      peerHeld := false, phase := phase, ending := none, heldFrom := none, cores := [], took := [], left := [], stalled := [], mark := 0, herdRan := false, todo := [],
      out := [], parts := [], used := 0, hot := s.hotRegions, unmeasured := 0 }
  { k.2 with cmds := k.2.cmds ++ [c] }

/-- Enter a command that ends at once. -/
def State.enterEnded (s : State) (q : QRef) (n : Nat) (pkt : List Byte) (st : Status) (detail : Nat) : State :=
  let cid := s.nextId
  (s.enter q n pkt (.ended (BitVec.ofNat 8 st.code) (BitVec.ofNat 64 detail))).finishCmd cid

/-- A command that waits begins: its header is checked and its start time taken. -/
def State.start (s : State) (q : QRef) (x : Queue) (c : Cmd) : State :=
  let s := s.updCmd c.cid (fun c => { c with phase := .begun, start := s.time, since := s.histSeq, wdMs := s.mg.wdMs.toNat, hot := s.hotRegions })
  match headerCheck q x c.opcode (c.byte 1) c.flags with
  | some (st, d) => s.doneCmd c.cid st d
  | none => s

/-- The first waiting command of a queue that may begin. -/
def startable (q : QRef) : List Cmd → List Cmd → Option Cmd
  | _, [] => none
  | before, c :: rest =>
    if c.phase = .waiting && mayBegin q before c.opcode (bit c.flags 0) then some c else startable q (before ++ [c]) rest

/-- Read the packet at `SQ_HEAD`: it waits for its turn. A bad `SIZE` completes at once, on the admin queue once the earlier commands have (09
R226), and so does every command of a faulted queue. -/
def State.readPacket (s : State) (q : QRef) (x : Queue) : State :=
  if x.sqHead = x.sqTail || (s.queueCmds q).any (fun c => c.opcode = 4) then s
  else match s.readEntries q x 1 with
    | .wait bs a => s.askRing q x bs a
    | .failed => s.ringFault q
    | .ok first =>
      let size := (first.getD 1 0).toNat
      let left := 2 ^ x.sqLog2 - x.sqHead
      let bad := size = 0 || 4 < size
      let n := if bad then 1 else min size left
      let cause := (s.qCtx q).elim 0 (fun c => (s.ctx? c).elim 0 (fun y => y.cause.toNat))
      if x.covered < n then s
      else if x.st = .faulted then s.enterEnded q n first .contextFaulted cause
      else if bad || left < size then
        (if (s.queueCmds q).any (fun c => c.opcode = 2 || q = .admin) then s else s.enterEnded q n first .invalidParam 1)
      else match s.readEntries q x size with
        | .wait bs a => s.askRing q x bs a
        | .failed => s.ringFault q
        | .ok pkt => s.enter q size pkt .waiting

/-- Begin a waiting command whose turn has come; where none can, read the next packet and begin it if its turn has come. -/
def State.beginCmd (s : State) (q : QRef) (x : Queue) : State :=
  match startable q [] (s.queueCmds q) with
  | some c => s.start q x c
  | none =>
    let s := s.readPacket q x
    match startable q [] (s.queueCmds q) with
    | some c => s.start q x c
    | none => s

/-- COMMAND_BEGIN. A manager command that has not begun lets an activation go first that waits on the sideband (log 104). -/
def execCommandBegin (q : QRef) (s : State) : Host.Outcome State Fault Refusal :=
  .next (match s.queue? q with
  | none => s
  | some x =>
    let killing := (s.qCtx q).elim false (fun c => (s.ctx? c).elim false (fun y => y.st = 3))
    if q = .admin && s.side.activating then s
    else if s.running && s.served q x && !killing && (x.st = .running || x.st = .faulted) && !x.full && x.held.isEmpty then s.beginCmd q x
    else s)

/-! ## Doorbells (09 R205, R206, R210, R211) -/

/-- The party that owns a queue's doorbells. -/
def ownsDoorbell : Party → QRef → Bool
  | .manager, .admin => true
  | .tenant vf, .tenant i _ => vf = i + 1
  | .untagged vf, .tenant i _ => vf = i + 1
  | _, _ => false

/-- A VF is enabled, and its TDI is not in `ERROR` (13 R304, R320). -/
def State.vfUp (s : State) (vf : Nat) : Bool :=
  s.host.vfEn && 1 ≤ vf && decide (vf ≤ s.host.numVfs) && (s.inst? (vf - 1)).elim true (fun i => i.tdi != .error)

/-- The TDI of a VF is in `RUN`, where the BARs accept only requests with the T bit on the bound stream (13 R320). -/
def State.vfRuns (s : State) (vf : Nat) : Bool := (s.inst? (vf - 1)).elim false (fun i => i.tdi = .run)

/-- A tagged request to a running TDI is discarded: its stream is Insecure (13 R319). -/
def State.ideDrops (s : State) (vf : Nat) (tagged : Bool) : Bool :=
  vf != 0 && tagged && s.vfRuns vf && (s.inst? (vf - 1)).elim false (fun i => s.host.ide.getD i.tdiStream .insecure != .secure)

/-- The function that a party's accesses arrive at takes them. -/
def State.partyUp (s : State) : Party → Bool
  | .tenant vf => s.vfUp vf
  | .untagged vf => s.vfUp vf && !s.vfRuns vf
  | _ => true

/-- A party's requests are discarded with the TLPs of an Insecure stream. -/
def State.partyDrops (s : State) : Party → Bool
  | .tenant vf => s.ideDrops vf true
  | _ => false

/-- The function that a posted write comes through. -/
def Posted.fn : Posted → Nat
  | .bar2 f _ _ => f
  | .bell f _ _ _ => f

/-- A posted write of a requester has not been accepted at its home yet (08 R200). -/
def State.postedOut (s : State) (fn : Nat) : Bool :=
  s.host.posted.any (fun w => w.fn = fn) || s.fx.txns.any (fun t => match t.owner with
    | .bar2Write k => decide (k = fn)
    | _ => false)

/-- A posted write waits behind those that wait. -/
def State.postLater (s : State) (w : Posted) : State := { s with host := { s.host with posted := s.host.posted ++ [w] } }

/-- The function that a party's accesses come through. -/
def partyFn : Party → Nat
  | .tenant vf => vf
  | .untagged vf => vf
  | _ => 0

/-- A doorbell write is performed at a queue that takes doorbells (R205, R206, R211): `SQ_TAIL`; `CQ_HEAD`, after which records that wait are written
while the ring has space; `RESUME`, with which a halted queue runs again at `SQ_HEAD`. -/
def State.ringBell (s : State) (b : Bell) (q : QRef) (value : Word) : State :=
  match s.queue? q with
  | none => s
  | some x =>
    let i := bits value.toNat 15 0
    if x.st = .disabled || x.st = .resetting then s
    else match b with
      | .sqTail =>
        if 2 ^ x.sqLog2 ≤ i then s.updQueue q (fun x => { x with dbErr := true })
        else s.updQueue q (fun x => { x with sqTail := i, dbErr := false })
      | .cqHead =>
        if 2 ^ x.cqLog2 ≤ i then s.updQueue q (fun x => { x with dbErr := true })
        else
          let s := s.updQueue q (fun x => { x with cqHead := i, dbErr := false })
          let s := s.drainHeld q x.held
          if q = .admin then s.drainEvents else s
      | .resume =>
        if bit value.toNat 0 && x.st = .halted then s.updQueue q (fun x => { x with st := .running, dbErr := false, fetched := [], asked := none })
        else s

/-- A doorbell write arrives: from the owner, at a module that runs, and at a queue that takes doorbells. It is performed only once every earlier
posted write of the same requester has been accepted at its home, and waits till then (08 R200, 09 R207). -/
def State.bell (s : State) (p : Party) (b : Bell) (q : QRef) (value : Word) : State :=
  let open_ := (s.queue? q).elim false (fun x => x.st != .disabled && x.st != .resetting)
  if !s.running || !s.partyUp p || s.partyDrops p || !ownsDoorbell p q || !open_ then s
  else if s.postedOut (partyFn p) then s.postLater (.bell (partyFn p) b q value)
  else s.ringBell b q value

/-- SQ_TAIL. -/
def execSqTail (p : Party) (q : QRef) (value : Word) (s : State) : Host.Outcome State Fault Refusal := .next (s.bell p .sqTail q value)

/-- CQ_HEAD. -/
def execCqHead (p : Party) (q : QRef) (value : Word) (s : State) : Host.Outcome State Fault Refusal := .next (s.bell p .cqHead q value)

/-- RESUME. -/
def execResume (p : Party) (q : QRef) (value : Word) (s : State) : Host.Outcome State Fault Refusal := .next (s.bell p .resume q value)

end Sys2Proof.Machine
end

