-- ==== Sys2Proof/Machine/CmdMem.lean ====
section
/-! DEFINITION. How Nolzin commands reach memory: translation and its statuses, the order of their accesses at the homes, reads and writes at
homes, over the fabric and at the host, and the pump that moves the data of a DMA command (08 R185, R186, R198; 09 R217, R224; 11 R261,
R265, R270; 12 R290 to R294; 13 R314, R315). A command that must wait is offered again by its row (log 5). -/
namespace Sys2Proof.Machine

/-! ## Addresses of a command -/

/-- What becomes of a command's address: reached, refused with a status and a detail, or still waiting for a host translation, for a line of a
table, or for the host. -/
inductive CmdTo where
  | ok (t : LaneTo)
  | bad (st : Status) (detail : Nat)
  | ask (x : Xlat)
  | held
deriving DecidableEq, Repr

/-- A local address as a physical address of this module. -/
def State.globalPa (s : State) (a : Nat) : Nat := s.fx.pkgId.toNat * 2 ^ 42 + a

/-- `DETAIL` of a failing address: its low 57 bits (09 R216). -/
def failAddr (va : Nat) : Nat := va % 2 ^ 57

/-- Translate an address of a command that began at `since` in `State.hist` (R29, R217, R294). A command that needs the host waits while Bus
Master Enable is 0, for a translation too (13 R314). -/
def State.cmdTo (s : State) (inst since : Nat) (want : Want) (va : Nat) : CmdTo :=
  match s.translate inst want va since with
  | .device pa _ =>
    if s.isLocal pa then .ok (.home (paLocal pa))
    else if (s.egress? (paPkg pa) (paLocal pa)).isNone then .bad .linkDown (paPkg pa)
    else if (s.groupFor inst (paPkg pa)).isNone then .bad .notPermitted (failAddr va)
    else .ok (.remote pa)
  | .host a => if (s.fnCfg (inst + 1)).busMaster then .ok (.host a) else .held
  | .needAts p => if (s.fnCfg (inst + 1)).busMaster then .ask (.needAts p) else .held
  | .needLine l => .ask (.needLine l)
  | .uncorrectable pa => .bad .memUncorrectable (s.globalPa pa)
  | .address => .bad .addressFault (failAddr va)
  | .refused => .bad .addressFault (failAddr va)
  | .permission => .bad .notPermitted (failAddr va)

/-- The 4 KiB pieces of a range: first address and bytes of each. -/
def pagesOf (va len : Nat) : List (Nat × Nat) :=
  if len = 0 then []
  else (List.range ((va + len - 1) / 4096 - va / 4096 + 1)).map (fun i =>
    let lo := max va ((va / 4096 + i) * 4096)
    (lo, min (va + len) ((va / 4096 + i + 1) * 4096) - lo))

/-- The first piece of a range that cannot be reached, checked before any byte is written (R217). -/
def State.rangeBad (s : State) (inst since : Nat) (want : Want) (va len : Nat) : Option CmdTo :=
  ((pagesOf va len).map (fun p => s.cmdTo inst since want p.1)).find? (fun r => match r with
    | .ok _ => false
    | _ => true)

/-- A translation waits for a line of a table whose stack is held. -/
def State.xlatHeld (s : State) : Xlat → Bool
  | .needLine l => (s.stack (s.homeRegion (l * 256))).step = 3
  | _ => false

/-- Whether a command's read waits for a held stack: since now, or since when it did before (11 R270). -/
def State.markHeld (s : State) (cid : Nat) (held : Bool) : State :=
  s.updCmd cid (fun c => { c with heldFrom := if held then some (c.heldFrom.getD s.time) else none })

/-- Ranges that a command names, checked in byte order of their fields; the command ends, waits, or goes on. -/
def State.withRanges (s : State) (c : Cmd) (inst : Nat) : List (Want × Nat × Nat) → State → State
  | [], go => go
  | (want, va, len) :: rest, go =>
    match s.rangeBad inst c.since want va len with
    | none => s.withRanges c inst rest go
    | some (.bad st d) => s.doneCmd c.cid st d
    | some (.ask x) => (s.newChoice.askXlat inst x).markHeld c.cid (s.xlatHeld x)
    | some _ => s

/-- The memory that a range reaches, piece by piece. -/
def State.rangeTo (s : State) (inst since va len : Nat) : List (LaneTo × Nat) :=
  (pagesOf va len).filterMap (fun p => match s.cmdTo inst since .read p.1 with
    | .ok t => some (t, p.2)
    | _ => none)

/-- Two pieces share a byte of one memory. -/
def pieceMeets (a b : LaneTo × Nat) : Bool :=
  match a.1, b.1 with
  | .home x, .home y => decide (x < y + b.2) && decide (y < x + a.2)
  | .remote x, .remote y => decide (x < y + b.2) && decide (y < x + a.2)
  | .host x, .host y => decide (x < y + b.2) && decide (y < x + a.2)
  | _, _ => false

/-! ## Order at the homes (06 R128, 08 R185, R186) -/

/-- The half and bank that a request goes to. -/
def State.bankId (s : State) (line : Nat) : Nat := 64 * s.homeRegion (line * 256) + bankOf (s.setOf (line * 256))

/-- Requests in the queue of the bank of a line, in order of arrival. -/
def State.bankQueue (s : State) (line : Nat) : List Req :=
  s.bankq.filterMap (fun rid => s.reqs.find? (fun (y : Req) => y.rid = rid && s.bankId y.line = s.bankId line))

/-- An access that arrives at the bank of an address is behind others: the bank's queue is not empty, or a request of a core to its sector waits
for HBM. An access of a command, of the host or of another module arrives there when it is performed, and is on its way until then (log 5). -/
def State.behindHbm (s : State) (a : Nat) : Bool :=
  !(s.bankQueue (a / 256)).isEmpty
    || s.reqs.any (fun q => q.target = .home && q.phase = .hbm && q.line = a / 256 && q.sectors.contains (a / 32))

/-- A request of another module that has arrived at its home touches a sector and waits there. -/
def State.inboundAt (s : State) (sec : Nat) : Bool :=
  s.fx.inbound.any (fun i => decide (i.msg.addr.toNat / 32 ≤ sec) && decide (sec < i.msg.addr.toNat / 32 + i.msg.nsect.toNat))

/-- A request of a core of a region to the granule of an address, homed outside the region, is still on its path: an engine of the region
enters the region's egress behind it. -/
def State.behindEgress (s : State) (region a : Nat) : Bool :=
  s.homeRegion a != region && s.reqs.any (fun q => regionOfCore q.core = region && q.target = .home && q.phase = .queued && q.line / 8 = a / 2048)

/-- Region whose engines run a command. -/
def State.cmdRegion (s : State) (c : Cmd) : Nat := (s.queue? c.q).elim 0 (fun q => q.region)

/-- An access of a command at a home has to wait for earlier ones. -/
def State.cmdBehind (s : State) (cid a : Nat) : Bool :=
  s.behindHbm a || s.inboundAt (a / 32) || (s.cmd? cid).elim false (fun c => s.behindEgress (s.cmdRegion c) a)

/-! ## Effects on the command -/

/-- The context and the instance of a tenant command. -/
def State.cmdCtx (s : State) (c : Cmd) : Option CtxRef := s.qCtx c.q

/-- A command reads a dead sector with `DEADCHK` = 1: its context is killed (06 R149). -/
def State.cmdDead (s : State) (x : CtxRef) : State := s.bareFault x .deadRead none

/-- The home's stack is held and the sector is not in the LLC, so a read of it waits (11 R270). -/
def State.hbmHeld (s : State) (a : Nat) : Bool := s.secMissing (a / 32) && (s.stack (s.homeRegion a)).step = 3

/-- Place in `State.hist` of the begin of a command. -/
def State.sinceOf (s : State) (cid : Nat) : Nat := (s.cmd? cid).elim s.histSeq (fun c => c.since)

/-- Transactions outstanding for a command. -/
def State.cmdTxns (s : State) (cid : Nat) : List Txn :=
  s.fx.txns.filter (fun t => match t.owner with
    | .cmd k => decide (k = cid)
    | .dma k _ => decide (k = cid)
    | _ => false)

/-- A command has nothing left to send or to wait for. -/
def State.quiet (s : State) (c : Cmd) : Bool := c.todo.isEmpty && c.out.isEmpty && (s.cmdTxns c.cid).isEmpty

/-- A PCIe request of a command, as a transaction of port 16. -/
def State.hostTxn (s : State) (owner : TxnOwner) (va a : Nat) (o : State → Nat → State) : State :=
  let n := s.fresh
  let t : Txn := { port := 16, num := n.1, owner := owner, dst := va, addr := a, since := s.time, first := s.time, resendAt := none }
  o { n.2 with fx := { n.2.fx with txns := n.2.fx.txns ++ [t] } } n.1

/-- A commit or abort that ends otherwise than by its own completion still finishes its epoch: it publishes or discards (07 R178, log 63). -/
def State.finishSpec (s : State) (x : CtxRef) (c : Cmd) : State :=
  match (s.epochsOf x).find? (fun e => e.num = c.field 16 4 && (e.st = .committing || e.st = .aborting)) with
  | none => s
  | some e => if e.st = .committing then s.publishEpoch x e else s.closeEpoch x e.num

/-- The epoch of a command that is ended early. -/
def State.leaveSpec (s : State) (cid : Nat) : State :=
  match s.cmd? cid with
  | none => s
  | some c =>
    match s.cmdCtx c with
    | some x => if c.phase = .active && (c.opcode = 0x31 || c.opcode = 0x32) then s.finishSpec x c else s
    | none => s

/-- A command ends early, and what it still had to do is dropped (08 R197); a collective breaks its group (07 R175). -/
def State.stopCmd (s : State) (cid : Nat) (st : Status) (detail : Nat) : State :=
  let s := s.leaveSpec cid
  let s := s.updCmd cid (fun c => { c with todo := [], out := [], parts := [], ending := none, heldFrom := none })
  let s := s.orphanTxns (TxnOwner.ofCmd cid)
  let s := match s.fx.groups.find? (fun g => g.coll.elim false (fun k => k.cid = cid)) with
    | some g => s.failColl g.id s.fx.pkgId.toNat st detail
    | none => s
  s.doneCmd cid st detail

/-! ## Writing -/

/-- Split bytes at the sector boundaries of their addresses. -/
def splitSectors (va : Nat) (bs : List Byte) : List (Nat × List Byte) :=
  (splitRange va bs.length).map (fun p => (p.1, (bs.drop (p.1 - va)).take p.2))

/-- Byte enables and sector image of bytes within one sector. -/
def sectorPut (pa : Nat) (bs : List Byte) : BitVec 32 × List Byte :=
  (BitVec.ofNat 32 ((2 ^ bs.length - 1) * 2 ^ (pa % 32)), List.replicate (pa % 32) 0 ++ bs ++ List.replicate (32 - pa % 32 - bs.length) 0)

/-- Write bytes within one sector at a home on a command's behalf; false where it must wait: behind earlier accesses, for the line that a
partial write merges with (06 R130), or for room that a held stack keeps (11 R270). -/
def State.cmdWriteHome (s : State) (x : CtxRef) (cid a : Nat) (bs : List Byte) : State × Bool :=
  let s := s.useRegion cid a
  if s.cmdBehind cid a then (s, false)
  else if bs.length < 32 && s.ctxMissing x (a / 32) then (s.fetchLine (a / 256) 1 (some x.inst) false, false)
  else if s.allocHeld (some x.inst) (a / 256) 0 then (s, false)
  else (s.ctxWrite x a bs, true)

/-- Put the poison marker into a sector at a home on a command's behalf; false where it must wait (11 R265). -/
def State.cmdPoisonHome (s : State) (x : CtxRef) (cid a : Nat) : State × Bool :=
  if s.cmdBehind cid a || s.allocHeld none (a / 256) 0 then (s, false) else (s.ctxPoison x (a / 32), true)

/-- Write bytes within one sector on a command's behalf; false where it must wait. No bytes at all stand for the poison marker: over the fabric a
write that enables no byte (log 62), to the host a poisoned write of a whole sector (11 R265). -/
def State.cmdWrite (s : State) (x : CtxRef) (cid va : Nat) (bs : List Byte) : State × Bool :=
  match s.cmdTo x.inst (s.sinceOf cid) .write va with
  | .bad st d => (s.stopCmd cid st d, true)
  | .ask q => (s.newChoice.askXlat x.inst q, false)
  | .held => (s, false)
  | .ok (.home a) => if bs.isEmpty then s.newChoice.cmdPoisonHome x cid a else s.newChoice.cmdWriteHome x cid a bs
  | .ok (.host a) =>
    if bs.isEmpty then (s.newChoice.sendWrite (x.inst + 1) s.nextId (a / 32 * 32) (List.replicate 32 0) true, true)
    else ({ s.newChoice with hostMem := writeBytes s.hostMem a bs }.sendWrite (x.inst + 1) s.nextId a bs false, true)
  | .ok (.remote pa) =>
    let p := if bs.isEmpty then (0, List.replicate 32 0) else sectorPut pa bs
    match s.newChoice.request x.inst (.cmd cid) pa { Msg.to 2 0 with nsect := 1, firstMask := p.1, cmd := true } p.2 with
    | .ok t => (t, true)
    | _ => (s, false)

/-- A copy that has read poison has sent all its markers: it ends. -/
def State.endPoisoned (s : State) (cid : Nat) : State :=
  match (s.cmd? cid).bind (fun c => c.ending) with
  | some pa => s.stopCmd cid .memUncorrectable pa.toNat
  | none => s

/-- Send the data that waits in a command's `out`, in order, as far as it goes. -/
def State.flushOut (s : State) (x : CtxRef) (cid : Nat) : List (Nat × List Byte) → State
  | [] => (s.updCmd cid (fun c => { c with out := [] })).endPoisoned cid
  | (va, bs) :: rest =>
    match s.cmdWrite x cid va bs with
    | (s, true) => if (s.cmd? cid).elim false (fun c => c.phase = .active) then s.flushOut x cid rest else s
    | (s, false) => s.updCmd cid (fun c => { c with out := (va, bs) :: rest })

/-- Data for a destination range: split, queued and sent as far as it goes. -/
def State.cmdPut (s : State) (x : CtxRef) (cid va : Nat) (bs : List Byte) : State :=
  s.flushOut x cid (((s.cmd? cid).elim [] (fun c => c.out)) ++ splitSectors va bs)

/-- Bytes for part of a destination sector have arrived. They leave as one access once nothing else is to come for that sector (08 R198). -/
def State.cmdPart (s : State) (x : CtxRef) (cid dst : Nat) (bs : List Byte) (more : Bool) : State :=
  match s.cmd? cid with
  | none => s
  | some c =>
    let here := fun (p : Nat × List Byte) => decide (p.1 / 32 = dst / 32)
    let got := c.parts.filter here ++ [(dst, bs)]
    if more then s.updCmd cid (fun c => { c with parts := c.parts ++ [(dst, bs)] })
    else
      let lo := (got.map (fun p => p.1)).foldl min dst
      let hi := (got.map (fun p => p.1 + p.2.length)).foldl max lo
      let all := got.foldl (fun (l : List Byte) p => l.take (p.1 - lo) ++ p.2 ++ l.drop (p.1 - lo + p.2.length)) (List.replicate (hi - lo) 0)
      (s.updCmd cid (fun c => { c with parts := c.parts.filter (fun p => !here p) })).cmdPut x cid lo all

/-- Bytes of a destination range, each sector leaving once `more` says that nothing else is to come for it. -/
def State.cmdParts (s : State) (x : CtxRef) (cid dst : Nat) (bs : List Byte) (more : Nat → Bool) : State :=
  (splitSectors dst bs).foldl (fun s p => s.cmdPart x cid p.1 p.2 (more (p.1 / 32))) s

/-- A poisoned source sector: nothing more is read, the destination sectors of its bytes are poisoned behind the data that waits to be sent, and
then the command ends with `MEM_UNCORRECTABLE` (11 R265). -/
def State.cmdPoison (s : State) (x : CtxRef) (cid va n pa : Nat) : State :=
  let marks := (splitRange va n).map (fun p => (p.1, ([] : List Byte)))
  let s := (s.updCmd cid (fun c => { c with todo := [], parts := [], ending := some (BitVec.ofNat 64 pa) })).orphanTxns (TxnOwner.readOf cid)
  s.flushOut x cid (((s.cmd? cid).elim [] (fun c => c.out)) ++ marks)

/-! ## The pump of a DMA command -/

/-- Missing lines of a granule are read together (06 R146). -/
def State.fetchGranule (s : State) (a cls : Nat) (inst : Option Nat) (hi : Nat) : State :=
  ((List.range 8).map (fun i => a / 2048 * 8 + i)).foldl (fun s l =>
    if a / 256 ≤ l && l * 256 < hi && (List.range 8).any (fun k => s.secMissing (l * 8 + k)) then s.fetchLine l cls inst false else s) s

/-- A source sector is to be declared dead once it has been read: the copy covers it whole (09 R224). -/
def discardNow (c : Cmd) (n : Nat) : Bool := c.opcode = 0x18 && bit (c.byte 40) 0 && decide (n = 32)

/-- A piece that is still to be read, or whose data is still to come, has bytes of a destination sector. -/
def State.partsToCome (s : State) (cid : Nat) (next : Option (Nat × Nat × Nat)) (sec : Nat) : Bool :=
  next.elim false (fun p => p.2.2 != 0 && decide (p.2.1 / 32 ≤ sec) && decide (sec ≤ (p.2.1 + p.2.2 - 1) / 32))
    || s.fx.txns.any (fun t => match t.owner with
      | .dma k ps => decide (k = cid) && ps.any (fun p => decide (p.2.1 / 32 ≤ sec) && decide (sec ≤ (p.2.1 + p.2.2 - 1) / 32))
      | _ => false)

/-- One piece of a copy: `n` bytes of one source sector, read in one access, for destination `dst` (08 R198). False where it must wait. `next` is
the piece after it. -/
def State.copyPiece (s : State) (x : CtxRef) (c : Cmd) (va dst n : Nat) (next : Option (Nat × Nat × Nat)) : State × Bool :=
  match s.cmdTo x.inst c.since .read va with
  | .bad st d => (s.stopCmd c.cid st d, true)
  | .ask q => (s.newChoice.askXlat x.inst q, false)
  | .held => (s, false)
  | .ok (.home a) =>
    let s := s.newChoice.useRegion c.cid a
    if s.cmdBehind c.cid a then (s, false)
    else if s.ctxMissing x (a / 32) then (s.fetchGranule a 1 (some x.inst) (a + (c.field 16 8 + c.field 32 8 - va)), false)
    else
      let done := fun (s : State) (bs : List Byte) =>
        let s := if discardNow c n then s.declareDead (a / 32) (s.deadchk x) else s
        (s.cmdParts x c.cid dst ((bs.drop (a % 32)).take n) (s.partsToCome c.cid next), true)
      match s.ctxReadSector x (a / 32) with
      | .ok bs => if discardNow c n && s.declareHeld (a / 256) (s.deadchk x) then (s, false) else done (s.touch (a / 256)) bs
      | .reread bs => if discardNow c n && s.declareHeld (a / 256) (s.deadchk x) then (s, false) else done (s.countReread x 1) bs
      | .deadFatal => (s.cmdDead x, true)
      | .poison => (s.cmdPoison x c.cid dst n (s.globalPa (a / 32 * 32)), true)
  | .ok (.host a) =>
    if s.hostFits 1 then (s.newChoice.hostTxn (.dma c.cid [(0, dst, n)]) va a (fun s rid => s.sendRead (x.inst + 1) rid a n), true) else (s, false)
  | .ok (.remote pa) =>
    match s.newChoice.request x.inst (.dma c.cid [(pa % 32, dst, n)]) pa { Msg.to 1 0 with nsect := 1, cmd := true } [] with
    | .ok t =>
      if discardNow c n then
        match t.request x.inst (.cmd c.cid) pa
          { Msg.to 5 0 with nsect := 1, cmd := true, op := if s.deadchk x then 1 else 0 } [] with
        | .ok u => (u, true)
        | _ => (s, false)
      else (t, true)
    | _ => (s, false)

/-- Descriptors of a command that are in flight: one for each 1 MiB of a copy with data to come, and one for the piece it stands at (09
R224). -/
def State.descriptors (s : State) (c : Cmd) : List Nat :=
  let index := fun (dst : Nat) => if c.opcode = 0x18 then (dst - c.field 24 8) / 2 ^ 20 else 0
  if c.phase = .active then
    ((s.cmdTxns c.cid).flatMap (fun t => match t.owner with
      | .dma _ parts => parts.map (fun p => index p.2.1)
      | _ => []) ++ (c.out.map (fun p => index p.1))).dedup
  else []

/-- The DMA engine of a region has a descriptor for a piece of a command: one of its own in flight, or one of the engine's 4,096. -/
def State.descriptorFree (s : State) (c : Cmd) (dst : Nat) : Bool :=
  let index := if c.opcode = 0x18 then (dst - c.field 24 8) / 2 ^ 20 else 0
  let r := s.cmdRegion c
  (s.descriptors c).contains index ||
    decide (((s.cmds.filter (fun d => isDmaOp d.opcode && s.cmdRegion d = r)).map (fun d => (s.descriptors d).length)).sum < 4096)

/-- A wait that the watchdog does not measure is over (09 R229). -/
def Cmd.measured (c : Cmd) (now : Nat) : Cmd := if c.mark = 0 then c else { c with unmeasured := c.unmeasured + (now - c.mark), mark := 0 }

/-- Move pieces in order as far as they go. A piece of no bytes ends a row of a strided copy: the next row waits there for what is outstanding,
since it reads what an earlier row wrote (R224). -/
def State.pumpPieces (s : State) (x : CtxRef) (cid : Nat) : List (Nat × Nat × Nat) → State
  | [] => s.updCmd cid (fun c => { c with todo := [] })
  | (src, dst, n) :: rest =>
    let stay := fun (s : State) => s.updCmd cid (fun c => { c with todo := (src, dst, n) :: rest })
    match s.cmd? cid with
    | none => s
    | some c =>
      if c.phase != .active then s
      else if (s.ctx? x).elim true (fun y => y.st = 3 || y.st = 4) then stay s
      else if !c.out.isEmpty then stay s
      else if n = 0 then (if (s.cmdTxns cid).isEmpty then s.pumpPieces x cid rest else stay s)
      else if !s.descriptorFree c dst then stay (s.updCmd cid (fun c => if c.mark = 0 then { c with mark := s.time } else c))
      else match (s.updCmd cid (fun c => c.measured s.time)).copyPiece x c src dst n rest.head? with
        | (s, true) => if ((s.cmd? cid).bind (fun c => c.ending)).isSome then s else s.pumpPieces x cid rest
        | (s, false) => stay s

/-- The region whose engines run a command is held in reset: what a command asks of them gets an error response (14 R322, R326). -/
def State.engineDown (s : State) (c : Cmd) : Bool := s.regionDown (s.cmdRegion c)

/-- Some sector of a range waits on a held stack, or a line of the tables that translate it. -/
def State.rangeHeld (s : State) (inst since va len : Nat) : Bool :=
  (s.rangeTo inst since va len).any (fun p => match p.1 with
    | .home a => (List.range (p.2 / 32 + 2)).any (fun i => s.hbmHeld ((a / 32 + i) * 32) && (a / 32 + i) * 32 < a + p.2)
    | _ => false)
  || (pagesOf va len).any (fun p => match s.cmdTo inst since .read p.1 with
    | .ask q => s.xlatHeld q
    | _ => false)

/-- The next read of a DMA or cache command that is under way, or the merge of its next write, waits on a held stack. -/
def State.pieceHeld (s : State) (c : Cmd) (inst : Nat) : Bool :=
  c.todo.head?.elim false (fun p =>
      if c.opcode = 0x28 || c.opcode = 0x2A then (List.range 8).any (fun i => s.hbmHeld (p.1 * 256 + 32 * i))
      else c.opcode != 0x2B && s.rangeHeld inst c.since p.1 p.2.2)
    || c.out.head?.elim false (fun p => p.2.length % 32 != 0 && s.rangeHeld inst c.since p.1 p.2.length)

/-- Note whether a command that has just moved waits on a held stack (11 R270). -/
def State.noteHeld (s : State) (cid : Nat) : State :=
  match s.cmd? cid with
  | none => s
  | some c => match s.cmdCtx c with
    | none => s
    | some x => if c.phase = .active then s.markHeld cid (s.pieceHeld c x.inst) else s

/-- Move a DMA command forward: first the data that waits, then its pieces. One whose engine is held in reset ends (14 R326); the failing address
is that of its first parameter (DESIGN CHOICE, log 96: the spec names no address for it). -/
def State.pump (s : State) (cid : Nat) : State :=
  match s.cmd? cid with
  | none => s
  | some c =>
    match s.cmdCtx c with
    | none => s
    | some x =>
      if c.phase != .active || !s.engineRuns c.q then s
      else if s.engineDown c then s.stopCmd cid .addressFault (failAddr (c.field 16 8))
      else
        let s := s.flushOut x cid c.out
        (s.pumpPieces x cid ((s.cmd? cid).elim [] (fun c => c.todo))).noteHeld cid

end Sys2Proof.Machine
end

