-- ==== Sys2Proof/Machine/MatrixNum.lean ====
section
/-! DEFINITION. The arithmetic of Eland and Springbok operations: descriptors and their checks, operand layouts, element formats,
accumulation and rounding (04 R93 to R105, 05 R114 to R121). -/
namespace Sys2Proof.Machine

/-! ## Descriptors (04 R94, 05 R114) -/

/-- A decoded descriptor. `m` is `M` of an Eland operation, `B` of a Springbok one. -/
structure MxDesc where
  springbok : Bool
  fmtA : Nat
  fmtW : Nat
  fmtD : Nat
  sat : Bool
  acc : Nat
  parts : Nat
  aScr : Bool
  wScr : Bool
  cScr : Bool
  dScr : Bool
  wlast : Bool
  m : Nat
  n : Nat
  k : Nat
  dStride : Nat
  aAddr : Nat
  aStride : Nat
  wAddr : Nat
  wK : Nat
  wN : Nat
  dAddr : Nat
  cAddr : Nat
  /-- every reserved bit is 0, `KIND` is right, and no encoding is reserved -/
  legal : Bool
deriving DecidableEq, Repr

/-- Word i of a descriptor. -/
def dw (ws : List Word64) (i : Nat) : Nat := (ws.getD i 0).toNat

/-- An Eland descriptor. -/
def elandDesc (ws : List Word64) : MxDesc :=
  let w0 := dw ws 0
  { springbok := false, fmtA := bits w0 11 8, fmtW := bits w0 15 12, fmtD := bits w0 18 16, sat := bit w0 19, acc := bits w0 21 20,
    parts := 2 ^ bits w0 23 22, aScr := bit w0 24, wScr := bit w0 25, cScr := bit w0 26, dScr := bit w0 27, wlast := false,
    m := bits w0 47 32, n := bits (dw ws 1) 19 0, k := bits (dw ws 1) 39 20, dStride := bits (dw ws 1) 63 40,
    aAddr := bits (dw ws 2) 56 0, aStride := bits (dw ws 3) 31 0, wAddr := bits (dw ws 4) 56 0, wK := bits (dw ws 5) 31 0,
    wN := bits (dw ws 5) 63 32, dAddr := bits (dw ws 6) 56 0, cAddr := bits (dw ws 7) 56 0,
    legal := bits w0 7 0 = 1 && bits w0 31 28 = 0 && bits w0 63 48 = 0 && bits (dw ws 2) 63 57 = 0 && bits (dw ws 3) 63 32 = 0
      && bits (dw ws 4) 63 57 = 0 && bits (dw ws 6) 63 57 = 0 && bits (dw ws 7) 63 57 = 0 && bits w0 18 16 ≤ 4
      && bits w0 21 20 != 3 && bits w0 23 22 != 3 }

/-- A Springbok descriptor: `A` is always in scratchpad. -/
def springbokDesc (ws : List Word64) : MxDesc :=
  let w0 := dw ws 0
  { springbok := true, fmtA := bits w0 11 8, fmtW := bits w0 15 12, fmtD := bits w0 18 16, sat := bit w0 19, acc := bits w0 21 20,
    parts := 1, aScr := true, wScr := bit w0 25, cScr := bit w0 26, dScr := bit w0 27, wlast := bit w0 28,
    m := bits w0 35 32, n := bits (dw ws 1) 19 0, k := bits (dw ws 1) 39 20, dStride := bits (dw ws 1) 63 40,
    aAddr := bits (dw ws 2) 31 0, aStride := bits (dw ws 2) 63 32, wAddr := bits (dw ws 4) 56 0, wK := bits (dw ws 5) 31 0,
    wN := bits (dw ws 5) 63 32, dAddr := bits (dw ws 6) 56 0, cAddr := bits (dw ws 7) 56 0,
    legal := bits w0 7 0 = 2 && bits w0 24 22 = 0 && bits w0 31 29 = 0 && bits w0 63 36 = 0 && dw ws 3 = 0
      && bits (dw ws 4) 63 57 = 0 && bits (dw ws 6) 63 57 = 0 && bits (dw ws 7) 63 57 = 0 && bits w0 18 16 ≤ 4
      && bits w0 21 20 != 3 && bits w0 35 32 ≤ 8 }

/-- Weight formats without 16-bit or integer elements. -/
def floatW (w : Nat) : Bool := w ≤ 6 || (11 ≤ w && w ≤ 13)

/-- Class H of Eland (R93): the products are rounded one by one (R104). -/
def MxDesc.classH (d : MxDesc) : Bool := !d.springbok && 8 ≤ d.fmtA && d.fmtA ≤ 9

/-- Format pairs (04 R93, 05 R115). -/
def MxDesc.pairOk (d : MxDesc) : Bool :=
  let i8 := fun x => x = 7 || x = 10
  if d.springbok then
    ((d.fmtA ≤ 3 || d.fmtA = 8 || d.fmtA = 9) && floatW d.fmtW) || (d.fmtA = 8 && d.fmtW = 8) || (d.fmtA = 9 && d.fmtW = 9)
      || (d.fmtA = 10 && i8 d.fmtW)
  else
    (d.fmtA ≤ 6 && floatW d.fmtW) || (i8 d.fmtA && i8 d.fmtW) || (d.fmtA = 8 && d.fmtW = 8) || (d.fmtA = 9 && d.fmtW = 9)

/-- Bits of an element of a format (04 R93). -/
def fmtBits (f : Nat) : Nat :=
  if f = 8 || f = 9 then 16 else if f = 4 || f = 5 then 6 else if f = 6 || f = 11 then 4 else if f = 12 then 3
  else if f = 13 then 2 else 8

/-- Formats with a block scale per 32 elements. -/
def isMx (f : Nat) : Bool := 2 ≤ f && f ≤ 7

/-- Codebook formats. -/
def isCb (f : Nat) : Bool := 11 ≤ f && f ≤ 13

/-- Bytes of an output element. -/
def dBytes (f : Nat) : Nat := if f = 0 then 4 else if f ≤ 2 then 2 else 1

/-- Bytes of a row record of A (04 R97). -/
def MxDesc.recBytes (d : MxDesc) : Nat := d.k * fmtBits d.fmtA / 8 + if isMx d.fmtA then d.k / 32 else 0

/-- Bytes of one column run of a weight block (04 R99). -/
def MxDesc.run (d : MxDesc) : Nat := 16 * fmtBits d.fmtW

/-- Bytes of a weight block (04 R99). -/
def MxDesc.block (d : MxDesc) : Nat :=
  128 * d.run + (if isMx d.fmtW then 512 else 0) + (if isCb d.fmtW then 128 * 2 ^ fmtBits d.fmtW + 128 else 0)

/-- K blocks. -/
def MxDesc.nkb (d : MxDesc) : Nat := cdiv d.k 128
/-- Column groups. -/
def MxDesc.ng (d : MxDesc) : Nat := cdiv d.n 128

/-- Ranges of D, or of C at another base: one per row. -/
def MxDesc.rows (d : MxDesc) (base : Nat) : List (Nat × Nat) :=
  (List.range d.m).map (fun i => (base + i * d.dStride, d.n * dBytes d.fmtD))

/-- Ranges of A. -/
def MxDesc.aRows (d : MxDesc) : List (Nat × Nat) := (List.range d.m).map (fun i => (d.aAddr + i * d.aStride, d.recBytes))

/-- End of an extent; an extent without bytes ends at 0. -/
def extentEnd (rs : List (Nat × Nat)) : Nat := rs.foldl (fun e r => if r.2 = 0 then e else max e (r.1 + r.2)) 0

/-- End of the extent of W. -/
def MxDesc.wEnd (d : MxDesc) : Nat :=
  if d.nkb = 0 || d.ng = 0 then 0 else d.wAddr + (d.nkb - 1) * d.wK + (d.ng - 1) * d.wN + d.block

/-- The checks at issue (04 R95, 05 R116), for a scratchpad of `size` bytes. -/
def MxDesc.valid (d : MxDesc) (size : Nat) : Bool :=
  d.legal && d.pairOk && d.k % 32 = 0
    && d.aAddr % 32 = 0 && d.aStride % 32 = 0 && d.dAddr % 32 = 0 && d.dStride % 32 = 0 && d.cAddr % 32 = 0
    && d.wAddr % 128 = 0 && d.wK % 128 = 0 && d.wN % 128 = 0
    && (d.m ≤ 1 || (d.recBytes ≤ d.aStride && d.n * dBytes d.fmtD ≤ d.dStride))
    && !(d.acc = 2 && (d.dScr || 3 ≤ d.fmtD)) && !(d.sat && (d.fmtD = 0 || d.acc = 2)) && !(d.wlast && d.wScr)
    && (!d.aScr || extentEnd d.aRows ≤ size) && (!d.wScr || d.wEnd ≤ size)
    && (!(d.cScr && d.acc = 1) || extentEnd (d.rows d.cAddr) ≤ size) && (!d.dScr || extentEnd (d.rows d.dAddr) ≤ size)

/-- An operation that reads and writes nothing (04 R96, 05 R117). -/
def MxDesc.empty (d : MxDesc) : Bool := d.m = 0 || d.n = 0 || d.k = 0

/-! ## Units and rounds (04 R102, 05 R120) -/

/-- A unit: an M chunk, a column group and a K part. -/
structure MxUnit where
  chunk : Nat
  group : Nat
  part : Nat
deriving DecidableEq, Repr

/-- Rounds of one M chunk on `e` arrays; the path is one array, and its rounds are its column groups. -/
def MxDesc.chunkRounds (d : MxDesc) (e : Nat) : Nat := cdiv (d.ng * d.parts) e

/-- Rounds of an operation. -/
def MxDesc.rounds (d : MxDesc) (e : Nat) : Nat := if d.empty then 0 else cdiv d.m 256 * d.chunkRounds e

/-- Units of round r, which never spans two chunks: the next `e` in the order of chunk, column group, part. -/
def MxDesc.units (d : MxDesc) (e r : Nat) : List MxUnit :=
  let c := d.chunkRounds e
  (List.range (min e (d.ng * d.parts - r % c * e))).map (fun i =>
    let u := r % c * e + i
    { chunk := r / c, group := u / d.parts, part := u % d.parts })

/-- Rows of a unit's chunk. -/
def MxDesc.chunkRows (d : MxDesc) (c : Nat) : List Nat := (List.range (min 256 (d.m - 256 * c))).map (fun i => 256 * c + i)

/-- K blocks of a unit's part, ascending. -/
def MxDesc.kbs (d : MxDesc) (p : Nat) : List Nat := (List.range d.nkb).filter (fun kb => kb % d.parts = p)

/-- Columns of a group that are below `N`, and are written; all 128 are computed (04 R99). -/
def MxDesc.cols (d : MxDesc) (g : Nat) : Nat := min 128 (d.n - 128 * g)

/-! ## Tiles (04 R93, R102, R108, 05 R120) -/

/-- Two K blocks share a tile (class F4), or one fills two (class H). The path takes a K block at a time. -/
def MxDesc.pairTile (d : MxDesc) : Bool := !d.springbok && d.fmtA = 6 && d.fmtW = 6

/-- Tiles of a unit: those of part 0, which has the most K blocks. -/
def MxDesc.tiles (d : MxDesc) : Nat :=
  let n := (d.kbs 0).length
  if d.classH then 2 * n else if d.pairTile then cdiv n 2 else n

/-- What tile t of a part takes, as (K block, first row, end of the rows); nothing where the part has fewer tiles. -/
def MxDesc.spans (d : MxDesc) (p t : Nat) : List (Nat × Nat × Nat) :=
  let ks := d.kbs p
  if d.classH then ((ks.drop (t / 2)).take 1).map (fun kb => (kb, 64 * (t % 2), 64 * (t % 2) + 64))
  else if d.pairTile then ((ks.drop (2 * t)).take 2).map (fun kb => (kb, 0, 128))
  else ((ks.drop t).take 1).map (fun kb => (kb, 0, 128))

/-- Units of the round of a stage. -/
def MxDesc.stageUnits (d : MxDesc) (e n : Nat) : List MxUnit := d.units e (n / d.tiles)

/-! ## What an operation reads (04 R97 to R99) -/

/-- Rows of K block kb that are below `K`. -/
def MxDesc.rowsOf (d : MxDesc) (kb : Nat) : Nat := min 128 (d.k - 128 * kb)

/-- Ranges of the elements and scales of rows `lo` to below `hi` of one K block of a row record. -/
def MxDesc.segment (d : MxDesc) (m : Nat) (x : Nat × Nat × Nat) : List (Nat × Nat) :=
  let b := d.aAddr + m * d.aStride
  let n := min x.2.2 (d.rowsOf x.1) - x.2.1
  (b + (128 * x.1 + x.2.1) * fmtBits d.fmtA / 8, n * fmtBits d.fmtA / 8)
    :: (if isMx d.fmtA then [(b + d.k * fmtBits d.fmtA / 8 + 4 * x.1 + x.2.1 / 32, n / 32)] else [])

/-- Ranges of one weight block, or of rows of it, that are read. -/
def MxDesc.blockRanges (d : MxDesc) (x : Nat × Nat × Nat) (g : Nat) : List (Nat × Nat) :=
  let b := d.wAddr + x.1 * d.wK + g * d.wN
  let r := min x.2.2 (d.rowsOf x.1) - x.2.1
  if r = 128 then [(b, d.block)]
  else (List.range 128).map (fun n => (b + n * d.run + x.2.1 * fmtBits d.fmtW / 8, r * fmtBits d.fmtW / 8))
    ++ (if isMx d.fmtW then (List.range 128).map (fun n => (b + 128 * d.run + 4 * n, r / 32)) else [])
    ++ (if isCb d.fmtW then [(b + 128 * d.run, 128 * 2 ^ fmtBits d.fmtW + 128)] else [])

/-- Ranges of A that a tile of a round reads. -/
def MxDesc.aReads (d : MxDesc) (us : List MxUnit) (t : Nat) : List (Nat × Nat) :=
  match us with
  | [] => []
  | u :: _ => (d.chunkRows u.chunk).flatMap (fun m => (distinct (us.map (fun v => v.part))).flatMap (fun p => (d.spans p t).flatMap (d.segment m)))

/-- Ranges of W that a tile of a round reads, unit after unit. -/
def MxDesc.wReads (d : MxDesc) (us : List MxUnit) (t : Nat) : List (Nat × Nat) :=
  us.flatMap (fun u => (d.spans u.part t).flatMap (fun x => d.blockRanges x u.group))

/-- Rows of a unit in C or D. -/
def MxDesc.unitRows (d : MxDesc) (base : Nat) (u : MxUnit) : List (Nat × Nat) :=
  (d.chunkRows u.chunk).map (fun m => (base + m * d.dStride + 128 * u.group * dBytes d.fmtD, d.cols u.group * dBytes d.fmtD))

/-- A unit is the last of its chunk and column group: its outputs are complete. -/
def MxDesc.last (d : MxDesc) (u : MxUnit) : Bool := u.part + 1 = d.parts

/-- Ranges of C that a round reads, with its last tile. -/
def MxDesc.cReads (d : MxDesc) (us : List MxUnit) (t : Nat) : List (Nat × Nat) :=
  if d.acc = 1 && t + 1 = d.tiles then (us.filter d.last).flatMap (fun u => d.unitRows d.cAddr u) else []

/-- Scratchpad ranges that a round reads. -/
def MxDesc.scratchReads (d : MxDesc) (us : List MxUnit) : List (Nat × Nat) :=
  (List.range d.tiles).flatMap (fun t =>
    (if d.aScr then d.aReads us t else []) ++ (if d.wScr then d.wReads us t else []) ++ (if d.cScr then d.cReads us t else []))

/-- Scratchpad ranges that the rounds of an operation from `r` on still have to write. -/
def MxDesc.scratchOwed (d : MxDesc) (e r : Nat) : List (Nat × Nat) :=
  if d.dScr then
    (List.range (d.rounds e - r)).flatMap (fun i => ((d.units e (r + i)).filter d.last).flatMap (fun u => d.unitRows d.dAddr u))
  else []

/-- Two lists of ranges share a byte. -/
def rangesMeet (a b : List (Nat × Nat)) : Bool :=
  a.any (fun x => b.any (fun y => decide (x.1 < y.1 + y.2) && decide (y.1 < x.1 + x.2)))

/-- The 32-byte sectors of ranges, each once. -/
def sectorsOf (rs : List (Nat × Nat)) : List Nat :=
  distinct (rs.flatMap (fun r => if r.2 = 0 then [] else
    (List.range ((r.1 + r.2 - 1) / 32 - r.1 / 32 + 1)).map (fun i => r.1 / 32 + i)))

/-! ## Elements (04 R98, R100, R101) -/

/-- `w` bits at bit `k` of a run at address `a`. -/
def runBits (b : Nat → Nat) (a k w : Nat) : Nat :=
  let p := a + k / 8
  (b p + 256 * b (p + 1) + 65536 * b (p + 2)) / 2 ^ (k % 8) % 2 ^ w

/-- An integer as a value. -/
def intFV (x : Int) : FV := .fin (decide (x < 0)) x.natAbs 0

/-- The value of an element. -/
def mxElem (f x : Nat) : FV :=
  if f = 0 || f = 2 then fmtE4M3.decode x else if f = 1 || f = 3 then fmtE5M2.decode x else if f = 4 then fmtE2M3.decode x
  else if f = 5 then fmtE3M2.decode x else if f = 6 then fmtE2M1.decode x else if f = 8 then fmtBF16.decode x
  else if f = 9 then fmtF16.decode x else intFV (signed x 8)

/-- A[m][k]. -/
def MxDesc.aElem (d : MxDesc) (b : Nat → Nat) (m k : Nat) : FV :=
  mxElem d.fmtA (runBits b (d.aAddr + m * d.aStride) (fmtBits d.fmtA * k) (fmtBits d.fmtA))

/-- Scale of A for row m and 32-element group j. -/
def MxDesc.aScale (d : MxDesc) (b : Nat → Nat) (m j : Nat) : Nat :=
  if isMx d.fmtA then b (d.aAddr + m * d.aStride + d.k * fmtBits d.fmtA / 8 + j) else 127

/-- Code of W for row k of K block kb, column n; an index of a codebook is replaced by its entry (R101). -/
def MxDesc.wCode (d : MxDesc) (b : Nat → Nat) (kb n k : Nat) : Nat :=
  let blk := d.wAddr + kb * d.wK + n / 128 * d.wN
  let w := fmtBits d.fmtW
  let x := runBits b (blk + n % 128 * d.run) (w * k) w
  if isCb d.fmtW then b (blk + 128 * d.run + 2 ^ w * (n % 128) + x) else x

/-- The value of a code of W. -/
def MxDesc.wVal (d : MxDesc) (x : Nat) : FV := mxElem (if isCb d.fmtW then 0 else d.fmtW) x

/-- Scale of W for K block kb, column n, group g. -/
def MxDesc.wScale (d : MxDesc) (b : Nat → Nat) (kb n g : Nat) : Nat :=
  let blk := d.wAddr + kb * d.wK + n / 128 * d.wN + 128 * d.run
  if isMx d.fmtW then b (blk + 4 * (n % 128) + g)
  else if isCb d.fmtW then b (blk + 128 * 2 ^ fmtBits d.fmtW + n % 128) else 127

/-! ## Accumulation (04 R103, R104) -/

/-- Multiply a value by 2^j. -/
def FV.shift (j : Int) : FV → FV
  | .fin s m e => .fin s m (e + j)
  | v => v

/-- Sum adjacent pairs in FP32, level by level. -/
def treeSum : Nat → List Nat → Nat
  | 0, l => l.headD 0
  | n + 1, l => treeSum n (pairs l)
where
  /-- one level -/
  pairs : List Nat → List Nat
    | a :: b :: l => addF32 a b :: pairs l
    | l => l

/-- A group sum, as FP32 bits: row m of A against codes `wc` (by row of the K block) and scales `ws` (by group) of one column of W. -/
def MxDesc.groupSum (d : MxDesc) (ba wc ws : Nat → Nat) (m kb g : Nat) : Nat :=
  if d.k ≤ 128 * kb + 32 * g then 0
  else
    let sa := d.aScale ba m (4 * kb + g)
    let sw := ws g
    let ps := (List.range 32).map (fun i => FV.mul (d.aElem ba m (128 * kb + 32 * g + i)) (d.wVal (wc (32 * g + i))))
    if d.classH then treeSum 5 (ps.map (fmtF32.encode 0 false))
    else if (isMx d.fmtA && sa = 255) || ((isMx d.fmtW || isCb d.fmtW) && sw = 255) then fmtF32.nan
    else
      let e : Int := (sa : Int) + sw - 254 - (if d.fmtA = 7 then 6 else 0) - (if d.fmtW = 7 then 6 else 0)
      fmtF32.encode 0 false ((ps.foldl (FV.add 0) (.fin false 0 0)).shift e)

/-- What one K block adds to an accumulator (R103). -/
def MxDesc.blockSum (d : MxDesc) (ba wc ws : Nat → Nat) (m kb : Nat) : Nat :=
  let s := d.groupSum ba wc ws m kb
  addF32 (addF32 (s 0) (s 1)) (addF32 (s 2) (s 3))

/-- One value per row and column, row by row over the 128 columns of a group, from the values of before. -/
def perOutput (rows : List Nat) (old : List Nat) (f : (old m col : Nat) → Nat) : List Nat :=
  rows.zipIdx.flatMap (fun r => (List.range 128).map (fun n => f (old.getD (r.2 * 128 + n) 0) r.1 n))

/-- Accumulators after one more K block. -/
def MxDesc.accumulate (d : MxDesc) (ba : Nat → Nat) (wc : (col row : Nat) → Nat) (ws : (col grp : Nat) → Nat) (rows : List Nat)
    (kb : Nat) (acc : List Nat) : List Nat :=
  perOutput rows acc (fun old m n => addF32 old (d.blockSum ba (wc n) (ws n) m kb))

/-! ## An Eland array (04 R92, R108) -/

/-- Decoded elements of rows of a K block of column group g, row by row over its 128 columns. -/
def MxDesc.tileCodes (d : MxDesc) (bw : Nat → Nat) (g : Nat) (x : Nat × Nat × Nat) : List Nat :=
  (List.range (min x.2.2 (d.rowsOf x.1) - x.2.1)).flatMap (fun k => (List.range 128).map (fun n => d.wCode bw x.1 (128 * g + n) (x.2.1 + k)))

/-- Scales of a K block, by 32-row group and column. -/
def MxDesc.tileScales (d : MxDesc) (bw : Nat → Nat) (g : Nat) (x : Nat × Nat × Nat) : List Nat :=
  (List.range 4).flatMap (fun q => (List.range 128).map (fun n => d.wScale bw x.1 (128 * g + n) q))

/-- Load a tile of a unit into a weight buffer; the second K block of a tile goes behind the first. -/
def Eland.load (x : Eland) (d : MxDesc) (bw : Nat → Nat) (buf : Nat) (u : MxUnit) (t : Nat) : Eland :=
  { x with wbuf := updAt x.wbuf buf (fun _ => (d.spans u.part t).flatMap (d.tileCodes bw u.group)),
           scale := updAt x.scale buf (fun _ => (d.spans u.part t).flatMap (d.tileScales bw u.group)) }

/-- The code that a cell uses for a column and row k of a K block whose rows from `lo` are the j-th span of a buffer. -/
def Eland.code (x : Eland) (buf j lo col k : Nat) : Nat := (x.wbuf.getD buf []).getD ((k - lo + 128 * j) * 128 + col) 0

/-- The scale that a column uses for a group of the j-th span of a buffer. -/
def Eland.scaleOf (x : Eland) (buf j col q : Nat) : Nat := (x.scale.getD buf []).getD ((q + 4 * j) * 128 + col) 0

/-- Stream the rows of a chunk through one span of a buffer: a K block is added to the accumulators, in class H by halves (R103). -/
def Eland.stream (x : Eland) (d : MxDesc) (ba : Nat → Nat) (bank buf : Nat) (rows : List Nat) (j : Nat) (sp : Nat × Nat × Nat) : Eland :=
  let wc := fun (n : Nat) => x.code buf j sp.2.1 n
  let ws := fun (n : Nat) => x.scaleOf buf j n
  if !d.classH then { x with acc := updAt x.acc bank (d.accumulate ba wc ws rows sp.1) }
  else
    let pair := fun (m n q : Nat) => addF32 (d.groupSum ba (wc n) (ws n) m sp.1 q) (d.groupSum ba (wc n) (ws n) m sp.1 (q + 1))
    if sp.2.1 = 0 then { x with half := perOutput rows [] (fun _ m n => pair m n 0) }
    else
      let sums := perOutput rows x.half (fun old m n => addF32 old (pair m n 2))
      { x with acc := updAt x.acc bank (fun acc => (sums.zipIdx).map (fun p => addF32 (acc.getD p.2 0) p.1)) }

/-- Run a tile of a unit from a buffer; the bank of its round starts at zero with the first tile (R102, R103). -/
def Eland.run (x : Eland) (d : MxDesc) (ba : Nat → Nat) (bank buf : Nat) (u : MxUnit) (t : Nat) : Eland :=
  let x := if t = 0 then { x with acc := updAt x.acc bank (fun _ => []) } else x
  (d.spans u.part t).zipIdx.foldl (fun x p => x.stream d ba bank buf (d.chunkRows u.chunk) p.2 p.1) x

/-! ## The Springbok path (05 R113, R119, R120) -/

/-- The activation set fits in the operand buffer. -/
def MxDesc.resident (d : MxDesc) : Bool := d.m * d.recBytes ≤ 65536

/-- Bytes of a buffered range. -/
def bufByte (l : List (Nat × List Byte)) (a : Nat) : Nat :=
  match l.find? (fun x => decide (x.1 ≤ a) && decide (a < x.1 + x.2.length)) with
  | some x => (x.2.getD (a - x.1) 0).toNat
  | none => 0

/-- Load ranges of scratchpad into the operand buffer. -/
def Path.load (x : Path) (rs : List (Nat × Nat)) (scr : Memory) : Path :=
  { x with abuf := rs.map (fun r => (r.1, readBytes scr r.1 r.2)) }

/-- Run a weight block of a column group: a set that is not resident is loaded segment by segment, before each block. -/
def Path.run (x : Path) (d : MxDesc) (scr : Memory) (bw : Nat → Nat) (g kb : Nat) : Path :=
  let rows := List.range d.m
  let x := if kb = 0 then { x with acc := [] } else x
  let x := if d.resident then x else x.load (rows.flatMap (fun m => d.segment m (kb, 0, 128))) scr
  { x with acc := d.accumulate (bufByte x.abuf) (fun n => d.wCode bw kb (128 * g + n)) (fun n => d.wScale bw kb (128 * g + n)) rows kb x.acc }

/-! ## Results (04 R103, R105) -/

/-- Format of D and C. -/
def dFmt (f : Nat) : Fmt := if f = 0 then fmtF32 else if f = 1 then fmtBF16 else if f = 2 then fmtF16 else if f = 3 then fmtE4M3 else fmtE5M2

/-- The sum of the K parts. -/
def sumParts : List Nat → Nat
  | [a] => a
  | [a, b] => addF32 a b
  | [a, b, c, e] => addF32 (addF32 a b) (addF32 c e)
  | _ => 0

/-- The result r of element (m, n), in FP32, from the accumulators of its parts. -/
def MxDesc.result (d : MxDesc) (bc : Nat → Nat) (m n : Nat) (parts : List Nat) : Nat :=
  let e := dBytes d.fmtD
  let c := runBits bc (d.cAddr + m * d.dStride + n * e) 0 (min 16 (8 * e))
    + if e = 4 then 65536 * runBits bc (d.cAddr + m * d.dStride + n * e + 2) 0 16 else 0
  addF32 (sumParts parts) (if d.acc = 1 then fmtF32.encode 0 false ((dFmt d.fmtD).decode c) else 0)

/-- The bytes that element (m, n) sends: the converted result, or for `ACC` = 0x2 the FP32 operand of an add (R105). -/
def MxDesc.outElem (d : MxDesc) (bc : Nat → Nat) (m n : Nat) (parts : List Nat) : List Byte :=
  let r := d.result bc m n parts
  if d.acc = 2 then leBytes r 4 else leBytes ((dFmt d.fmtD).encode 0 d.sat (fmtF32.decode r)) (dBytes d.fmtD)

/-- Bytes of an element as it is sent. -/
def MxDesc.sentBytes (d : MxDesc) : Nat := if d.acc = 2 then 4 else dBytes d.fmtD

/-- Key of an element's sum of one part in `MxOp.combine`. -/
def MxDesc.combineKey (d : MxDesc) (m n p : Nat) : Nat := 4 * (m * d.n + n) + p

/-- Accumulators of a unit as entries of the combine store. -/
def MxDesc.combineUnit (d : MxDesc) (u : MxUnit) (acc : List Nat) : List (Nat × Nat) :=
  (d.chunkRows u.chunk).zipIdx.flatMap (fun r => (List.range (d.cols u.group)).map (fun n =>
    (d.combineKey r.1 (128 * u.group + n) u.part, acc.getD (r.2 * 128 + n) 0)))

/-- Output rows of a unit, from the combine store: (address, bytes). -/
def MxDesc.outputs (d : MxDesc) (bc : Nat → Nat) (combine : List (Nat × Nat)) (u : MxUnit) : List (Nat × List Byte) :=
  (d.chunkRows u.chunk).map (fun m =>
    (d.dAddr + m * d.dStride + 128 * u.group * dBytes d.fmtD,
     (List.range (d.cols u.group)).flatMap (fun i =>
       let n := 128 * u.group + i
       d.outElem bc m n ((List.range d.parts).map (fun p => ((combine.find? (fun x => x.1 = d.combineKey m n p)).map Prod.snd).getD 0)))))

/-- The combine store without the sums of a unit whose outputs are complete. -/
def MxDesc.combined (d : MxDesc) (combine : List (Nat × Nat)) (u : MxUnit) : List (Nat × Nat) :=
  combine.filter (fun x => !((d.chunkRows u.chunk).contains (x.1 / 4 / d.n) && x.1 / 4 % d.n / 128 = u.group))

end Sys2Proof.Machine
end

