-- ==== Sys2Proof/Machine/MemInstr.lean ====
section
/-! DEFINITION. The memory instructions: LD, ST, ATOM and ST.ADD (03 R76 to R83, 08). -/
namespace Sys2Proof.Machine

/-! ## Encodings (03 R76, R81, R83) -/

/-- `LD` and `ST` fields in their ranges, and their combinations with a space (R76, R77). -/
def ldstOk (f : Fields) : Bool :=
  !f.form && lowBits f 12 10 ≤ 4 && fSpace f ≤ 1 && fScope f ≤ 6 && (!lowBit f 1 || fScope f != 0)
    && (fSpace f = 0 || (fScope f ≤ 2 && !lowBit f 1 && !lowBit f 4 && !lowBit f 3))

/-- Registers that `n` bytes take. -/
def spanOf (n : Nat) : Nat := cdiv n 4

/-- `LD`. -/
def ldShape (f : Fields) : Shape :=
  { ok := ldstOk f && unused f.sb && (!lowBit f 13 || lowBits f 12 10 ≤ 1) && (!lowBit f 0 || fUbase f),
    src := [baseUse f (fSpace f = 0)], dst := [{ uni := lowBit f 0, r := f.dst.toNat, span := spanOf (fSize f) }] }

/-- The data register of `ST`. -/
def stData (f : Fields) : Use := { uni := lowBit f 0, r := f.sb.toNat, span := spanOf (fSize f) }

/-- `ST`. -/
def stShape (f : Fields) : Shape :=
  { ok := ldstOk f && unused f.dst && !lowBit f 13 && !lowBit f 4 && !lowBit f 3,
    src := [baseUse f (fSpace f = 0), stData f], dst := [] }

/-- `AOP`. -/
def fAOP (f : Fields) : Nat := lowBits f 17 14

/-- `ATOM`. -/
def atomShape (f : Fields) : Shape :=
  let n := spanOf (fSize f)
  let cas := fAOP f = 9
  { ok := !f.form && fAOP f ≤ 10 && !lowBit f 13 && (lowBits f 12 10 = 2 || (lowBits f 12 10 = 3 && fAOP f != 10)) && fSpace f ≤ 1
      && fScope f != 0 && fScope f ≤ 6 && (fSpace f = 0 || fScope f ≤ 2) && lowBits f 4 3 = 0 && (cas || fSC f = 255),
    src := baseUse f (fSpace f = 0) :: { uni := false, r := f.sb.toNat, span := n }
      :: (if cas then [{ uni := false, r := fSC f, span := n }] else []),
    dst := [{ uni := false, r := f.dst.toNat, span := n }] }

/-- `AFMT`. -/
def fAFMT (f : Fields) : Nat := lowBits f 12 10

/-- Bytes per lane of `ST.ADD`. -/
def addSize (f : Fields) : Nat := fmtBytes (fAFMT f) * 2 ^ lowBits f 9 8

/-- `ST.ADD`. -/
def stAddShape (f : Fields) : Shape :=
  { ok := !f.form && unused f.dst && !lowBit f 13 && fAFMT f ≤ 4 && lowBits f 9 8 ≤ 2 && !(fAFMT f = 4 && lowBits f 9 8 = 2)
      && lowBits f 7 3 = 0 && lowBits f 1 0 = 0,
    src := [baseUse f true, { uni := false, r := f.sb.toNat, span := spanOf (addSize f) }], dst := [] }

/-! ## LD -/

/-- The value of a register from loaded bytes: 1 and 2 bytes are extended to 32 bits. -/
def extend (sx : Bool) (n v : Nat) : Nat :=
  if 4 ≤ n then v else if sx then (BitVec.ofInt 32 (signed v (8 * n))).toNat else v

/-- Accesses of a load: one per acting lane, or one for the herd where its destination is uniform. -/
def loadLanes (f : Fields) (act : LaneMask) : List Nat := if lowBit f 0 then [lowLane act] else laneList act

/-- Scratchpad load. -/
def State.ldScratch (s : State) (r : HerdRef) (f : Fields) (h : Herd) (act : LaneMask) : State :=
  let n := fSize f
  let u : Use := { uni := lowBit f 0, r := f.dst.toNat, span := spanOf n }
  let xs := (loadLanes f act).map (fun l => (l, scratchOff h f (fOFS f) l))
  let mem := s.scratch r h
  let put := fun (y : Herd) => (xs.foldl (fun y x => y.write u x.1 (extend (lowBit f 13) n (leNat (readBytes mem x.2 n)))) y).next
  s.withScratch r h n xs (s.updHerd r put)

/-- A stream request has a landing line: one is free, and no older stream request of the core waits for a credit (06 R144). -/
def State.landingFree (s : State) (core : Nat) : Bool :=
  decide (0 < (s.core core).landing) && !s.reqs.any (fun q => q.core = core && q.owesCredit)

/-- A request for data of a line of this module; of the stream class with a credit where a landing line is free (06 R144). -/
def State.addFetch (s : State) (q : Nat → Req) : State :=
  let stream := (q s.nextId).stream
  let core := (q s.nextId).core
  let cr := stream && s.landingFree core
  let s := s.addReq (fun rid => { q rid with credited := cr })
  if cr then s.updCore core (fun c => { c with landing := c.landing - 1 }) else s

/-- Landing lines for the stream requests to other modules of some virtual or physical lines: one each, or the requests wait, since no field of an
`RD` tells the other module's home of a credit (12 R290, log 97). -/
def State.landFar (s : State) (core n : Nat) : Bool :=
  n = 0 || (decide (n ≤ (s.core core).landing) && s.landingFree core)

/-- The first of some requests of one line holds its landing line. -/
def creditFirst (xs : List ((Nat → Req) × Nat × Msg × List Byte)) : List ((Nat → Req) × Nat × Msg × List Byte) :=
  match xs with
  | [] => []
  | x :: rest => (fun rid => { x.1 rid with credited := true }, x.2) :: rest

/-- `n` landing lines are taken. -/
def State.takeLanding (s : State) (core n : Nat) : State := s.updCore core (fun c => { c with landing := c.landing - n })

/-- What a load's requests have in common. -/
def loadReq (op : Nat) (r : HerdRef) (f : Fields) (h : Herd) (t : Target) (line : Nat) (lanes : List LaneAcc) (rid : Nat) : Req :=
  { herdReq rid op r h .read t line lanes with
    dst := f.dst.toNat, udst := lowBit f 0, sx := lowBit f 13, scope := fScope f, acquire := lowBit f 1 }

/-- Requests of a load for the lines of this module that miss: those whose sectors are in flight join the miss register of their line, the
others send one request per line (02 R45, 06 R141). -/
def State.ldHome (s : State) (op : Nat) (r : HerdRef) (f : Fields) (h : Herd) : List (Nat × List LaneAcc) → State
  | [] => s
  | (line, lanes) :: rest =>
    let how := lanes.map (fun x => (x, s.joins r h (fScope f) x))
    let fresh := (how.filter (fun x => x.2.isNone)).map (fun x => x.1)
    let old := distinct (how.filterMap (fun x => x.2))
    let s := if fresh.isEmpty then s
      else s.addFetch (fun rid => { loadReq op r f h .home line fresh rid with stream := lowBit f 3, last := lowBit f 4 })
    let s := old.foldl (fun s k =>
      s.addReq (fun rid => { loadReq op r f h .home line ((how.filter (fun x => x.2 = some k)).map (fun x => x.1)) rid with
                             stream := lowBit f 3, credited := false, phase := .joined k })) s
    State.ldHome s op r f h rest

/-- A load's requests to other modules: one per sector; those of a stream load take a landing line for each line. -/
def ldRemote (op : Nat) (r : HerdRef) (f : Fields) (h : Herd) (xs : List LaneAcc) : List ((Nat → Req) × Nat × Msg × List Byte) :=
  (groupLanes (fun x => x.pa / 256) xs).flatMap (fun l =>
    let reqs : List ((Nat → Req) × Nat × Msg × List Byte) := (groupLanes (fun x => x.pa / 32) l.2).map (fun g =>
      (fun rid => { loadReq op r f h .remote (g.1 / 8) g.2 rid with stream := lowBit f 3 }, g.1 * 32,
       { Msg.to 1 0 with nsect := 1, stream := lowBit f 3 }, []))
    if lowBit f 3 then creditFirst reqs else reqs)

/-- Lines of other modules that a stream load fetches. -/
def farLines (f : Fields) (xs : List LaneAcc) : Nat := if lowBit f 3 then (distinct (xs.map (fun x => x.pa / 256))).length else 0

/-- A dead declaration of other modules' lines that a `.LAST` load touched (03 R78). -/
def deadRemote (op : Nat) (r : HerdRef) (h : Herd) (chk : Bool) (xs : List LaneAcc) : List ((Nat → Req) × Nat × Msg × List Byte) :=
  (groupLanes (fun x => x.pa / 256) xs).map (fun g =>
    (fun rid => herdReq rid op r h (.declare chk) .remote g.1 [], g.1 * 256,
     { Msg.to 5 0 with nsect := 8, op := if chk then 1 else 0 }, []))

/-- A load's host reads, one per lane, through its function (13 R315). -/
def State.ldHost (s : State) (op : Nat) (r : HerdRef) (f : Fields) (h : Herd) (xs : List LaneAcc) : State :=
  xs.foldl (fun s x =>
    let n := s.nextId
    (s.addReq (loadReq op r f h .host (x.pa / 256) [x])).sendRead (h.inst + 1) n x.pa x.size) s

/-- Global load, from L1 where its scope and L1 allow, else at the home of each line (03 R78 to R80). -/
def State.ldGlobal (s : State) (r : HerdRef) (f : Fields) (h : Herd) (act : LaneMask) : State :=
  let n := fSize f
  let u : Use := { uni := lowBit f 0, r := f.dst.toNat, span := spanOf n }
  let since := s.kernelSince r.core h.slot
  let mk := fun l => let va := globalVa h f (fOFS f) l; LaneVa.mk l va (s.laneTo h.inst since .read va n)
  s.withLanes r h ((loadLanes f act).map mk) (fun s ts =>
    let acc := fun l va a => ({ lane := l, va := va, pa := a, size := n, data := 0, cmp := 0 } : LaneAcc)
    let l1 := s.l1 r h
    let near := fun (x : LaneAcc) => decide (fScope f ≤ 1) && (l1Hit l1 x.pa).isSome
    let home := homeLanes ts acc
    let hits := home.filter near
    let misses := home.filter (fun x => !near x)
    let far := remoteLanes ts acc
    let lines := groupLanes (fun x => x.pa / 256) misses
    let regs := lines.map (fun g => (Target.home, g.1)) ++ far.map (fun x => (Target.remote, x.pa / 256))
      ++ (hostLanes ts acc).map (fun x => (Target.host, x.pa / 256))
    if !s.missFits r.core regs then s.holdPipe r
    else if !s.hostFits (hostLanes ts acc).length || !s.landFar r.core (farLines f far) then s
    else
      let chk := s.deadchk h.ctxRef
      let (op, s1) := s.fresh
      match s1.sendAll h.inst (ldRemote op r f h far ++ (if lowBit f 4 then deadRemote op r h chk far else [])) with
      | (_, false) => s
      | (s, true) =>
        let s := (s.takeLanding r.core (farLines f far)).ldHome op r f h lines
        let s := s.ldHost op r f h (hostLanes ts acc)
        let s := if lowBit f 4 then
            (groupLanes (fun x => x.pa / 256) home).foldl (fun s g =>
              s.addReq (fun rid => herdReq rid op r h (.declare chk) .home g.1 [])) s
          else s
        let s := (distinct (hits.map (fun x => x.pa / 256))).foldl (fun s l => s.touchL1 { core := r.core, slot := h.slot } l) s
        let served := fun (y : Herd) => hits.foldl (fun y x =>
          match l1Hit l1 x.pa with
          | some l => y.write u x.lane (extend (lowBit f 13) n (lineBytes l.data x.pa n))
          | none => y) y
        let waits := lowBit f 1 && hits.length < ts.length
        s.updHerd r (fun y => { (served y).next with acquire := if waits then some (fScope f) else y.acquire }))

/-- An uncorrectable error of a core's memory on a herd's behalf: the context is killed and class 0x02 recorded (16 R370). -/
def State.sramKill (s : State) (r : HerdRef) (h : Herd) (act : LaneMask) (memory : Nat) : State :=
  (s.herdFault r h .eccUncorrectable (lowLane act) 0).coreUe r.core memory h.inst

/-- The lines of L1 that a load touches are invalidated, to be fetched again (16 R370). -/
def State.dropTouched (s : State) (r : HerdRef) (f : Fields) (h : Herd) (act : LaneMask) : State :=
  let pas := (loadLanes f act).filterMap (fun l =>
    match s.laneTo h.inst (s.kernelSince r.core h.slot) .read (globalVa h f (fOFS f) l) 1 with
    | .ok (.home a) => some (a / 256)
    | _ => none)
  s.updSlot { core := r.core, slot := h.slot } (fun (y : Slot) => { y with l1 := y.l1.filter (fun l => !pas.contains l.line) })

/-- LD: `err` is what the access meets in the core's SRAM. -/
def execLd (r : HerdRef) (f : Fields) (err : CoreErr) (s : State) : Host.Outcome State Fault Refusal :=
  .next (s.issueMem r f (ldShape f) false (fun s h act =>
    let go := fun (s : State) => if fSpace f = 1 then s.ldScratch r f h act else s.ldGlobal r f h act
    match err with
    | .none => go s
    | .corrected m => go (s.coreCe r.core m)
    | .uncorrectable m =>
      if m = 0 || m = 2 then s.sramKill r h act m
      else if m = 1 then go ((s.dropTouched r f h act).coreCe r.core 1)
      else if m = 3 then go (s.coreCe r.core 3)
      else go s))

/-! ## ST -/

/-- Bytes that lanes write to one sector, later lanes over earlier ones (03 R76). -/
def sectorBytes (xs : List LaneAcc) : List (Nat × Byte) :=
  xs.flatMap (fun x => (leBytes x.data x.size).zipIdx.map (fun b => (x.pa % 32 + b.2, b.1)))

/-- The 32 bytes of a sector payload. -/
def sectorImage (bs : List (Nat × Byte)) : List Byte := bs.foldl (fun acc b => acc.set b.1 b.2) (List.replicate 32 0)

/-- Byte enables of a sector. -/
def sectorMask (bs : List (Nat × Byte)) : BitVec 32 := bs.foldl (fun m b => m ||| (1 <<< b.1)) 0

/-- A store's requests to other modules: one write per sector, with byte enables. -/
def stRemote (op : Nat) (r : HerdRef) (h : Herd) (xs : List LaneAcc) : List ((Nat → Req) × Nat × Msg × List Byte) :=
  (groupLanes (fun x => x.pa / 32) xs).map (fun g =>
    let bs := sectorBytes g.2
    (fun rid => herdReq rid op r h .write .remote (g.1 / 8) g.2, g.1 * 32,
     { Msg.to 2 0 with nsect := 1, firstMask := sectorMask bs }, sectorImage bs))

/-- A store's host writes, each followed by the zero-length read that confirms it (08 R183). -/
def State.stHost (s : State) (op : Nat) (r : HerdRef) (h : Herd) (xs : List LaneAcc) : State :=
  xs.foldl (fun s x =>
    let n := s.nextId
    let d := leBytes x.data x.size
    let s := { s with hostMem := writeBytes s.hostMem x.pa d }
    ((s.addReq (fun rid => herdReq rid op r h .write .host (x.pa / 256) [x])).sendWrite (h.inst + 1) n x.pa d false).sendRead
      (h.inst + 1) n x.pa 0) s

/-- Scratchpad store, lanes ascending. -/
def State.stScratch (s : State) (r : HerdRef) (f : Fields) (h : Herd) (act : LaneMask) : State :=
  let n := fSize f
  let xs := (laneList act).map (fun l => (l, scratchOff h f (fOFS f) l))
  let put := fun (m : Memory) => xs.foldl (fun m x => writeBytes m x.2 (leBytes (h.read (stData f) x.1) n)) m
  s.withScratch r h n xs
    ((s.updSlot { core := r.core, slot := h.slot } (fun (y : Slot) => { y with scratch := put y.scratch })).updHerd r Herd.next)

/-- Global store: to the home of each line, also into a valid L1 copy; a release waits for the herd's earlier accesses. -/
def State.stGlobal (s : State) (r : HerdRef) (f : Fields) (h : Herd) (act : LaneMask) : State :=
  let n := fSize f
  let since := s.kernelSince r.core h.slot
  let mk := fun l => let va := globalVa h f (fOFS f) l; LaneVa.mk l va (s.laneTo h.inst since .write va n)
  s.withLanes r h ((laneList act).map mk) (fun s ts =>
    let acc := fun l va a => ({ lane := l, va := va, pa := a, size := n, data := h.read (stData f) l % 2 ^ (8 * n), cmp := 0 } : LaneAcc)
    let home := homeLanes ts acc
    if (lowBit f 1 && !s.allReached r (fScope f)) || !s.hostFits (hostLanes ts acc).length then s
    else
      let (op, s1) := s.fresh
      match s1.sendAll h.inst (stRemote op r h (remoteLanes ts acc)) with
      | (_, false) => s
      | (s, true) =>
        let s := home.foldl (fun s x => s.storeL1 r h x) s
        let s := (groupLanes (fun x => x.pa / 256) home).foldl (fun s g =>
          s.addReq (fun rid => herdReq rid op r h .write .home g.1 g.2)) s
        (s.stHost op r h (hostLanes ts acc)).updHerd r Herd.next)

/-- ST. -/
def execSt (r : HerdRef) (f : Fields) (s : State) : Host.Outcome State Fault Refusal :=
  .next (s.issueMem r f (stShape f) true (fun s h act =>
    if fSpace f = 1 then s.stScratch r f h act else s.stGlobal r f h act))

/-! ## ATOM -/

/-- The PCIe AtomicOp of an `AOP` (03 R82). -/
def hostAtomKind (aop : Nat) : Option AtomKind :=
  if aop = 0 then some .fetchAdd else if aop = 8 then some .swap else if aop = 9 then some .cas else none

/-- Scratchpad atomic, lanes ascending; each lane receives the value before its own operand. -/
def State.atomScratch (s : State) (r : HerdRef) (f : Fields) (h : Herd) (act : LaneMask) : State :=
  let n := fSize f
  let u := fun (k : Nat) => ({ uni := false, r := k, span := spanOf n } : Use)
  let xs := (laneList act).map (fun l => (l, scratchOff h f 0 l))
  let one := fun (p : Memory × List (Nat × Nat)) (x : Nat × Nat) =>
    let old := leNat (readBytes p.1 x.2 n)
    let new := atomNew (fAOP f) n old (h.read (u f.sb.toNat) x.1) (h.read (u (fSC f)) x.1)
    (writeBytes p.1 x.2 (leBytes new n), p.2 ++ [(x.1, old)])
  let res := xs.foldl one (s.scratch r h, [])
  let put := fun (y : Herd) => (res.2.foldl (fun y x => y.write (u f.dst.toNat) x.1 x.2) y).next
  let s' := (s.updSlot { core := r.core, slot := h.slot } (fun (y : Slot) => { y with scratch := res.1 })).updHerd r put
  s.withScratch r h n xs
    (if lowBit f 0 && 2 ≤ fScope f then s'.invalidateL1 { core := r.core, slot := h.slot } else s')

/-- Lanes in the order of their elements' use: list k holds the k-th lane of each element, lanes ascending. -/
def elemRounds : Nat → List LaneAcc → List (List LaneAcc)
  | 0, _ => []
  | n + 1, xs =>
    if xs.isEmpty then []
    else
      let first := fun (x : LaneAcc) => (xs.find? (fun y => y.pa = x.pa)).elim false (fun y => y.lane = x.lane)
      xs.filter first :: elemRounds n (xs.filter (fun x => !first x))

/-- The lanes of a sector as the runs of operands that the one message of a combined operation carries, each with one operand per element: an
operation whose operands combine exactly has one run, and `CAS` and `FADD` one for each lane of their busiest element, in ascending order (02
R48, 12 R291, log 22). -/
def atomRuns (aop : Nat) (xs : List LaneAcc) : List (List LaneAcc) :=
  if aop = 9 || aop = 10 then elemRounds 32 xs else [xs]

/-- A run filled up to the elements of all lanes with operands that change nothing: a `CAS` of a value by itself, a sum with -0. -/
def fillRun (aop : Nat) (all run : List LaneAcc) : List LaneAcc :=
  let idle := fun (x : LaneAcc) => { x with data := if aop = 10 then 0x80000000 else 0, cmp := 0 }
  run ++ ((all.filter (fun x => !run.any (fun y => y.pa = x.pa))).map idle)

/-- The operand of one element for several lanes, ascending: that of a single operation with the same effect as theirs. -/
def combined (aop size : Nat) : List LaneAcc → Nat
  | [] => 0
  | x :: xs => xs.foldl (fun acc y => atomNew aop size acc y.data y.cmp) x.data

/-- The lanes of a message with one combined lane per element. -/
def combineLanes (aop size : Nat) (xs : List LaneAcc) : List LaneAcc :=
  ((groupLanes (fun x => x.pa) xs).filterMap (fun g => g.2.head?.map (fun x => { x with data := combined aop size g.2 })))

/-- Byte enables of the elements of lanes in one sector. -/
def elemMask (xs : List LaneAcc) : BitVec 32 :=
  xs.foldl (fun m x => m ||| BitVec.ofNat 32 ((2 ^ x.size - 1) * 2 ^ (x.pa % 32))) 0

/-- The payload of a remote operation on lanes of one sector: operands at their element positions, and for `CAS` the compare values in a second
run. -/
def elemPayload (aop : Nat) (xs : List LaneAcc) : List Byte :=
  let put := fun (v : LaneAcc → Nat) =>
    sectorImage (xs.flatMap (fun x => (leBytes (v x) x.size).zipIdx.map (fun b => (x.pa % 32 + b.2, b.1))))
  put (fun x => x.data) ++ (if aop = 9 then put (fun x => x.cmp) else [])

/-- An atomic's requests to other modules: per sector one combined operation of the herd, its elements named by the byte enables (log 22). -/
def atomRemote (op : Nat) (r : HerdRef) (f : Fields) (h : Herd) (xs : List LaneAcc) : List ((Nat → Req) × Nat × Msg × List Byte) :=
  (groupLanes (fun x => x.pa / 32) xs).map (fun g =>
    let runs := (atomRuns (fAOP f) g.2).map (combineLanes (fAOP f) (fSize f))
    (fun rid => { herdReq rid op r h (.atomic (fAOP f) (fSize f)) .remote (g.1 / 8) g.2 with
                  dst := f.dst.toNat, scope := fScope f, acquire := lowBit f 0 },
     g.1 * 32,
     { Msg.to 3 0 with nsect := 1, op := BitVec.ofNat 8 (fAOP f + (if fSize f = 8 then 16 else 0)), firstMask := elemMask g.2 },
     runs.flatMap (fun run => elemPayload (fAOP f) (fillRun (fAOP f) (runs.headD []) run))))

/-- Old values of the lanes of a remote atomic from the sector before it: each lane sees the operands of the lower lanes on its element (02
R48). -/
def atomOlds (aop size : Nat) (xs : List LaneAcc) (old : LaneAcc → Nat) : List (Nat × Nat) :=
  xs.map (fun x => (x.lane,
    (xs.filter (fun y => y.pa = x.pa && y.lane < x.lane)).foldl (fun v y => atomNew aop size v y.data y.cmp) (old x)))

/-- Host atomics, one AtomicOp per lane. -/
def State.atomHost (s : State) (op : Nat) (r : HerdRef) (f : Fields) (h : Herd) (kind : AtomKind) (xs : List LaneAcc) : State :=
  xs.foldl (fun s x =>
    let n := s.nextId
    (s.addReq (fun rid =>
      { herdReq rid op r h (.atomic (fAOP f) (fSize f)) .host (x.pa / 256) [x] with
        dst := f.dst.toNat, scope := fScope f, acquire := lowBit f 0 })).sendAtomic
      (h.inst + 1) n x.pa kind x.size x.data x.cmp) s

/-- A lane on a host frame needs an `AOP` that PCIe has (03 R82). -/
def hostAtomOk (f : Fields) (x : LaneVa) : LaneVa :=
  match x.res with
  | .ok (.host _) => if (hostAtomKind (fAOP f)).isSome then x else { x with res := .bad .addressFault }
  | _ => x

/-- Global atomic, at the home of each line. -/
def State.atomGlobal (s : State) (r : HerdRef) (f : Fields) (h : Herd) (act : LaneMask) : State :=
  let n := fSize f
  let u := fun (k : Nat) => ({ uni := false, r := k, span := spanOf n } : Use)
  let since := s.kernelSince r.core h.slot
  let mk := fun l => let va := globalVa h f 0 l; hostAtomOk f (LaneVa.mk l va (s.laneTo h.inst since .write va n))
  s.withLanes r h ((laneList act).map mk) (fun s ts =>
    let acc := fun l va a =>
      ({ lane := l, va := va, pa := a, size := n, data := h.read (u f.sb.toNat) l, cmp := h.read (u (fSC f)) l } : LaneAcc)
    if (lowBit f 1 && !s.allReached r (fScope f)) || !s.hostFits (hostLanes ts acc).length then s
    else
      let (op, s1) := s.fresh
      match s1.sendAll h.inst (atomRemote op r f h (remoteLanes ts acc)) with
      | (_, false) => s
      | (s, true) =>
        let s := (groupLanes (fun x => x.pa / 256) (homeLanes ts acc)).foldl (fun s g =>
          s.addReq (fun rid =>
            { herdReq rid op r h (.atomic (fAOP f) n) .home g.1 g.2 with
              dst := f.dst.toNat, scope := fScope f, acquire := lowBit f 0 })) s
        let s := match hostAtomKind (fAOP f) with
          | some k => s.atomHost op r f h k (hostLanes ts acc)
          | none => s
        s.updHerd r (fun y => { y.next with acquire := if lowBit f 0 then some (fScope f) else y.acquire }))

/-- ATOM. A release waits for the herd's earlier accesses; an acquire holds back its later ones. -/
def execAtom (r : HerdRef) (f : Fields) (s : State) : Host.Outcome State Fault Refusal :=
  .next (s.issueMem r f (atomShape f) true (fun s h act =>
    if fSpace f = 1 then (if lowBit f 1 && !s.allReached r (fScope f) then s else s.atomScratch r f h act)
    else s.atomGlobal r f h act))

/-! ## ST.ADD -/

/-- An add's requests to other modules: per sector one message for each lane of its busiest element, in ascending order, each element named by
the byte enables. -/
def addRemote (op : Nat) (r : HerdRef) (f : Fields) (h : Herd) (xs : List LaneAcc) : List ((Nat → Req) × Nat × Msg × List Byte) :=
  (groupLanes (fun x => x.pa / 32) xs).flatMap (fun g => (elemRounds 32 g.2).map (fun ys =>
    (fun rid => herdReq rid op r h (.add (fAFMT f) (fAFMT f)) .remote (g.1 / 8) ys, g.1 * 32,
     { Msg.to 4 0 with nsect := 1, op := BitVec.ofNat 8 (fAFMT f), firstMask := elemMask ys }, elemPayload 0 ys)))

/-- A lane on a host frame has no add (03 R83). -/
def hostAddBad (x : LaneVa) : LaneVa :=
  match x.res with
  | .ok (.host _) => { x with res := .bad .addressFault }
  | _ => x

/-- ST.ADD: relaxed adds at the home of each line, or at another module's home (07 R159). -/
def execStAdd (r : HerdRef) (f : Fields) (s : State) : Host.Outcome State Fault Refusal :=
  .next (s.issueMem r f (stAddShape f) true (fun s h act =>
    let n := addSize f
    let u : Use := { uni := false, r := f.sb.toNat, span := spanOf n }
    let since := s.kernelSince r.core h.slot
    let mk := fun l => let va := globalVa h f (fOFS f) l; hostAddBad (LaneVa.mk l va (s.laneTo h.inst since .write va n))
    s.withLanes r h ((laneList act).map mk) (fun s ts =>
      let acc := fun l va a => ({ lane := l, va := va, pa := a, size := n, data := h.read u l % 2 ^ (8 * n), cmp := 0 } : LaneAcc)
      let (op, s1) := s.fresh
      match s1.sendAll h.inst (addRemote op r f h (remoteLanes ts acc)) with
      | (_, false) => s
      | (s, true) =>
        ((groupLanes (fun x => x.pa / 256) (homeLanes ts acc)).foldl (fun s g =>
          s.addReq (fun rid => herdReq rid op r h (.add (fAFMT f) (fAFMT f)) .home g.1 g.2)) s).updHerd r Herd.next)))

end Sys2Proof.Machine
end

