-- ==== Sys2Proof/Machine/Matrix.lean ====
section
/-! DEFINITION. The matrix queue class (02 R53, R54, 03 R89, R90) and the work of the Eland arrays and the Springbok path, round by round
and column group by column group (04 R102 to R112; 05 R119 to R124, R127). -/
namespace Sys2Proof.Machine

/-! ## MX.ISSUE, SB.ISSUE, MX.WAIT -/

/-- Legality of an issue instruction (03 R89). -/
def mxShape (f : Fields) : Shape :=
  { ok := !f.form && f.dst.toNat < 16 && unused f.sb && lowBits f 25 1 = 0, src := [{ uni := lowBit f 0, r := f.sa.toNat, span := 1 }],
    dst := [] }

/-- The descriptor at a scratchpad offset. -/
def descWords (m : Memory) (a : Nat) : List Word64 := (List.range 8).map (fun i => BitVec.ofNat 64 (leNat (readBytes m (a + 8 * i) 8)))

/-- Decode a descriptor for its engine. -/
def mxDesc (springbok : Bool) (ws : List Word64) : MxDesc := if springbok then springbokDesc ws else elandDesc ws

/-- A queued operation as it is enqueued. -/
def MxOp.queued (id : Nat) (springbok : Bool) (r : HerdRef) (h : Herd) (token lane : Nat) (ws : List Word64) : MxOp :=
  { id := id, springbok := springbok, pos := r.pos, live := true, token := token, desc := ws, pc := h.pc, lane := lane, started := false,
    round := 0, tile := 0, reads := [], lands := [], dead := [], combine := [], writes := [] }

/-- Enqueue an operation: once for the herd, with the operands of the lowest acting lane; held while the slot's 16 entries are full
or the token is still in use; the copied descriptor is checked. It reads scratchpad and will store, so it is held behind an acquire and
behind a release fence. -/
def State.enqueue (s : State) (r : HerdRef) (f : Fields) (springbok : Bool) (h : Herd) (act : LaneMask) : State :=
  let lane := lowLane act
  let off := h.read { uni := lowBit f 0, r := f.sa.toNat, span := 1 } lane
  let size := s.scratchSize r h
  let sl : SlotRef := { core := r.core, slot := h.slot }
  let q := (s.slot? sl).elim [] (fun x => x.mxq)
  if h.acquire.isSome || !s.releasesDone h then s
  else if off % 64 != 0 then s.herdFault r h .misaligned lane 0
  else if size < off + 64 then s.herdFault r h .scratchBounds lane 0
  else if 16 ≤ q.length || q.any (fun o => o.live && o.pos = r.pos && o.token = f.dst.toNat) then s
  else
    let ws := descWords (s.scratch r h) off
    if !(mxDesc springbok ws).valid size then s.herdFault r h .matrixDescInvalid lane 0
    else
      let n := s.fresh
      (n.2.updSlot sl (fun (x : Slot) => { x with mxq := x.mxq ++ [MxOp.queued n.1 springbok r h f.dst.toNat lane ws] })).updHerd r Herd.next

/-- MX.ISSUE. -/
def execMxIssue (r : HerdRef) (f : Fields) (s : State) : Host.Outcome State Fault Refusal :=
  .next (s.issue r f (mxShape f) (fun s h act => s.enqueue r f false h act))

/-- SB.ISSUE. -/
def execSbIssue (r : HerdRef) (f : Fields) (s : State) : Host.Outcome State Fault Refusal :=
  .next (s.issue r f (mxShape f) (fun s h act => s.enqueue r f true h act))

/-- MX.WAIT: held until no token of the mask has an outstanding operation. The outputs of the tokens then count as accesses of the
herd (08 R189). -/
def execMxWait (r : HerdRef) (f : Fields) (s : State) : Host.Outcome State Fault Refusal :=
  .next (s.issue r f
    { ok := !f.form && unused f.dst && unused f.sa && unused f.sb && lowBits f 25 16 = 0, src := [], dst := [] } (fun s h _ =>
    let q := (s.slot? { core := r.core, slot := h.slot }).elim [] (fun x => x.mxq)
    if q.any (fun o => o.live && o.pos = r.pos && f.low.getLsbD o.token) then s
    else
      let mine := fun (x : Req) =>
        if x.core = r.core && 256 ≤ x.pos && (x.pos - 256) / 16 = r.pos && f.low.getLsbD ((x.pos - 256) % 16) then
          { x with pos := r.pos } else x
      { s with reqs := s.reqs.map mine }.updHerd r Herd.next))

/-! ## Operations of an engine -/

/-- Where an operation belongs. -/
structure OpAt where
  core : Nat
  slot : Nat
  inst : Nat
  ctx : Nat
  op : MxOp
  desc : MxDesc
deriving DecidableEq, Repr

/-- Arrays that work on a round: the enabled ones of the core; the path is one. -/
def State.width (s : State) (core : Nat) (springbok : Bool) : Nat := if springbok then 1 else max 1 (s.arraysOf core).length

/-- Every round of an operation has been worked. -/
def State.worked (s : State) (core : Nat) (o : MxOp) : Bool := decide ((mxDesc o.springbok o.desc).rounds (s.width core o.springbok) ≤ o.round)

/-- An operation of a slot. -/
def Slot.opAt (x : Slot) (core : Nat) (o : MxOp) : Option OpAt :=
  x.ctx.map (fun c => { core := core, slot := x.num, inst := x.inst, ctx := c, op := o, desc := mxDesc o.springbok o.desc })

/-- The operation as it stands now. -/
def State.refresh (s : State) (w : OpAt) : OpAt :=
  match s.slot? { core := w.core, slot := w.slot } with
  | some x => (x.mxq.find? (fun o => o.id = w.op.id)).elim w (fun o => { w with op := o })
  | none => w

/-- Change an operation of a slot. -/
def State.updOp (s : State) (w : OpAt) (f : MxOp → MxOp) : State :=
  s.updSlot { core := w.core, slot := w.slot } (fun (x : Slot) => { x with mxq := updWhere (fun o => decide (o.id = w.op.id)) f x.mxq })

/-- A fault of a running operation (04 R112). -/
def State.opFault (s : State) (w : OpAt) (c : Cause) (addr : Nat) : State :=
  s.ctxFault { inst := w.inst, ctx := w.ctx }
    { cause := c, core := w.core, herd := w.op.pos, lane := some w.op.lane, pc := w.op.pc.toNat, addr := addr }

/-- The context of an operation issues nothing more (02 R55). -/
def State.opStopped (s : State) (w : OpAt) : Bool :=
  (s.ctx? { inst := w.inst, ctx := w.ctx }).elim true (fun y => y.st = 3 || y.st = 4)

/-- A translation for an operation. -/
def State.opTo (s : State) (w : OpAt) (want : Want) (va : Nat) : LaneRes :=
  s.laneTo w.inst (s.kernelSince w.core w.slot) want va 1

/-- A request of an operation: its outputs count for its herd once `MX.WAIT` has returned, and for nobody where the herd has ended (08
R189). -/
def OpAt.req (w : OpAt) (kind : ReqKind) (t : Target) (line : Nat) (lanes : List LaneAcc) (rid : Nat) : Req :=
  { rid := rid, op := w.op.id, core := w.core, slot := w.slot, pos := if w.op.live then 256 + 16 * w.op.pos + w.op.token else 128, herd := w.op.pos,
    inst := w.inst, ctx := w.ctx, kind := kind, target := t, drop := 0, line := line, lanes := lanes, dst := 255, udst := false, sx := false,
    stream := false, credited := false, last := false, scope := 0, acquire := false, pc := w.op.pc, phase := .queued }

/-! ## Fetching operands (02 R54, 04 R108, 05 R122) -/

/-- The stage that an operation works next. -/
def OpAt.stage (w : OpAt) : Nat := w.op.round * w.desc.tiles + w.op.tile

/-- Weight sectors that a stage reads from global memory. -/
def OpAt.weights (w : OpAt) (e n : Nat) : List Nat :=
  if w.desc.wScr then [] else sectorsOf (w.desc.wReads (w.desc.stageUnits e n) (n % w.desc.tiles))

/-- Sectors of A that a stage reads from global memory. -/
def OpAt.rows (w : OpAt) (e n : Nat) : List Nat :=
  if w.desc.aScr then [] else sectorsOf (w.desc.aReads (w.desc.stageUnits e n) (n % w.desc.tiles))

/-- Sectors of C that a stage reads from global memory. -/
def OpAt.starts (w : OpAt) (e n : Nat) : List Nat :=
  if w.desc.cScr then [] else sectorsOf (w.desc.cReads (w.desc.stageUnits e n) (n % w.desc.tiles))

/-- An operand sector has arrived for a stage. -/
def MxOp.has (o : MxOp) (n sec : Nat) : Bool := o.reads.any (fun x => x.1 = (n, sec))

/-- An operand sector is on its way for a stage. -/
def State.asked (s : State) (w : OpAt) (n sec : Nat) : Bool :=
  s.reqs.any (fun q => q.kind = .operand w.op.id && q.lanes.any (fun l => l.va = sec * 32 && l.data = n))

/-- Neither is so. -/
def State.wants (s : State) (w : OpAt) (n sec : Nat) : Bool := !w.op.has n sec && !s.asked w n sec

/-- Operand lines in flight for the Springbok operations of a core. -/
def State.pathLines (s : State) (core : Nat) : Nat :=
  let ids := (s.core core).slots.flatMap (fun x => (x.mxq.filter (fun o => o.springbok)).map (fun o => o.id))
  (s.reqs.filter (fun q => q.core = core && q.fetches && ids.contains q.op)).length

/-- The Springbok path has room for one more line in flight: it keeps at most 1,536. -/
def State.pathRoom (s : State) (w : OpAt) : Bool := !w.op.springbok || decide (s.pathLines w.core < 1536)

/-- An operand sector as a lane of its line's request; its data names the stage that it is for. -/
def OpAt.lane (w : OpAt) (pa n sec : Nat) : LaneAcc := { lane := w.op.lane, va := sec * 32, pa := pa, size := 32, data := n, cmp := 0 }

/-- Request operand sectors of one virtual line, as (stage, sector), if registers and credits allow: A and W in the stream class, each line with a
landing line, C as ordinary reads (DEDUCED, log 61). A failed translation is left for the time when the operation uses the line. `last`: the line's
dead declaration follows (05 R122). -/
def State.fetchOpLine (s : State) (w : OpAt) (stream last : Bool) (line : Nat) (xs : List (Nat × Nat)) : State :=
  let off := fun (sec : Nat) => sec * 32 - line * 256
  let mk := fun (t : Target) (a : Nat) (xs : List (Nat × Nat)) (rid : Nat) =>
    { w.req (.operand w.op.id) t (a / 256) (xs.map (fun x => w.lane (a + off x.2) x.1 x.2)) rid with stream := stream, last := last, scope := 2 }
  match s.opTo w .read (line * 256) with
  | .ok (.home a) =>
    if s.missFits w.core [(.home, a / 256)] && s.pathRoom w then s.newChoice.addFetch (mk .home a xs) else s
  | .ok (.remote pa) =>
    let n := if stream then 1 else 0
    let each := xs.map (fun x => (mk .remote pa [x], pa + off x.2, { Msg.to 1 0 with nsect := 1, stream := stream }, []))
    if s.missFits w.core [(.remote, pa / 256)] && s.pathRoom w && s.landFar w.core n then
      match s.newChoice.sendAll w.inst (if stream then creditFirst each else each) with
      | (t, true) => t.takeLanding w.core n
      | (_, false) => s
    else s
  | .ok (.host a) =>
    if s.missFits w.core [(.host, a / 256)] && s.pathRoom w && s.hostFits xs.length then
      xs.foldl (fun s x => (s.addReq (mk .host a [x])).sendRead (w.inst + 1) s.nextId (a + off x.2) 32) s.newChoice
    else s
  | .needAts p => s.newChoice.askXlat w.inst (.needAts p)
  | .needLine l => s.newChoice.askXlat w.inst (.needLine l)
  | .bad _ => s

/-- Request operand sectors, line by line. -/
def State.fetchSecs (s : State) (w : OpAt) (stream last : Bool) (xs : List (Nat × Nat)) : State :=
  (distinct (xs.map (fun x => x.2 / 8))).foldl (fun s line => s.fetchOpLine w stream last line (xs.filter (fun x => x.2 / 8 = line))) s

/-- Request what a stage reads of W and is neither here nor on its way. Of a line of the path's stream the sectors that only the next block reads come
with it, so that the stream takes a line once (05 R122). -/
def State.fetchWeights (s : State) (w : OpAt) (e n : Nat) : State :=
  let now := w.weights e n
  let need := now.filter (fun sec => s.wants w n sec)
  let next := if w.op.springbok && n + 1 < w.desc.rounds e * w.desc.tiles then (w.weights e (n + 1)).filter (fun sec =>
      need.any (fun x => x / 8 = sec / 8) && !now.contains sec && s.wants w (n + 1) sec) else []
  s.fetchSecs w true w.desc.wlast (need.map (fun sec => (n, sec)) ++ next.map (fun sec => (n + 1, sec)))

/-- Request what a stage reads, in the order A, W, C. -/
def State.fetchStage (s : State) (w : OpAt) (e n : Nat) : State :=
  let pick := fun (s : State) (secs : List Nat) => (secs.filter (fun sec => s.wants w n sec)).map (fun sec => (n, sec))
  let s := s.fetchSecs w true false (pick s (w.rows e n))
  let s := s.fetchWeights w e n
  s.fetchSecs w false false (pick s (w.starts e n))

/-- Slots of a core in rotating order from `next`. -/
def rotation (next : Nat) : List Nat := (List.range 64).map (fun k => (next + k) % 64)

/-- Operations of an engine that have not started, slot by slot in rotating order. -/
def State.waitingOps (s : State) (core : Nat) (springbok : Bool) : List (List OpAt) :=
  ((rotation (if springbok then (s.core core).sbNext else (s.core core).arrNext)).filterMap (fun n => s.slot? { core := core, slot := n })).map
    (fun x => if x.st = .running || x.st = .draining then
      (x.mxq.filter (fun o => o.springbok = springbok && !o.started)).filterMap (fun o => x.opAt core o) else [])

/-- The next two operations of an engine's order (02 R53, R54). -/
def State.upcoming (s : State) (core : Nat) (springbok : Bool) : List OpAt :=
  match (s.waitingOps core springbok).filter (fun l => !l.isEmpty) with
  | (a :: rest) :: more => a :: (match more with
    | (b :: _) :: _ => [b]
    | _ => rest.take 1)
  | _ => []

/-- The line of a landed operand is free once no stage up to the last that uses it still holds or awaits a sector of it (06 R144). -/
def State.freeLands (s : State) (w : OpAt) : State :=
  let o := (s.refresh w).op
  let used := fun (l : Nat × Nat) =>
    o.reads.any (fun r => decide (r.1.1 ≤ l.1) && r.1.2 / 8 = l.2)
      || s.reqs.any (fun q => q.kind = .operand o.id && q.lanes.any (fun x => decide (x.data ≤ l.1) && x.va / 256 = l.2))
  let free := (o.lands.filter (fun l => !used l)).length
  if free = 0 then s
  else (s.updOp w (fun o => { o with lands := o.lands.filter used })).updCore w.core (fun c => { c with landing := min 1536 (c.landing + free) })

/-- Operand sectors of a stage have been used. -/
def State.useReads (s : State) (w : OpAt) (n : Nat) (secs : List Nat) : State :=
  (s.updOp w (fun o => { o with reads := o.reads.filter (fun x => !(x.1.1 = n && secs.contains x.1.2)) })).freeLands w

/-- Dead declarations of weight lines that have been served, behind the reads on the core's path (05 R122). One whose translation or credit must
wait stays owed. -/
def State.declareOwed (s : State) (w : OpAt) : State :=
  let chk := s.deadchk { inst := w.inst, ctx := w.ctx }
  let mk := fun (t : Target) (line rid : Nat) => { w.req (.declare chk) t line [] rid with pos := 128 }
  let paid := fun (s : State) (va : Nat) => s.updOp w (fun o => { o with dead := o.dead.erase va })
  (s.refresh w).op.dead.foldl (fun s va =>
    match s.opTo w .read (va * 256) with
    | .ok (.home a) => paid (s.addReq (mk .home (a / 256))) va
    | .ok (.remote a) =>
      match s.sendAll w.inst [(mk .remote (a / 256), a / 256 * 256, { Msg.to 5 0 with nsect := 8, op := if chk then 1 else 0 }, [])] with
      | (t, true) => paid t va
      | (_, false) => s
    | .needAts p => s.newChoice.askXlat w.inst (.needAts p)
    | .needLine l => s.newChoice.askXlat w.inst (.needLine l)
    | _ => paid s va) s

/-- Data of an operand request has arrived: it waits in the landing lines of its operation until the stage that it is for uses it. Of an operation
that is gone it is dropped, and its landing line is free (02 R54, 06 R144). -/
def State.operandArrive (s : State) (x : Req) (data : BitVec 2048) : State :=
  match x.kind with
  | .operand id =>
    let got := x.lanes.map (fun l => ((l.data, l.va / 32), leBytes (lineBytes data l.pa 32) 32))
    let line := (x.lanes.head?).elim 0 (fun l => l.va / 256)
    let last := (x.lanes.map (fun l => l.data)).foldl max 0
    let put := fun (o : MxOp) =>
      { o with reads := o.reads ++ got, lands := if x.credited then o.lands ++ [(last, line)] else o.lands,
               dead := if x.last && !o.dead.contains line then o.dead ++ [line] else o.dead }
    match (s.slot? { core := x.core, slot := x.slot }).bind (fun y => (y.mxq.find? (fun o => o.id = id)).bind (fun o => y.opAt x.core o)) with
    | some w => (s.updOp w put).declareOwed w
    | none => if x.credited then s.updCore x.core (fun c => { c with landing := min 1536 (c.landing + 1) }) else s
  | _ => s

/-! ## Weight buffers (04 R108) -/

/-- An operation of a core's slots. -/
def State.opOn (s : State) (core id : Nat) : Option MxOp := (s.core core).slots.findSome? (fun x => x.mxq.find? (fun o => o.id = id))

/-- What a weight buffer of a core's arrays holds: the operation and the stage of its tile; nothing where that operation is gone. -/
def State.bufHolds (s : State) (core b : Nat) : Option (Nat × Nat) :=
  ((s.core core).bufs.getD b none).bind (fun p => if (s.opOn core p.1).isSome then some p else none)

/-- The buffer that holds the tile of a stage. -/
def State.bufOf (s : State) (w : OpAt) (n : Nat) : Option Nat := [0, 1].find? (fun b => s.bufHolds w.core b = some (w.op.id, n))

/-- A buffer that a tile can take: a free one, or for an operation that has started one that holds a tile fetched ahead for one that has not, which
is fetched again (DESIGN CHOICE, log 98: the order of the operations can change until they start, and the spec names no outcome). -/
def State.bufFor (s : State) (w : OpAt) : Option Nat :=
  match [0, 1].find? (fun b => (s.bufHolds w.core b).isNone) with
  | some b => some b
  | none => if w.op.started then [0, 1].find? (fun b => ((s.bufHolds w.core b).bind (fun p => s.opOn w.core p.1)).elim false (fun o => !o.started)) else none

/-- Set what a weight buffer holds. -/
def State.setBuf (s : State) (core b : Nat) (p : Option (Nat × Nat)) : State :=
  s.updCore core (fun c => { c with bufs := updAt c.bufs b (fun _ => p) })

/-- The byte at an address, from operand sectors that have arrived for a stage. -/
def MxOp.readByte (o : MxOp) (n a : Nat) : Nat :=
  match o.reads.find? (fun x => x.1 = (n, a / 32)) with
  | some x => (x.2.getD (a % 32) 0).toNat
  | none => 0

/-- Bytes of the scratchpad of an operation's slot. -/
def State.opScratch (s : State) (w : OpAt) : Memory := (s.slot? { core := w.core, slot := w.slot }).elim [] (fun x => x.scratch)

/-- Load the tile of a stage into a weight buffer of every array of its round, once all of it is here: the lines that it landed in are free. -/
def State.loadTile (s : State) (w : OpAt) (n : Nat) : State :=
  let e := s.width w.core false
  let us := w.desc.stageUnits e n
  let secs := w.weights e n
  if w.op.springbok || (s.bufOf w n).isSome || !secs.all (w.op.has n) then s
  else match s.bufFor w with
    | none => s
    | some b =>
      let bw := if w.desc.wScr then fun a => (spGet (s.opScratch w) a).toNat else w.op.readByte n
      let arrays := ((s.arraysOf w.core).zip us).foldl (fun (l : List Eland) p =>
        updAt l p.1 (fun x => x.load w.desc bw b p.2 (n % w.desc.tiles))) (s.core w.core).arrays
      let s := (s.updCore w.core (fun c => { c with arrays := arrays })).setBuf w.core b (some (w.op.id, n))
      s.useReads w n (secs.filter (fun sec => !(w.rows e n).contains sec && !(w.starts e n).contains sec))

/-- The fetch-ahead of an engine, for the next two operations: their first tiles, into the buffers of the arrays that the operation that runs needs no
more; for the path what its limit leaves of their first column group (04 R108, 05 R122). -/
def State.fetchAhead (s : State) (core : Nat) (springbok : Bool) : State :=
  (s.upcoming core springbok).foldl (fun s w =>
    if s.opStopped w || w.desc.empty then s
    else if springbok then (List.range w.desc.tiles).foldl (fun s n => if s.pathRoom w then s.fetchWeights (s.refresh w) 1 n else s) s
    else if (s.bufOf w 0).isSome || w.desc.wScr then s
    else
      let s := s.fetchWeights w (s.width core false) 0
      s.loadTile (s.refresh w) 0) s

/-! ## Draining outputs (04 R107, 05 R121) -/

/-- Split an output row into pieces within one sector, as (address, bytes sent): `e` is the size of an element sent, `d` of an element
in memory. -/
def outPieces (e d a : Nat) (bs : List Byte) : List (Nat × List Byte) :=
  let n := bs.length / e
  let addrs := (List.range n).map (fun i => (a + i * d, (bs.drop (i * e)).take e))
  (distinct (addrs.map (fun x => x.1 / 32))).map (fun sec =>
    let mine := addrs.filter (fun x => x.1 / 32 = sec)
    ((mine.headD (0, [])).1, mine.flatMap (fun x => x.2)))

/-- Bytes of memory that a piece covers. -/
def OpAt.covers (w : OpAt) (bs : List Byte) : Nat := bs.length / w.desc.sentBytes * dBytes w.desc.fmtD

/-- What an output does at the home of its line. -/
def OpAt.outKind (w : OpAt) : ReqKind := if w.desc.acc = 2 then .add w.desc.fmtD 0 else .write

/-- The message of a piece for another module: a write with byte enables, or an add. The FP32 operands of an add to a line of 16-bit elements
take two sectors, in element order (log 26). -/
def OpAt.outMsg (w : OpAt) (pa : Nat) (bs : List Byte) : Msg × List Byte :=
  let mask : BitVec 32 := BitVec.ofNat 32 ((2 ^ w.covers bs - 1) * 2 ^ (pa % 32))
  let at_ := pa % 32 / dBytes w.desc.fmtD * w.desc.sentBytes
  let size := 32 / dBytes w.desc.fmtD * w.desc.sentBytes
  let img := List.replicate at_ 0 ++ bs ++ List.replicate (size - at_ - bs.length) 0
  (if w.desc.acc = 2 then { Msg.to 4 0 with nsect := 1, op := BitVec.ofNat 8 w.desc.fmtD, firstMask := mask }
   else { Msg.to 2 0 with nsect := 1, firstMask := mask }, img)

/-- Send the pieces of one line on their way; false where they must wait. A fault ends the operation's outputs: an add to a host frame is
`ADDRESS_FAULT` (07 R158). -/
def State.drainLine (s : State) (w : OpAt) (ps : List (Nat × List Byte)) : State × Bool :=
  let va := (ps.headD (0, [])).1
  let lane := fun (pa : Nat) (p : Nat × List Byte) =>
    ({ lane := w.op.lane, va := p.1, pa := pa - va + p.1, size := w.covers p.2, data := leNat p.2, cmp := 0 } : LaneAcc)
  match s.opTo w .write va with
  | .ok (.home a) => (s.newChoice.addReq (w.req w.outKind .home (a / 256) (ps.map (lane a))), true)
  | .ok (.remote pa) => s.newChoice.sendAll w.inst (ps.map (fun p =>
      let m := w.outMsg (pa - va + p.1) p.2
      (w.req w.outKind .remote (pa / 256) [lane pa p], (pa - va + p.1) / 32 * 32, m.1, m.2)))
  | .ok (.host a) =>
    if w.desc.acc = 2 then (s.opFault w .addressFault va, true)
    else if !s.hostFits ps.length then (s, false)
    else (ps.foldl (fun s p =>
      let n := s.nextId
      let b := a - va + p.1
      let s := { s with hostMem := writeBytes s.hostMem b p.2 }
      ((s.addReq (w.req .write .host (a / 256) [lane a p])).sendWrite (w.inst + 1) n b p.2 false).sendRead (w.inst + 1) n b 0) s.newChoice, true)
  | .bad c => (s.opFault w c va, true)
  | .needAts p => (s.newChoice.askXlat w.inst (.needAts p), false)
  | .needLine l => (s.newChoice.askXlat w.inst (.needLine l), false)

/-- Drain outputs line by line, as far as they go; nothing more once the context has faulted. -/
def State.drainGlobal (s : State) (w : OpAt) : Nat → List MxOut → State
  | 0, ps => s.updOp w (fun o => { o with writes := ps })
  | n + 1, ps =>
    match ps with
    | [] => s.updOp w (fun o => { o with writes := [] })
    | p :: _ =>
      if s.opStopped w then s
      else
        let here := fun (q : MxOut) => decide (q.addr / 256 = p.addr / 256)
        match s.drainLine w ((ps.takeWhile here).map (fun q => (q.addr, q.bytes))) with
        | (t, true) => t.drainGlobal w n (ps.dropWhile here)
        | (t, false) => t.updOp w (fun o => { o with writes := ps })

/-- Drain an operation's outputs: into scratchpad, or to the core's egress on their way to their homes. -/
def State.drainOp (s : State) (w : OpAt) : State :=
  if w.desc.dScr then
    s.updSlot { core := w.core, slot := w.slot } (fun (x : Slot) =>
      { x with scratch := w.op.writes.foldl (fun m o => writeBytes m o.addr o.bytes) x.scratch,
               mxq := updWhere (fun o => decide (o.id = w.op.id)) (fun o => { o with writes := [] }) x.mxq })
  else s.drainGlobal w w.op.writes.length w.op.writes

/-- Operations of an engine whose outputs have not all drained, in the order of their slots. -/
def State.draining (s : State) (core : Nat) (springbok : Bool) : List OpAt :=
  (s.core core).slots.flatMap (fun x => (x.mxq.filter (fun o => o.springbok = springbok && !o.writes.isEmpty)).filterMap (fun o => x.opAt core o))

/-- The drain that the arrays share, or the path's: operation after operation, as far as it goes (DESIGN CHOICE, log 85: the spec gives the outputs
that share a drain no order). -/
def State.drainCore (s : State) (core : Nat) (springbok : Bool) : State :=
  (s.draining core springbok).foldl (fun s w =>
    if (s.draining core springbok).head?.elim true (fun x => x.op.id = w.op.id) then s.drainOp (s.refresh w) else s) s

/-! ## A round (04 R102, 05 R120) -/

/-- An earlier operation of the slot still has to write a scratchpad range that a round reads (04 R110, 05 R124). -/
def State.owedBefore (s : State) (w : OpAt) (us : List MxUnit) : Bool :=
  let q := ((s.slot? { core := w.core, slot := w.slot }).elim [] (fun x => x.mxq)).takeWhile (fun o => o.id != w.op.id)
  q.any (fun o =>
    let d := mxDesc o.springbok o.desc
    rangesMeet (d.scratchOwed (s.width w.core o.springbok) o.round) (w.desc.scratchReads us))

/-- Every global output of an operation has been accepted (05 R121). -/
def State.outputsAccepted (s : State) (w : OpAt) : Bool :=
  s.reqs.all (fun x => !(x.core = w.core && x.op = w.op.id && (match x.kind with
    | .write => true
    | .add _ _ => true
    | _ => false)))

/-- The accumulator bank that a round needs: for the arrays no drain from it is running (04 R107); the path's next column group waits until the
outputs of the one before it exist in memory (05 R121). -/
def State.bankFree (s : State) (w : OpAt) : Bool :=
  w.op.tile != 0 || (if w.op.springbok then w.op.writes.isEmpty && s.outputsAccepted w
    else (s.draining w.core false).all (fun v => v.op.writes.all (fun o => o.bank != (s.core w.core).bank)))

/-- The first operand of a stage that cannot be read, in the order A, W, C: cause and address of its sector (log 61). A tile in its buffer has been
read. -/
def State.tileFault (s : State) (w : OpAt) (e n : Nat) : Option (Cause × Nat) :=
  let secs := w.rows e n ++ (if (s.bufOf w n).isSome then [] else w.weights e n) ++ w.starts e n
  (secs.filter (fun sec => !w.op.has n sec)).findSome? (fun sec => match s.opTo w .read (sec * 32) with
    | .bad c => some (c, sec * 32)
    | _ => none)

/-- The operands of a stage are all there. -/
def State.stageReady (s : State) (w : OpAt) (e n : Nat) : Bool :=
  (w.rows e n).all (w.op.has n) && (w.starts e n).all (w.op.has n)
    && (if w.op.springbok then (w.weights e n).all (w.op.has n) else (s.bufOf w n).isSome)

/-- The last tile of a round has been worked: the sums of its units pass to the combine store, the outputs of complete units are left to drain, unit
after unit and row by row (log 85), and the next round uses the other accumulator bank (04 R105, R107). -/
def State.finishRound (s : State) (w : OpAt) (us : List MxUnit) (bc : Nat → Nat) : State :=
  let d := w.desc
  let c := s.core w.core
  let sums := if w.op.springbok then us.flatMap (fun u => d.combineUnit u c.path.acc)
    else ((s.arraysOf w.core).zip us).flatMap (fun p => d.combineUnit p.2 (((c.arrays.getD p.1 Eland.reset).acc).getD c.bank []))
  let combine := w.op.combine ++ sums
  let done := us.filter d.last
  let rows := done.flatMap (fun u => d.outputs bc combine u)
  let outs := if d.dScr then rows else rows.flatMap (fun x => outPieces d.sentBytes (dBytes d.fmtD) x.1 x.2)
  let s := s.updOp w (fun o =>
    { o with round := o.round + 1, tile := 0, combine := done.foldl d.combined combine,
             writes := o.writes ++ outs.map (fun x => { bank := c.bank, addr := x.1, bytes := x.2 }) })
  if w.op.springbok then s else s.updCore w.core (fun k => { k with bank := 1 - k.bank })

/-- A stage as 10 R258 counts it: a Springbok block, or for each array one cycle per row of the chunk, by the formats' class. -/
def State.countStage (s : State) (w : OpAt) (us : List MxUnit) : State :=
  let rows := ((us.head?).elim [] (fun u => w.desc.chunkRows u.chunk)).length
  if w.op.springbok then s.countEvent (some w.inst) 3 w.core 1
  else s.countEvent (some w.inst) (if w.desc.classH then 2 else if w.desc.pairTile then 0 else 1) w.core (us.length * rows)

/-- Work one stage whose operands are all there: the rows of its chunk stream through the tile in its buffer, or the path takes its weight block; the
buffer and the consumed operands go. -/
def State.workStage (s : State) (w : OpAt) (e n : Nat) : State :=
  let d := w.desc
  let us := d.stageUnits e n
  let t := n % d.tiles
  let scr := s.opScratch w
  let sb := fun a => (spGet scr a).toNat
  let gb := w.op.readByte n
  let ba := if d.aScr then sb else gb
  let bank := (s.core w.core).bank
  let s := s.countStage w us
  let s :=
    if w.op.springbok then s.updCore w.core (fun k => { k with path := k.path.run d scr (if d.wScr then sb else gb) w.op.round t })
    else
      let buf := (s.bufOf w n).getD 0
      let arrays := ((s.arraysOf w.core).zip us).foldl (fun (l : List Eland) p => updAt l p.1 (fun x => x.run d ba bank buf p.2 t)) (s.core w.core).arrays
      (s.updCore w.core (fun k => { k with arrays := arrays })).setBuf w.core buf none
  let s := if t + 1 = d.tiles then s.finishRound w us (if d.cScr then sb else gb) else s.updOp w (fun o => { o with tile := o.tile + 1 })
  s.useReads w n (w.rows e n ++ w.weights e n ++ w.starts e n)

/-- Request what the stages from one on read: for the arrays two of them, one for each weight buffer; for the path as many as its limit of lines in
flight lets it, but no more than one block while it waits for an earlier operation's scratchpad outputs (05 R122, log 98). -/
def State.fetchStages (s : State) (w : OpAt) (e n : Nat) : State :=
  let total := w.desc.rounds e * w.desc.tiles
  let ahead := if !w.op.springbok then 2 else if s.owedBefore w (w.desc.stageUnits e n) then 1 else total - n
  (List.range (min ahead (total - n))).foldl (fun s i => if s.pathRoom w then s.fetchStage (s.refresh w) e (n + i) else s) s

/-- Go on with an operation at its next stage: true where the stage has been worked. -/
def State.stageStep (s : State) (w : OpAt) : State × Bool :=
  let e := s.width w.core w.op.springbok
  let n := w.stage
  if w.desc.rounds e ≤ w.op.round || s.opStopped w then (s, false)
  else match s.tileFault w e n with
    | some (c, va) => (s.opFault w c va, false)
    | none =>
      let s := s.fetchStages w e n
      if s.owedBefore w (w.desc.stageUnits e n) then (s, false)
      else
        let s := s.loadTile (s.refresh w) n
        let w := s.refresh w
        if s.stageReady w e n && s.bankFree w then (s.workStage w e n, true) else (s, false)

/-- Work stages of an operation, at most so many, as far as they go. -/
def State.stageSteps (s : State) (w : OpAt) : Nat → State
  | 0 => s
  | k + 1 =>
    match s.stageStep (s.refresh w) with
    | (t, true) => t.stageSteps w k
    | (t, false) => t

/-- Go on with a running operation: what the engine has computed drains, the rest of its round is worked as far as the operands are there, and what
is missing of them and of what follows is fetched. -/
def State.opStep (s : State) (w : OpAt) : State :=
  let s := (s.drainCore w.core w.op.springbok).declareOwed w
  let w := s.refresh w
  let e := s.width w.core w.op.springbok
  let s := s.stageSteps w (w.desc.tiles - w.op.tile)
  let w := s.refresh w
  let left := w.desc.rounds e * w.desc.tiles - w.stage
  let s := if w.op.springbok || w.desc.wScr || left ≤ 1 || (s.bufOf w w.stage).isNone then s else s.loadTile w (w.stage + 1)
  let s := s.drainCore w.core w.op.springbok
  if w.op.springbok || left = 0 || (left = 1 && (s.bufOf w w.stage).isSome) then s.fetchAhead w.core w.op.springbok else s

/-! ## Start -/

/-- An engine of a core works on an operation: it takes no other before that one's last round; the path takes none before its operation has
completed. An empty operation that has started does not hold the engine while it waits for the earlier ones of its slot (DESIGN CHOICE, log 86: the
spec says when it completes, and not whether the engine waits with it). -/
def State.workingOp (s : State) (core : Nat) (springbok : Bool) : Option OpAt :=
  (s.core core).slots.findSome? (fun x =>
    (x.mxq.find? (fun o => o.springbok = springbok && o.started && !(mxDesc o.springbok o.desc).empty && (springbok || !s.worked core o))).bind
      (fun o => x.opAt core o))

/-- The operation of an engine that a slot could run next: every earlier one of the slot has started (05 R124). -/
def nextOp (springbok : Bool) : List MxOp → Option MxOp
  | [] => none
  | o :: rest => if o.started then nextOp springbok rest else if o.springbok = springbok then some o else none

/-- The operation that an engine takes next, in rotating slot order. -/
def State.takeOp (s : State) (core : Nat) (springbok : Bool) : Option OpAt :=
  (rotation (if springbok then (s.core core).sbNext else (s.core core).arrNext)).findSome? (fun n =>
    match s.slot? { core := core, slot := n } with
    | some x => if x.st = .running || x.st = .draining then (nextOp springbok x.mxq).bind (fun o => x.opAt core o) else none
    | none => none)

/-- Take an operation: the engine's turn passes to the next slot, and a resident activation set is loaded (05 R119). -/
def State.beginOp (s : State) (w : OpAt) : State :=
  let s := s.updOp w (fun o => { o with started := true })
  let scr := (s.slot? { core := w.core, slot := w.slot }).elim [] (fun x => x.scratch)
  s.updCore w.core (fun k =>
    if w.op.springbok then
      { k with sbNext := (w.slot + 1) % 64,
               path := if w.desc.resident && !w.desc.empty then k.path.load w.desc.aRows scr else k.path }
    else { k with arrNext := (w.slot + 1) % 64 })

/-- An operation of the path can load its activation set: no earlier operation of its slot still has to write it (05 R124). -/
def State.canBegin (s : State) (w : OpAt) : Bool :=
  !(w.op.springbok && !w.desc.empty && w.desc.resident && s.owedBefore w (w.desc.units 1 0))

/-- Go on with the operation that an engine works on, or start the next one. -/
def State.opStart (s : State) (core : Nat) (springbok : Bool) : State :=
  match s.workingOp core springbok with
  | some w => if s.opStopped w then s else s.opStep w
  | none =>
    match s.takeOp core springbok with
    | none => s
    | some w =>
      if s.opStopped w || !s.canBegin w then s
      else
        let s := s.beginOp w
        s.opStep (s.refresh w)

/-- ELAND_OP_START: the arrays take the next operation and work its first round, or the next round of the one that they work on. -/
def execElandOpStart (core : Nat) (s : State) : Host.Outcome State Fault Refusal := .next (s.clockRow (s.opStart core false))

/-- SPRINGBOK_OP_START: the path takes the next operation and works its first column group, or the next group of its operation. -/
def execSpringbokOpStart (core : Nat) (s : State) : Host.Outcome State Fault Refusal := .next (s.clockRow (s.opStart core true))

/-! ## Completion -/

/-- The oldest started operation of an engine. -/
def State.runningOp (s : State) (core : Nat) (springbok : Bool) : Option OpAt :=
  let ops := (s.core core).slots.flatMap (fun x =>
    (x.mxq.filter (fun o => o.springbok = springbok && o.started)).filterMap (fun o => x.opAt core o))
  match ops.find? (fun w => s.worked core w.op && (!w.desc.empty || ((s.slot? { core := core, slot := w.slot }).elim [] (fun x => x.mxq)).head? = some w.op)) with
  | some w => some w
  | none => ops.find? (fun w => !s.worked core w.op)

/-- Work what is left of an operation, as far as its operands and credits go. -/
def State.opRest (s : State) (w : OpAt) : Nat → State
  | 0 => s.drainCore w.core w.op.springbok
  | n + 1 =>
    let w := s.refresh w
    let t := s.opStep w
    if (t.refresh w).op.round = w.op.round then t else t.opRest w n

/-- The operation leaves the queue and its token frees, with what it still holds of the landing buffer. -/
def State.retireOp (s : State) (w : OpAt) : State :=
  let s := if w.op.lands.isEmpty then s else s.updCore w.core (fun c => { c with landing := min 1536 (c.landing + w.op.lands.length) })
  let s := s.updSlot { core := w.core, slot := w.slot } (fun (x : Slot) => { x with mxq := x.mxq.filter (fun o => o.id != w.op.id) })
  if w.op.springbok then s else s.updCore w.core (fun c => { c with arrIdleSince := c.arrIdleSince.map (fun _ => s.time) })

/-- An error of a buffer stops the operation and kills its context (16 R370). -/
def State.opParity (s : State) (w : OpAt) (memory : Nat) : State :=
  (s.opFault w .eccUncorrectable 0).coreUe w.core memory w.inst

/-- What the operation met in the core's memories before it completes: killed, or goes on. -/
def State.opErr (s : State) (w : OpAt) (err : CoreErr) (go : State → State) : State :=
  match err with
  | .none => go s
  | .corrected m => go (s.coreCe w.core m)
  | .uncorrectable m => if m = 3 then go (s.coreCe w.core 3) else if m = 1 then go s else s.opParity w m

/-- Complete an operation: work what is left of it; with its last output written, or for the path accepted at its home, and its dead declarations
sent, it retires. -/
def State.opComplete (s : State) (core : Nat) (springbok : Bool) (err : CoreErr) : State :=
  match s.runningOp core springbok with
  | none => s
  | some w =>
    if s.opStopped w then s
    else s.opErr w err (fun s =>
      let s := s.opRest w (w.desc.rounds (s.width core springbok))
      let w := s.refresh w
      if s.opStopped w || !s.worked core w.op || !w.op.writes.isEmpty || !w.op.dead.isEmpty || (springbok && !s.outputsAccepted w) then s else s.retireOp w)

/-- ELAND_OP_COMPLETE. -/
def execElandOpComplete (core : Nat) (err : CoreErr) (s : State) : Host.Outcome State Fault Refusal :=
  .next (s.clockRow (s.opComplete core false err))

/-- SPRINGBOK_OP_COMPLETE. -/
def execSpringbokOpComplete (core : Nat) (err : CoreErr) (s : State) : Host.Outcome State Fault Refusal :=
  .next (s.clockRow (s.opComplete core true err))

end Sys2Proof.Machine
end

