-- ==== Sys2Proof/Machine/Home.lean ====
section
/-! DEFINITION. What the homes do with the requests of cores: bank accesses, adds, dead declarations, HBM reads, fills and landing
credits (06 R128 to R150, 07 R154 to R158, 08 R185 to R189, 11 R262 to R270, 16 R370, R371). -/
namespace Sys2Proof.Machine

/-! ## Delivery to a herd -/

/-- The context of a request. -/
def Req.ctxRef (x : Req) : CtxRef := { inst := x.inst, ctx := x.ctx }

/-- A request has ended: it is forgotten, and its landing line is free (06 R144). A load that waited for its data sends its own. -/
def State.endReq (s : State) (x : Req) : State :=
  let s := { s with reqs := requeue (fun k => k = x.rid) (s.reqs.filter (fun (y : Req) => y.rid != x.rid)), bankq := s.bankq.erase x.rid }
  if x.credited then s.updCore x.core (fun c => { c with landing := min 1536 (c.landing + 1) }) else s

/-- Results reach the destination registers of the herd that waits. -/
def State.deliver (s : State) (x : Req) (results : List (Nat × Nat)) : State :=
  if x.dst = 255 && !x.udst then s
  else
    let put := fun (y : Herd) => results.foldl (fun (y : Herd) r =>
      y.write x.dest r.1 (extend x.sx ((x.lanes.headD { lane := 0, va := 0, pa := 0, size := 4, data := 0, cmp := 0 }).size) r.2)) y
    s.updHerd { core := x.core, pos := x.pos } put

/-- The last data of an acquire has returned: the slot's L1 is invalidated where the scope asks for it, and the herd's later accesses
may be performed (08 R188). -/
def State.acquireEnd (s : State) (x : Req) : State :=
  if x.acquire && !s.reqs.any (fun (y : Req) => y.core = x.core && y.pos = x.pos && y.acquire) then
    let s := if 2 ≤ x.scope then s.invalidateL1 { core := x.core, slot := x.slot } else s
    s.updHerd { core := x.core, pos := x.pos } (fun (y : Herd) => { y with acquire := none })
  else s

/-- A fault of the access that a request performs (02 R56). What is left of a slot that has been wiped, 64, faults no context that was created
again since. -/
def State.reqFault (s : State) (x : Req) (cause : Cause) (lane va : Nat) : State :=
  if x.slot = 64 && (s.ctx? x.ctxRef).elim true (fun c => c.st != 3) then s
  else s.ctxFault x.ctxRef { cause := cause, core := x.core, herd := x.herd, lane := some lane, pc := x.pc.toNat, addr := va }

/-! ## What an access needs -/

/-- Lanes of a request in a sector. -/
def Req.inSector (x : Req) (sec : Nat) : List LaneAcc := x.lanes.filter (fun l => l.pa / 32 = sec)

/-- The lanes of a write cover a whole sector. -/
def coversSector (xs : List LaneAcc) : Bool :=
  let bs := sectorBytes xs
  (List.range 32).all (fun o => bs.any (fun b => b.1 = o))

/-- A request has to wait for HBM: it reads, or merges into, a sector that its half does not hold. -/
def State.reqMisses (s : State) (x : Req) : Bool :=
  match x.kind with
  | .declare _ => false
  | .write => x.sectors.any (fun sec => !coversSector (x.inSector sec) && s.ctxMissing x.ctxRef sec)
  | _ => x.sectors.any (fun sec => s.ctxMissing x.ctxRef sec)

/-- An earlier request to one of the sectors waits for HBM: the home performs them in order (08 R186). -/
def State.behindMiss (s : State) (x : Req) : Bool :=
  s.reqs.any (fun (y : Req) => y.target = .home && y.line = x.line && y.phase = .hbm && y.sectors.any (fun sec => x.sectors.contains sec))

/-- A store waits for a way that the writes of a held stack keep, and a dead declaration for its marker writes (11 R270). -/
def State.reqHeld (s : State) (x : Req) (choice : Nat) : Bool :=
  match x.kind with
  | .write => s.allocHeld (some x.inst) x.line choice
  | .declare chk => s.declareHeld x.line chk
  | _ => false

/-- Two requests share a path to the granule that they name: they left one core, or one region for a granule homed outside it (08 R185). -/
def State.samePath (s : State) (x y : Req) : Bool :=
  x.target = .home && y.target = .home && x.line / 8 = y.line / 8
    && (x.core = y.core || (regionOfCore x.core = regionOfCore y.core && s.homeRegion (x.line * 256) != regionOfCore x.core))

/-- A request is still on its path to its home. -/
def State.onPath (s : State) (x : Req) : Bool := x.phase = .queued && !s.bankq.contains x.rid

/-- No earlier request of its path is still on it (08 R185). -/
def State.pathClear (s : State) (x : Req) : Bool :=
  (s.reqs.takeWhile (fun (y : Req) => y.rid != x.rid)).all (fun (y : Req) => !(s.samePath x y && s.onPath y))

/-- HBM class of a request (11 R261). -/
def Req.hbmClass (x : Req) : Nat :=
  match x.kind with
  | .write => 1
  | _ => if x.stream then 2 else 0

/-! ## Performing a request -/

/-- The fault of a sector read, if it has one. -/
def SecRead.cause : SecRead → Option Cause
  | .deadFatal => some .deadRead
  | .poison => some .eccUncorrectable
  | _ => none

/-- Its bytes. -/
def SecRead.bytes : SecRead → List Byte
  | .ok bs => bs
  | .reread bs => bs
  | _ => List.replicate 32 0

/-- The fault of a request whose sectors read as `rs`. -/
def Req.fault (x : Req) (rs : List (Nat × SecRead)) : Option (Cause × Nat × Nat) :=
  firstFault (x.lanes.filterMap (fun l => ((rs.find? (fun r => r.1 = l.pa / 32)).bind (fun r => r.2.cause)).map (fun c =>
    LaneVa.mk l.lane l.va (.bad c))))

/-- Dead re-reads among sector reads. -/
def rereads (rs : List (Nat × SecRead)) : Nat :=
  (rs.filter (fun r => match r.2 with
    | .reread _ => true
    | _ => false)).length

/-- A blocked target of a fill: its stream request holds no landing line (06 R144). -/
def Req.blocked (x : Req) : Bool := x.stream && !x.credited

/-- Loads that wait for the data of a request. -/
def State.joinedTo (s : State) (rid : Nat) : List Req := s.reqs.filter (fun (y : Req) => y.phase = .joined rid)

/-- The other contexts whose loads wait for the data of a request. -/
def State.sharers (s : State) (x : Req) : List CtxRef := ((s.joinedTo x.rid).map Req.ctxRef).dedup.filter (fun c => c != x.ctxRef)

/-- A load or an operand read is performed: its data leaves the home, or it faults. A `hit` is the last use of its line; the read that brought it in
is not (06 R136). -/
def State.performRead (s : State) (x : Req) (hit : Bool) : State :=
  let rs := x.sectors.map (fun sec => (sec, s.ctxReadSector x.ctxRef sec))
  match x.fault rs with
  | some (c, lane, va) => (s.endReq x).reqFault x c lane va
  | none =>
    let data : BitVec 2048 := rs.foldl (fun d r => setLineBytes d (r.1 * 32) 32 (leNat r.2.bytes)) 0
    let mask : BitVec 8 := rs.foldl (fun m r => m ||| (1 <<< secBit r.1)) 0
    let res := x.lanes.map (fun l => (l.lane, lineBytes data l.pa l.size))
    let s := (if hit then s.touch x.line else s).countReread x.ctxRef (rereads rs)
    let s := (s.sharers x).foldl (fun s c => s.countReread c (rereads rs)) s
    { s with bankq := s.bankq.erase x.rid,
             reqs := updWhere (fun (y : Req) => decide (y.rid = x.rid)) (fun (y : Req) => { y with phase := .served res mask data }) s.reqs }

/-- One fill of a line is made for several requests and leaves its home: the blocked ones that were served take one replay slot, and where none is
free the fill holds in the home with its data (06 R143, R144, R145). -/
def State.fillOut (s : State) (line : Nat) (xs : List Req) (hit : Bool) : State :=
  let s := xs.foldl (fun s x => s.performRead x hit) s
  let served := xs.filterMap (fun x =>
    (s.reqs.find? (fun (y : Req) => y.rid = x.rid)).bind (fun y => match y.phase with
      | .served _ _ d => some (x.rid, d)
      | _ => none))
  match served with
  | [] => s
  | (_, d) :: _ =>
    let p : Replay := { line := line, data := d, targets := served.map Prod.fst }
    if (s.blockedOf p).isEmpty || s.replayUsed (s.homeRegion (line * 256)) < 64 then s.fillLeaves p else { s with fillHold := s.fillHold ++ [p] }

/-- A store is performed, sector by sector. -/
def State.performWrite (s : State) (x : Req) (choice : Nat) : State :=
  x.sectors.foldl (fun s sec => s.ctxWriteSector x.ctxRef sec choice (sectorBytes (x.inSector sec))) (s.endReq x)

/-- One lane's element replaced: the value before, and the state after. -/
def State.swapElem (s : State) (c : CtxRef) (l : LaneAcc) (choice : Nat) (f : Nat → Nat) : State × Nat :=
  let old := leNat (((s.ctxReadSector c (l.pa / 32)).bytes.drop (l.pa % 32)).take l.size)
  (s.ctxWriteSector c (l.pa / 32) choice ((leBytes (f old) l.size).zipIdx.map (fun b => (l.pa % 32 + b.2, b.1))), old)

/-- An atomic is performed, lanes ascending, and its old values return; a poisoned or fatally dead sector performs nothing and
kills the context. -/
def State.performAtomic (s : State) (x : Req) (aop choice : Nat) : State :=
  let rs := x.sectors.map (fun sec => (sec, s.ctxReadSector x.ctxRef sec))
  match x.fault rs with
  | some (c, lane, va) => (s.endReq x).reqFault x c lane va
  | none =>
    let one := fun (p : State × List (Nat × Nat)) (l : LaneAcc) =>
      let r := p.1.swapElem x.ctxRef l choice (fun old => atomNew aop l.size old l.data l.cmp)
      (r.1, p.2 ++ [(l.lane, r.2)])
    let res := x.lanes.foldl one ((s.endReq x).countReread x.ctxRef (rereads rs), [])
    (res.1.deliver x res.2).acquireEnd x

/-- Outcome of the lanes of an add by sector: a fatal dead read ends it; a poisoned sector drops its lanes. -/
def addLanes (x : Req) (rs : List (Nat × SecRead)) : List LaneAcc :=
  x.lanes.filter (fun l => !rs.any (fun r => r.1 = l.pa / 32 && r.2 = .poison))

/-- An add is performed, lanes ascending; lanes on a poisoned sector are dropped and recorded (11 R265). `size` is in bytes of the line. -/
def State.performAdd (s : State) (x : Req) (lf opf choice : Nat) : State :=
  let rs := x.sectors.map (fun sec => (sec, s.ctxReadSector x.ctxRef sec))
  match x.lanes.find? (fun l => rs.any (fun r => r.1 = l.pa / 32 && r.2 = .deadFatal)) with
  | some l => (s.endReq x).reqFault x .deadRead l.lane l.va
  | none =>
    let s := (s.endReq x).countReread x.ctxRef (rereads rs)
    let s := (rs.filter (fun r => r.2 = .poison)).foldl (fun s r =>
      if s.poisonMode.getLsbD (s.homeRegion (r.1 * 32)) then s
      else s.error 0x08 1 (0x40 + s.homeRegion (r.1 * 32)) (errAddr (r.1 * 32))) s
    (addLanes x rs).foldl (fun s l =>
      (s.swapElem x.ctxRef l choice (fun old => lineAdds lf opf (l.size / fmtBytes lf) old l.data)).1) s

/-- A dead declaration is performed. -/
def State.performDeclare (s : State) (x : Req) (chk : Bool) : State :=
  x.sectors.foldl (fun s sec => s.declareDead sec chk) (s.endReq x)

/-- Perform a request at its home: on a hit, or as its line comes in. -/
def State.perform (s : State) (x : Req) (choice : Nat) (hit : Bool) : State :=
  let s := s.countLlc (some x.inst) (x.line * 256)
  match x.kind with
  | .read => s.fillOut x.line [x] hit
  | .operand _ => s.fillOut x.line [x] hit
  | .write => (s.performWrite x choice).drainEvents
  | .atomic aop _ => s.performAtomic x aop choice
  | .add lf opf => s.performAdd x lf opf choice
  | .declare chk => s.performDeclare x chk
  | .fetch => s

/-! ## Banks (06 R128, R142, R143) -/

/-- A stream read of a line of this module. -/
def Req.streamOf (x : Req) (line : Nat) : Bool := x.fetches && x.stream && x.target = .home && x.line = line

/-- An earlier access of a request's own herd to one of its sectors has not been performed: the herd reads what that leaves (08 R187). -/
def State.ownWaits (s : State) (x : Req) : Bool :=
  (s.reqs.takeWhile (fun (y : Req) => y.rid != x.rid)).any (fun (y : Req) =>
    !y.fetches && y.core = x.core && y.pos = x.pos && y.target = .home && y.sectors.any (fun sec => x.sectors.contains sec))

/-- Stream reads of a line that wait beside a first one, and can be served together (06 R143). -/
def State.streamPeers (s : State) (x : Req) : List Req :=
  s.reqs.filter (fun (y : Req) => y.rid != x.rid && y.streamOf x.line && y.phase = .queued && s.pathClear y && !s.reqMisses y && !s.behindMiss y
    && !s.ownWaits y)

/-! ## Reads of other modules, which join a stream fill too (06 R143, 12 R291, R292) -/

/-- The region of a line is out of reset. -/
def State.homeUp (s : State) (line : Nat) : Bool := !s.regionDown (s.homeRegion (line * 256))

/-- The instance in whose grant a request's sectors must lie, or the reason to refuse it. -/
def State.fabricGrant (s : State) (m : Msg) : Nat ⊕ Nat :=
  match s.group? m.groupId.toNat with
  | none => .inr 1
  | some g =>
    if !g.members.any (fun x => x.1 = m.srcPkg.toNat) then .inr 1
    else
      let a := m.addr.toNat
      let secs := (List.range m.nsect.toNat).map (fun i => a + 32 * i)
      if !secs.all (fun x => s.backed x) then .inr 2
      else match s.inst? g.inst with
        | none => .inr 1
        | some i => if !secs.all (fun x => i.grants x) then .inr 1 else if !s.homeUp (a / 256) then .inr 4 else .inl i.id

/-- Masks of a read response: dead and poisoned sectors. -/
def State.readMasks (s : State) (a n : Nat) : BitVec 64 × BitVec 64 :=
  (List.range n).foldl (fun p i =>
    let sec := a / 32 + i
    (if s.secDead sec then p.1 ||| (1 <<< i) else p.1, if s.secPoisoned sec then p.2 ||| (1 <<< i) else p.2)) (0, 0)

/-- Answer with data. -/
def State.rspData (s : State) (port : Nat) (m : Msg) (masks : BitVec 64 × BitVec 64) (data : List Byte) : State :=
  s.respond port m { Msg.to 0x10 0 with nsect := m.nsect, deadMask := masks.1, poisonMask := masks.2 } data

/-- A remote read: each sector as the home holds it, with the dead and poisoned ones marked (12 R291); a hit is the last use of its line (06 R136). -/
def State.homeRd (s : State) (port : Nat) (m : Msg) (hit : Bool) : State :=
  let a := m.addr.toNat
  let n := m.nsect.toNat
  let s := if !hit then s else (distinct ((List.range n).map (fun i => (a + 32 * i) / 256))).foldl (fun s l => s.touch l) s
  s.rspData port m (s.readMasks a n) ((List.range n).flatMap (fun i => s.secBytes (a / 32 + i)))

/-- A request of another module goes behind one that is held: both are of one module and to one granule (08 R185), or they share a sector (R186). -/
def msgFollows (m n : Msg) : Bool :=
  (n.srcPkg = m.srcPkg && n.addr.toNat / 2048 = m.addr.toNat / 2048)
    || (decide (n.addr.toNat / 32 < m.addr.toNat / 32 + m.nsect.toNat) && decide (m.addr.toNat / 32 < n.addr.toNat / 32 + n.nsect.toNat))

/-- A request of another module that is held here and may be performed: it goes behind none that is held before it, and no sector of it is to be
read. -/
def State.inboundTurn (s : State) (i : Inbound) : Bool :=
  (s.fx.inbound.takeWhile (fun j => j != i)).all (fun j => !msgFollows i.msg j.msg)
    && (List.range i.msg.nsect.toNat).all (fun k => !s.secMissing (i.msg.addr.toNat / 32 + k))

/-- Stream reads of other modules that wait for a line alone join its multicast fill (06 R143). -/
def State.joinInbound (s : State) (line : Nat) : State :=
  let mine := fun (i : Inbound) =>
    i.msg.typ = 1 && i.msg.stream && i.msg.addr.toNat / 256 = line && decide (i.msg.addr.toNat % 256 + 32 * i.msg.nsect.toNat ≤ 256)
  (s.fx.inbound.filter mine).foldl (fun s i =>
    if !s.inboundTurn i then s
    else
      let t := { s with fx := { s.fx with inbound := s.fx.inbound.erase i } }
      match s.fabricGrant i.msg with
      | .inr reason => t.nackMsg i.port i.msg reason
      | .inl _ => t.homeRd i.port i.msg (!i.missed)) s

/-! ## Misses -/

/-- A request waits for its line's HBM request entry, behind what waits there already. -/
def State.joinEntry (s : State) (x : Req) : State :=
  let s := s.fetchLine x.line x.hbmClass (some x.inst) x.stream
  let wait := fun (e : HbmEntry) => { e with waiters := e.waiters ++ [x.rid] }
  { s with bankq := s.bankq.erase x.rid,
           hbmEntries := updWhere (fun (e : HbmEntry) => decide (e.line = x.line)) wait s.hbmEntries,
           reqs := updWhere (fun (y : Req) => decide (y.rid = x.rid)) (fun (y : Req) => { y with phase := .hbm }) s.reqs }

/-- Lines that requests of a bandwidth group, in the bank queues of a half, will need new entries for. -/
def State.queuedMisses (s : State) (r grp : Nat) : Nat :=
  (distinct (s.bankq.filterMap (fun k => (s.reqs.find? (fun (y : Req) => y.rid = k && s.homeRegion (y.line * 256) = r && s.bwgOf (some y.inst) = grp
    && s.reqMisses y && !s.hbmEntries.any (fun e => e.line = y.line))).map (fun y => y.line)))).length

/-- A miss is held at its home region's ingress, in the list of its group: it needs a new entry, and those of the group, with those that its queued
misses will take, are at the limit (10 R244). -/
def State.ingressHeld (s : State) (x : Req) : Bool :=
  let r := s.homeRegion (x.line * 256)
  let g := s.bwgOf (some x.inst)
  s.reqMisses x && !s.hbmEntries.any (fun e => e.line = x.line) && s.entriesLeft r g ≤ s.queuedMisses r g

/-- A queued request that misses now, with its group at the limit, goes back to the ingress, and with it what is queued behind it on its path. -/
def State.toIngress (s : State) (x : Req) : State :=
  { s with bankq := s.bankq.filter (fun k => k != x.rid
      && !((s.bankq.dropWhile (fun j => j != x.rid)).contains k && s.reqs.any (fun (y : Req) => y.rid = k && s.samePath x y))) }

/-- The bank takes a request: performed, the stream reads of a line in one access (log 100), waiting with its line's HBM request entry, or, as a miss without room, back at the ingress; false where it
waits at the head of the bank's queue for a held stack. -/
def State.bankServe (s : State) (x : Req) (choice : Nat) : State × Bool :=
  if s.reqMisses x || s.behindMiss x then
    if !s.hbmEntries.any (fun e => e.line = x.line) && s.entriesFull (s.homeRegion (x.line * 256)) (s.bwgOf (some x.inst)) then (s.toIngress x, true)
    else (s.joinEntry x, true)
  else if s.reqHeld x choice then (s, false)
  else if x.streamOf x.line then
    (((s.countLlc (some x.inst) (x.line * 256)).joinInbound x.line).fillOut x.line (x :: s.streamPeers x) true, true)
  else (s.perform x choice true, true)

/-- The bank of a line serves its queue from the head, as far as it goes. -/
def State.bankDrain (s : State) (line choice : Nat) : Nat → State
  | 0 => s
  | n + 1 =>
    match s.bankQueue line with
    | [] => s
    | x :: _ => match s.bankServe x choice with
      | (t, true) => t.bankDrain line choice n
      | (_, false) => s

/-- A request arrives at its bank, behind the up to 32 that wait there, and behind requests of other modules that wait for its sectors (08 R186); a
full queue takes none, nor a miss whose group is at its limit (10 R244). -/
def State.bankArrive (s : State) (x : Req) (choice : Nat) : State :=
  if s.bankq.contains x.rid then s.bankDrain x.line choice 32
  else if !s.pathClear x || 32 ≤ (s.bankQueue x.line).length || s.ingressHeld x || x.sectors.any (fun sec => s.inboundAt sec) then s
  else ({ s with bankq := s.bankq ++ [x.rid] }).bankDrain x.line choice 33

/-- The first sector of a request becomes poisoned by an uncorrectable error of the LLC's data (16 R370). -/
def State.llcPoison (s : State) (x : Req) : State :=
  let sec := s.canonSec (x.sectors.headD 0)
  if !s.secValid sec then s
  else
    let s := s.error 0x04 1 (0x40 + s.homeRegion (sec * 32)) (errAddr (sec * 32))
    if inWindow (sec * 32) then { s with poisonMarks := insertNat s.poisonMarks sec }
    else s.updTag (sec / 8) (fun l => { l with poison := l.poison ||| (1 <<< secBit sec) })

/-- What an access meets in the half's SRAM. -/
def State.llcErr (s : State) (x : Req) : LlcErr → State
  | .none => s
  | .corrected =>
    let a := x.sectors.headD 0 * 32
    s.error 0x03 0 (0x40 + s.homeRegion a) (errAddr a)
  | .dataUncorrectable => s.llcPoison x
  | .tagsUncorrectable way =>
    let r := s.homeRegion (x.line * 256)
    { s with poisonMode := s.poisonMode ||| (1 <<< r) }.error 0x05 2 (0x40 + r) (way % 64)

/-- A queued request of this module's homes. -/
def State.queued? (s : State) (rid : Nat) : Option Req :=
  s.reqs.find? (fun (x : Req) => x.rid = rid && x.target = .home && x.phase = .queued)

/-- The home of a request is held in reset: its Blanket answers with an error (14 R326). -/
def State.downReq (s : State) (x : Req) : State :=
  let l := x.lanes.headD { lane := 0, va := 0, pa := 0, size := 4, data := 0, cmp := 0 }
  (s.endReq x).reqFault x .addressFault l.lane l.va

/-! ## HBM reads (11 R260 to R266) -/

/-- A read of a sector finds an uncorrectable one: it counts, once, and is recorded (R264, R265). -/
def State.uncorrectable (s : State) (sec : Nat) : State :=
  let r := s.homeRegion (sec * 32)
  (s.hbmCount r 0 1).error 0x07 1 (0x40 + r) (errAddr (sec * 32))

/-- A read of a sector finds an error of one byte: it counts, is recorded, and the sector, or its marker, is queued for rewriting (R264, R266). -/
def State.corrected (s : State) (sec : Nat) : State :=
  let r := s.homeRegion (sec * 32)
  ((s.hbmCount r 1 0).error 0x06 0 (0x40 + r) (errAddr (sec * 32))).queueWrite sec

/-- A sector whose data is lost becomes poison. -/
def State.loseSector (s : State) (sec : Nat) : State := { s with poisonMarks := insertNat s.poisonMarks sec, deadMarks := s.deadMarks.erase sec }

/-- One sector that its half does not hold read with what the code finds in it: a sector whose write is queued is served from the write queue
(R262); an uncorrectable sector, a failed parity retry, a poison marker or a failed pseudo-channel is one uncorrectable read. -/
def State.hbmSector (s : State) (sec : Nat) (e : Ecc) : State :=
  if s.secValid sec || (s.underDeadTag sec && s.secMarked sec) then s
  else if s.pcFailed (sec * 32) then s.uncorrectable sec
  else
    let e := if s.inWq sec then .clean else e
    if e = .uncorrectable || e = .parityFailed then (s.loseSector sec).uncorrectable sec
    else
      let s := if e = .corrected then s.corrected sec else s
      if s.poisonMarks.contains sec then s.uncorrectable sec else s

/-- Requests that wait for an entry's line, in the order of their arrival at the bank. -/
def State.waitersOf (s : State) (e : HbmEntry) : List Req :=
  e.waiters.filterMap (fun rid => s.reqs.find? (fun (x : Req) => x.rid = rid && x.phase = .hbm))

/-- Serve what waited for a line, in order; the stream reads among them are served together with the first (06 R143), but for one whose own herd has
an earlier access still to come. `done` are those that have been served before their turn. -/
def State.serveWaiters (s : State) (line choice : Nat) (done : List Nat) : List Req → State
  | [] => s
  | x :: rest =>
    if done.contains x.rid then s.serveWaiters line choice done rest
    else if x.streamOf line then
      let s := (s.countLlc (some x.inst) (line * 256)).joinInbound line
      let xs := x :: rest.filter (fun y => y.streamOf line && !done.contains y.rid && !s.ownWaits y)
      (s.fillOut line xs false).serveWaiters line choice (done ++ xs.map (fun y => y.rid)) rest
    else (s.perform x choice false).serveWaiters line choice done rest

/-- HBM_REQUEST_AGING: 4 µs after it entered the window a request is of class 0. -/
def execHbmRequestAging (line : Nat) (s : State) : Host.Outcome State Fault Refusal :=
  let old := fun (e : HbmEntry) => e.line = line && e.entered.elim false (fun t => decide (t + 4000 ≤ s.time))
  .next (s.clockRow { s with hbmEntries := updWhere old (fun (e : HbmEntry) => { e with cls := 0 }) s.hbmEntries })

/-! ## Fills (02 R43, R45; 06 R141, R144; 08 R187) -/

/-- L1 ways that a slot allocates into: its private ways that its kernel does not use as scratchpad, or the common ways 14 and 15 where it has
none (02 R43). -/
def Slot.l1Ways (x : Slot) : List Nat :=
  let s := x.kernel.elim 0 (fun k => k.scratchBytes / 2 ^ 19)
  if s < x.w then (List.range (x.w - s)).map (fun i => s + i) else [14, 15]

/-- Lines of a core's L1 that share a set with a line, in the ways a slot allocates into, with their slots. Common ways are shared by all
slots; private ways belong to their slot. -/
def Core.l1Peers (c : Core) (sl line : Nat) (ways : List Nat) : List (Nat × L1Line) :=
  c.slots.flatMap (fun x => (x.l1.filter (fun l => Config.l1Set l.line % 2048 = Config.l1Set line % 2048 && ways.contains l.way
    && (x.num = sl || 14 ≤ l.way))).map (fun l => (x.num, l)))

/-- The way that a fill takes and the line of a slot that it displaces: a free way, else a line that was not used last (02 R45, log 12). -/
def Core.l1Place (c : Core) (sl line choice : Nat) (ways : List Nat) : Nat × Option (Nat × Nat) :=
  let peers := c.l1Peers sl line ways
  match ways.find? (fun w => !peers.any (fun p => p.2.way = w)) with
  | some w => (w, none)
  | none =>
    let old := peers.filter (fun p => !p.2.mru)
    let own := if old.isEmpty then peers else old
    match own[choice % own.length]? with
    | some p => (p.2.way, some (p.1, p.2.line))
    | none => (ways.headD 14, none)

/-- Put sectors of a returning line into a copy. -/
def L1Line.put (l : L1Line) (m : BitVec 8) (data : BitVec 2048) : L1Line :=
  (List.range 8).foldl (fun (l : L1Line) i =>
    if m.getLsbD i then { l with data := setLineBytes l.data (32 * i) 32 (lineBytes data (32 * i) 32) } else l) { l with valid := l.valid ||| m }

/-- The sectors of a returning line enter a slot's L1: they replace valid copies, and where the load may allocate they become valid. -/
def State.fillL1 (s : State) (r : SlotRef) (line choice : Nat) (secs : BitVec 8) (data : BitVec 2048) (alloc : Bool) : State :=
  match s.slot? r with
  | none => s
  | some x =>
    match x.l1.find? (fun l => l.line = line) with
    | some old =>
      let m := if alloc then secs else secs &&& old.valid
      let s := s.updSlot r (fun (y : Slot) => { y with l1 := updWhere (fun (l : L1Line) => decide (l.line = line)) (fun l => l.put m data) y.l1 })
      if alloc then s.touchL1 r line else s
    | none =>
      if !alloc || secs = 0 then s
      else
        let p := (s.core r.core).l1Place r.slot line choice x.l1Ways
        let drop := fun (y : Slot) =>
          { y with l1 := y.l1.filter (fun l => !(p.2.elim false (fun v => v.1 = y.num && v.2 = l.line))) }
        let s := s.updCore r.core (fun c => { c with slots := c.slots.map drop })
        let new : L1Line := { line := line, way := p.1, mru := false, valid := 0, data := 0 }
        (s.updSlot r (fun (y : Slot) => { y with l1 := y.l1 ++ [new.put secs data] })).touchL1 r line

/-- One served load reaches its herd: registers, L1 (08 R187), and the end of an acquire. -/
def State.arriveLoad (s : State) (x : Req) (choice : Nat) (res : List (Nat × Nat)) (mask : BitVec 8) (data : BitVec 2048) : State :=
  let s := (s.endReq x).deliver x res
  let s := if x.target = .home then
      s.fillL1 { core := x.core, slot := x.slot } x.line choice (mask &&& ~~~x.drop) data (decide (x.scope ≤ 1) && !x.stream)
    else s
  s.acquireEnd x

/-- Served data reaches the core: the load that asked for it, and those that joined its miss register (06 R141); or the operand buffers. -/
def State.arriveFill (s : State) (choice : Nat) (x : Req) : State :=
  match x.phase with
  | .served res mask data =>
    match x.kind with
    | .operand _ => (s.endReq { x with credited := false }).operandArrive x data
    | _ =>
      (s.joinedTo x.rid).foldl (fun s y =>
        s.arriveLoad { y with drop := y.drop ||| x.drop } choice (y.lanes.map (fun l => (l.lane, lineBytes data l.pa l.size)))
          (y.sectors.foldl (fun (m : BitVec 8) sec => m ||| (1 <<< secBit sec)) 0 &&& mask) data) (s.arriveLoad x choice res mask data)
  | _ => s

/-- A fill that holds in its home for want of a replay slot has a request among its targets (06 R145). -/
def State.fillHeld (s : State) (rid : Nat) : Bool := s.fillHold.any (fun p => p.targets.contains rid)

/-- FILL_ARRIVAL: every request of the core whose data has left the line's home is served. -/
def execFillArrival (core line choice : Nat) (s : State) : Host.Outcome State Fault Refusal :=
  .next (s.clockRow ((s.reqs.filter (fun (x : Req) => x.core = core && x.line = line && x.fetches && (!x.blocked || x.target != .home) && !s.fillHeld x.rid
      && (match x.phase with
        | .served _ _ _ => true
        | _ => false))).foldl (fun s x => s.arriveFill choice x) s))

/-- LANDING_CREDIT_RETURN: a freed landing line serves the core's oldest uncredited stream request; a replay slot frees with its last
blocked target (06 R144). -/
def execLandingCreditReturn (core : Nat) (s : State) : Host.Outcome State Fault Refusal :=
  .next (s.clockRow (match s.reqs.find? (fun (x : Req) => x.core = core && x.owesCredit) with
  | none => s
  | some x =>
    if (s.core core).landing = 0 then s
    else
      let s := s.updCore core (fun c => { c with landing := c.landing - 1 })
      ({ s with reqs := updWhere (fun (y : Req) => decide (y.rid = x.rid)) (fun (y : Req) => { y with credited := true }) s.reqs }).trimReplay))

end Sys2Proof.Machine
end

