-- ==== Sys2Proof/Machine/QueueControl.lean ====
section
/-! DEFINITION. The queue-control commands: NOP, FENCE, SIGNAL, WAIT (09 R219, R220, 08 R193). -/
namespace Sys2Proof.Machine

/-- Commands of the same queue that were read before a command and have not completed. -/
def State.earlier (s : State) (c : Cmd) : List Cmd := (s.queueCmds c.q).takeWhile (fun d => d.cid != c.cid)

/-- NOP. -/
def execNolzinNop (cid : Nat) (s : State) : Host.Outcome State Fault Refusal :=
  .next (match s.begun? cid 1 with
  | none => s
  | some c => s.checked c [(16, c.zero 16 64)] (s.doneCmd cid .success 0))

/-- FENCE: completes once every earlier command of the queue has; later ones begin after it. -/
def execNolzinFence (cid : Nat) (s : State) : Host.Outcome State Fault Refusal :=
  .next (match s.begun? cid 2 with
  | none => s
  | some c => if (s.earlier c).isEmpty then s.checked c [(16, c.zero 16 64)] (s.doneCmd cid .success 0) else s)

/-! ## SIGNAL -/

/-- Bytes that a `SIGNAL` accesses. -/
def sigBytes (c : Cmd) : Nat := if c.byte 32 = 1 then 4 else 8

/-- SIGNAL at a home: a store, or an add that returns the value before it. Either reads the sector, in class 0 (11 R261). -/
def State.signalHome (s : State) (c : Cmd) (x : CtxRef) (a : Nat) : State :=
  let n := sigBytes c
  let s := s.useRegion c.cid a
  if s.cmdBehind c.cid a then s
  else if s.ctxMissing x (a / 32) then s.fetchLine (a / 256) 0 (some x.inst) false
  else if s.allocHeld (some x.inst) (a / 256) 0 then s
  else if c.byte 32 != 2 then (s.ctxWrite x a (leBytes (c.field 24 8) n)).doneCmd c.cid .success 0
  else
    let add := fun (s : State) (bs : List Byte) =>
      let old := leNat ((bs.drop (a % 32)).take 8)
      (s.ctxWrite x a (leBytes (old + c.field 24 8) 8)).doneCmd c.cid .success old
    match s.ctxReadSector x (a / 32) with
    | .ok bs => add s bs
    | .reread bs => add (s.countReread x 1) bs
    | .deadFatal => s.cmdDead x
    | .poison => (s.error 0x08 1 (0x40 + s.homeRegion a) (errAddr a)).doneCmd c.cid .memUncorrectable (s.globalPa (a / 32 * 32))

/-- SIGNAL on another module: a write, or an atomic add, whose response carries the value before it (log 27). -/
def State.signalRemote (s : State) (c : Cmd) (x : CtxRef) (pa : Nat) : State :=
  let n := sigBytes c
  let acc : LaneAcc := { lane := 0, va := 0, pa := pa, size := n, data := c.field 24 8 % 2 ^ (8 * n), cmp := 0 }
  let img := (leBytes acc.data n).zipIdx.foldl (fun (l : List Byte) b => l.set (pa % 32 + b.2) b.1) (List.replicate 32 0)
  let mask : BitVec 32 := BitVec.ofNat 32 ((2 ^ n - 1) * 2 ^ (pa % 32))
  let m := if c.byte 32 = 2 then { Msg.to 3 0 with nsect := 1, firstMask := mask, cmd := true, op := 16 }
    else { Msg.to 2 0 with nsect := 1, firstMask := mask, cmd := true }
  match s.request x.inst (.cmd c.cid) pa m img with
  | .ok t => t.activate c.cid
  | _ => s

/-- SIGNAL: after every earlier command of its queue, a release at `FABRIC` scope. -/
def execSignal (cid : Nat) (s : State) : Host.Outcome State Fault Refusal :=
  .next (match s.begun? cid 3 with
  | none => s
  | some c =>
    match s.cmdCtx c with
    | none => s
    | some x =>
      if !(s.earlier c).isEmpty then s
      else s.checked c [(16, c.pointer 16), (32, c.byte 32 ≤ 2), (32, c.field 16 8 % sigBytes c = 0), (33, c.zero 33 64)]
        (s.withRanges c x.inst [(.write, c.field 16 8, sigBytes c)]
          (match s.cmdTo x.inst c.since .write (c.field 16 8) with
          | .ok (.home a) => s.newChoice.signalHome c x a
          | .ok (.remote pa) => s.newChoice.signalRemote c x pa
          | .ok (.host a) =>
            let s := s.newChoice
            if c.byte 32 = 2 then
              if !s.hostFits 1 then s
              else (s.hostTxn (.cmd cid) (c.field 16 8) a (fun s rid => s.sendAtomic (x.inst + 1) rid a .fetchAdd 8 (c.field 24 8) 0)).activate cid
            else
              let bs := leBytes (c.field 24 8) (sigBytes c)
              let s := { s with hostMem := writeBytes s.hostMem a bs }
              (s.sendWrite (x.inst + 1) s.nextId a bs false).doneCmd cid .success 0
          | _ => s)))

/-! ## WAIT -/

/-- Bytes of a `WAIT` word. -/
def waitBytes (c : Cmd) : Nat := if c.byte 41 = 3 then 8 else 4

/-- `COND` on the masked word. -/
def waitHolds (c : Cmd) (word : Nat) : Bool :=
  let a := word &&& c.field 32 8
  let b := c.field 24 8 &&& c.field 32 8
  match c.byte 40 with
  | 0 => a = b
  | 1 => a != b
  | 2 => b ≤ a
  | _ => a < b

/-- Milliseconds since a command began. -/
def State.elapsedMs (s : State) (c : Cmd) : Nat := (s.time - c.start) / 1000000

/-- A `WAIT` whose condition does not hold in time: `TIMEOUT`, and its queue halts (`State.haltAfter`). -/
def State.waitOver (s : State) (c : Cmd) : State := s.stopCmd c.cid .timeout (s.elapsedMs c)

/-- A `WAIT` has read its word: it completes, or waits for its next poll; with `TIMEOUT_MS` = 0 it reads once. -/
def State.waitRead (s : State) (c : Cmd) (word step : Nat) : State :=
  if waitHolds c word then s.doneCmd c.cid .success word
  else if c.field 44 4 = 0 then s.waitOver c
  else s.updCmd c.cid (fun d => { d with phase := .active, mark := s.time + step })

/-- Read the word of a `WAIT` once: at its home, or by a request to another module or the host whose response is the read. A read that cannot
be made yet is tried again by the next WAIT_POLL. -/
def State.waitPoll (s : State) (c : Cmd) (x : CtxRef) : State :=
  let later := fun (s : State) => s.updCmd c.cid (fun d => { d with phase := .active, mark := s.time + 4000 })
  let again := fun (s : State) => s.updCmd c.cid (fun d => { d with phase := .active, mark := s.time })
  match s.cmdTo x.inst c.since .read (c.field 16 8) with
  | .bad st d => s.doneCmd c.cid st d
  | .ask q => again (s.newChoice.askXlat x.inst q)
  | .held => again s
  | .ok (.home a) =>
    let s := s.newChoice.useRegion c.cid a
    let word := fun (bs : List Byte) => leNat ((bs.drop (a % 32)).take (waitBytes c))
    if s.cmdBehind c.cid a then again s
    else if s.ctxMissing x (a / 32) then again (s.fetchLine (a / 256) 0 (some x.inst) false)
    else match s.ctxReadSector x (a / 32) with
      | .ok bs => s.waitRead c (word bs) 1000
      | .reread bs => (s.countReread x 1).waitRead c (word bs) 1000
      | .deadFatal => s.cmdDead x
      | .poison => s.doneCmd c.cid .memUncorrectable (s.globalPa (a / 32 * 32))
  | .ok (.remote pa) =>
    match s.newChoice.request x.inst (.cmd c.cid) pa { Msg.to 1 0 with nsect := 1, cmd := true } [] with
    | .ok t => later t
    | _ => again s
  | .ok (.host a) =>
    if s.hostFits 1 then later (s.newChoice.hostTxn (.cmd c.cid) (c.field 16 8) a (fun s rid => s.sendRead (x.inst + 1) rid a (waitBytes c)))
    else again s.newChoice

/-- WAIT: checks its fields, then reads its word once. Its time runs whether or not the read can be made. -/
def execWait (cid : Nat) (s : State) : Host.Outcome State Fault Refusal :=
  .next (match s.begun? cid 4 with
  | none => s
  | some c =>
    match s.cmdCtx c with
    | none => s
    | some x => s.checked c
      [(16, c.pointer 16), (40, c.byte 40 ≤ 3), (41, c.byte 41 = 2 || c.byte 41 = 3), (41, c.field 16 8 % waitBytes c = 0), (42, c.zero 42 44),
       (44, c.field 44 4 ≤ 60000), (48, c.zero 48 64)]
      (s.waitPoll c x))

/-- A `WAIT` that is waiting. -/
def State.waiting? (s : State) (cid : Nat) : Option Cmd :=
  match s.cmd? cid with
  | some c => if c.opcode = 4 && c.phase = .active && s.engineRuns c.q then some c else none
  | none => none

/-- WAIT_POLL: the next read, 1 µs or 4 µs after the last. -/
def execWaitPoll (cid : Nat) (s : State) : Host.Outcome State Fault Refusal :=
  .next (s.clockRow (match s.waiting? cid with
  | none => s
  | some c =>
    match s.cmdCtx c with
    | none => s
    | some x => if c.mark ≤ s.time && (s.cmdTxns cid).isEmpty then s.waitPoll c x else s))

/-- WAIT_TIMEOUT: `TIMEOUT_MS` after the command began. A value of 0 asks for one read, whatever that waits for, and the read itself ends the command
(`State.waitRead`). -/
def execWaitTimeout (cid : Nat) (s : State) : Host.Outcome State Fault Refusal :=
  .next (s.clockRow (match s.waiting? cid with
  | none => s
  | some c =>
    if s.time < c.start + c.field 44 4 * 1000000 || c.field 44 4 = 0 then s else s.waitOver c))

end Sys2Proof.Machine
end

