-- ==== Sys2Proof/Machine/Dma.lean ====
section
/-! DEFINITION. DMA and cache commands (09 R224, R225; 06 R139, R140, R147). -/
namespace Sys2Proof.Machine

/-- A command has ended and waits for its record. -/
def Cmd.hasEnded (c : Cmd) : Bool := match c.phase with
  | .ended _ _ => true
  | _ => false

/-- A command of the DMA engine may take effect: every earlier one of its queue has nothing left to send or to wait for (08 R192). -/
def State.dmaTurn (s : State) (c : Cmd) : Bool :=
  (s.earlier c).all (fun d => !isDmaOp d.opcode || d.hasEnded || (d.phase = .active && s.quiet d))

/-- Begin to move the pieces of a command. -/
def State.startPieces (s : State) (cid : Nat) (todo : List (Nat × Nat × Nat)) (out : List (Nat × List Byte)) : State :=
  (s.updCmd cid (fun c => { c with phase := .active, todo := todo, out := out })).pump cid

/-- A command that waits for its DMA engine, or is under way, ends where the engine's region is held in reset (14 R322, R326); the failing address is
that of its first parameter (DESIGN CHOICE, log 96). -/
def State.engineGone (s : State) (c : Cmd) : Option State :=
  if s.engineDown c && (c.phase = .begun || c.phase = .active) then some (s.stopCmd c.cid .addressFault (failAddr (c.field 16 8))) else none

/-- A DMA row: a begun command is checked and starts once it is its turn; one that is under way moves on. -/
def State.dmaRow (s : State) (cid op : Nat) (go : Cmd → CtxRef → State) : State :=
  match s.cmd? cid with
  | none => s
  | some c =>
    if c.opcode != op || !s.engineRuns c.q then s
    else match s.engineGone c with
    | some t => t
    | none =>
      if c.phase = .active then s.pump cid
      else match s.cmdCtx c with
        | none => s
        | some x => if c.phase = .begun && s.dmaTurn c then go c x else s

/-- Pieces of a copy: one per source sector, which is read in one access (08 R198). -/
def copyPieces (src dst len : Nat) : List (Nat × Nat × Nat) := (splitRange src len).map (fun p => (p.1, dst + (p.1 - src), p.2))

/-- What a copy's checks want of each page of its source: with `SRC_DISCARD`, to write it, unless it is a host frame (R224). -/
def State.srcWants (s : State) (c : Cmd) (inst src len : Nat) : List (Want × Nat × Nat) :=
  if !bit (c.byte 40) 0 then [(.read, src, len)]
  else (pagesOf src len).map (fun p => match s.translate inst .read p.1 c.since with
    | .device _ _ => (.write, p.1, p.2)
    | _ => (.read, p.1, p.2))

/-- DMA_COPY. -/
def execDmaCopy (cid : Nat) (s : State) : Host.Outcome State Fault Refusal :=
  .next (s.dmaRow cid 0x18 (fun c x =>
    let src := c.field 16 8
    let dst := c.field 24 8
    let len := c.field 32 8
    s.checked c [(16, c.pointer 16), (24, c.pointer 24), (40, c.byte 40 ≤ 1), (41, c.zero 41 64)]
      (s.withRanges c x.inst (s.srcWants c x.inst src len ++ [(.write, dst, len)])
        (if (s.rangeTo x.inst c.since src len).any (fun a => (s.rangeTo x.inst c.since dst len).any (fun b => pieceMeets a b)) then s.badParam cid 24
         else s.startPieces cid (copyPieces src dst len) []))))

/-- Pattern width in bytes. -/
def patBytes (c : Cmd) : Nat := 2 ^ (c.byte 40 % 4)

/-- The bytes of a fill: packet byte 32 + (o mod w) at offset o. -/
def fillBytes (c : Cmd) (len : Nat) : List Byte := (List.range len).map (fun o => c.pkt.getD (32 + o % patBytes c) 0)

/-- DMA_FILL. -/
def execDmaFill (cid : Nat) (s : State) : Host.Outcome State Fault Refusal :=
  .next (s.dmaRow cid 0x19 (fun c x =>
    let dst := c.field 16 8
    let len := c.field 24 8
    let w := patBytes c
    s.checked c
      [(16, c.pointer 16), (40, c.byte 40 ≤ 3), (40, dst % w = 0 && len % w = 0), (40, c.zero (32 + w) 40), (41, c.zero 41 64)]
      (s.withRanges c x.inst [(.write, dst, len)] (s.startPieces cid [] (splitSectors dst (fillBytes c len))))))

/-- Rows of a strided copy as (source, destination), in ascending plane, then row, order. -/
def stridedRows (c : Cmd) : List (Nat × Nat) :=
  if c.field 32 8 = 0 then []
  else (List.range (c.field 44 4)).flatMap (fun p => (List.range (c.field 40 4)).map (fun r =>
    ((c.field 16 8 + r * c.field 48 8 + p * c.field 64 8) % 2 ^ 64, (c.field 24 8 + r * c.field 56 8 + p * c.field 72 8) % 2 ^ 64)))

/-- DMA_COPY_STRIDED. -/
def execDmaCopyStrided (cid : Nat) (s : State) : Host.Outcome State Fault Refusal :=
  .next (s.dmaRow cid 0x1A (fun c x =>
    let rows := stridedRows c
    let n := c.field 32 8
    s.checked c [(16, c.pointer 16), (24, c.pointer 24), (80, c.zero 80 128)]
      (s.withRanges c x.inst (rows.map (fun r => (Want.read, r.1, n)) ++ rows.map (fun r => (Want.write, r.2, n)))
        (s.startPieces cid (rows.flatMap (fun r => copyPieces r.1 r.2 n ++ [(0, 0, 0)])) []))))

/-! ## PREFETCH and DISCARD -/

/-- A leaf that names a host frame, whether or not the host lets the function reach it. -/
def Xlat.isHost : Xlat → Bool
  | .host _ => true
  | .needAts _ => true
  | .refused => true
  | _ => false

/-- Whether a page resolves to this module's HBM, as `HAMPER_PIN`, `HAMPER_UNPIN` and `PREFETCH` need (R225): a page of another kind is
invalid, a failed translation is its own status, and a table that is not there yet is waited for. None where it does. -/
def State.localPage (s : State) (inst since va : Nat) : Option CmdTo :=
  match s.translate inst .read va since with
  | .device pa _ => if s.isLocal pa && s.inHbm (paLocal pa) then none else some (.bad .invalidParam 16)
  | .uncorrectable pa => some (.bad .memUncorrectable (s.globalPa pa))
  | .address => some (.bad .addressFault (failAddr va))
  | .permission => some (.bad .notPermitted (failAddr va))
  | .needLine l => some (.ask (.needLine l))
  | _ => some (.bad .invalidParam 16)

/-- Check a range of local HBM, then run. -/
def State.withLocal (s : State) (c : Cmd) (inst va len : Nat) (go : State) : State :=
  match (pagesOf va len).findSome? (fun p => s.localPage inst c.since p.1) with
  | some (.bad st d) => s.doneCmd c.cid st d
  | some (.ask q) => (s.newChoice.askXlat inst q).markHeld c.cid (s.xlatHeld q)
  | some _ => s
  | none => go

/-- The local lines that a range touches, in order. -/
def State.linesOf (s : State) (inst since va len : Nat) : List Nat :=
  if len = 0 then []
  else (List.range ((va + len - 1) / 256 - va / 256 + 1)).filterMap (fun i =>
    match s.translate inst .read (max va ((va / 256 + i) * 256)) since with
    | .device pa _ => some (paLocal pa / 256)
    | _ => none)

/-- A sector of a line is still to be read from HBM. -/
def State.lineMissing (s : State) (line : Nat) : Bool := (List.range 8).any (fun i => s.secMissing (line * 8 + i))

/-- The first poisoned sector of a line, as it would be read. -/
def State.linePoison (s : State) (line : Nat) : Option Nat :=
  ((List.range 8).map (fun i => line * 8 + i)).find? (fun sec => s.secPoisoned sec)

/-- Ask for a line that a command fills, with the lines of its 2 KiB granule that it wants too (06 R146), in class 2. -/
def State.fetchRun (s : State) (inst : Nat) (stream : Bool) (lines : List Nat) (line : Nat) : State :=
  (lines.filter (fun l => l / 8 = line / 8 && s.lineMissing l)).foldl (fun s l => s.fetchLine l 2 (some inst) stream) s

/-- Lines that a command has still to fill or pin, kept as pieces. -/
def linePieces (lines : List Nat) : List (Nat × Nat × Nat) := lines.map (fun l => (l, 0, 256))

/-- Fill lines in order: one that is there is done, a missing one is asked for; a poisoned sector ends the command (11 R265, 16 R371). -/
def State.prefetchLines (s : State) (c : Cmd) (x : CtxRef) (stream : Bool) : List Nat → State
  | [] => s.updCmd c.cid (fun d => { d with phase := .active, todo := [] })
  | line :: rest =>
    let t := s.useRegion c.cid (line * 256)
    if s.lineMissing line then
      ((t.updCmd c.cid (fun d => { d with phase := .active, todo := linePieces (line :: rest) })).fetchRun x.inst stream (line :: rest) line).noteHeld c.cid
    else match s.linePoison line with
      | some sec => t.stopCmd c.cid .memUncorrectable (s.globalPa (sec * 32))
      | none => t.prefetchLines c x stream rest

/-- PREFETCH: every line that the range touches, in the ways of 06 R136; with `NEXT_VICTIM` as stream lines. -/
def execPrefetch (cid : Nat) (s : State) : Host.Outcome State Fault Refusal :=
  .next (match s.cmd? cid with
  | none => s
  | some c =>
    match s.cmdCtx c with
    | none => s
    | some x =>
      let stream := bit (c.byte 32) 0
      if c.opcode != 0x2A || !s.engineRuns c.q then s
      else if let some t := s.engineGone c then t
      else if c.phase = .active then s.prefetchLines c x stream (c.todo.map (fun p => p.1))
      else if c.phase != .begun || !s.dmaTurn c then s
      else s.checked c [(16, c.pointer 16), (32, c.byte 32 ≤ 1), (33, c.zero 33 64)]
        (s.withLocal c x.inst (c.field 16 8) (c.field 24 8)
          (s.newChoice.prefetchLines c x stream (s.linesOf x.inst c.since (c.field 16 8) (c.field 24 8)))))

/-- Whole sectors of a range, as (first sector address, sectors), one entry per 2 KiB granule. -/
def discardRuns (va len : Nat) : List (Nat × Nat) :=
  let lo := (va + 31) / 32
  let hi := (va + len) / 32
  if hi ≤ lo then []
  else (List.range ((hi - 1) / 64 - lo / 64 + 1)).map (fun i =>
    let a := max lo ((lo / 64 + i) * 64)
    (a * 32, min hi ((lo / 64 + i + 1) * 64) - a))

/-- Declare the sectors of a run at their home, or by a message to another module's home; none where it must wait. -/
def State.discardRun (s : State) (c : Cmd) (x : CtxRef) (va n : Nat) : Option State :=
  let chk := s.deadchk x
  match s.cmdTo x.inst c.since .write va with
  | .ok (.home a) =>
    if (List.range n).any (fun i => s.cmdBehind c.cid (a + 32 * i) || s.declareHeld ((a + 32 * i) / 256) chk) then none
    else some ((List.range n).foldl (fun s i => s.declareDead (a / 32 + i) chk) (s.newChoice.useRegion c.cid a))
  | .ok (.remote pa) =>
    match s.request x.inst (.cmd c.cid) pa
      { Msg.to 5 0 with nsect := BitVec.ofNat 7 n, cmd := true, op := if chk then 1 else 0 } [] with
    | .ok t => some t
    | _ => none
  | .ok (.host _) => some s
  | .bad st d => some (s.stopCmd c.cid st d)
  | _ => none

/-- Declare runs in order, as far as they go. -/
def State.discardRuns (s : State) (c : Cmd) (x : CtxRef) : List (Nat × Nat × Nat) → State
  | [] => s.updCmd c.cid (fun d => { d with phase := .active, todo := [] })
  | (va, _, n) :: rest =>
    match s.discardRun c x va n with
    | some t => t.discardRuns c x rest
    | none => s.updCmd c.cid (fun d => { d with phase := .active, todo := (va, 0, n) :: rest })

/-- A host page in a range. -/
def State.hostPage (s : State) (inst since va : Nat) : Bool := (s.translate inst .read va since).isHost

/-- DISCARD: needs `W` = 1 in every leaf; a host frame is invalid. -/
def execDiscard (cid : Nat) (s : State) : Host.Outcome State Fault Refusal :=
  .next (match s.cmd? cid with
  | none => s
  | some c =>
    match s.cmdCtx c with
    | none => s
    | some x =>
      let va := c.field 16 8
      let len := c.field 24 8
      if c.opcode != 0x2B || !s.engineRuns c.q then s
      else if let some t := s.engineGone c then t
      else if c.phase = .active then s.discardRuns c x c.todo
      else if c.phase != .begun || !s.dmaTurn c then s
      else s.checked c [(16, c.pointer 16), (32, c.zero 32 64)]
        (if (pagesOf va len).any (fun p => s.hostPage x.inst c.since p.1) then s.badParam cid 16
         else s.withRanges c x.inst [(.write, va, len)] (s.discardRuns c x ((discardRuns va len).map (fun r => (r.1, 0, r.2))))))

/-! ## HAMPER_PIN and HAMPER_UNPIN (06 R139, R140) -/

/-- Hamper ways that an instance holds in half r, highest first. -/
def Inst.hamperWays (i : Inst) (r : Nat) : List Nat := (maskBits 20 (i.hamper.getD r 0).toNat).reverse

/-- Pinned lines in a set of a half, by way. -/
def State.pinnedIn (s : State) (r st : Nat) : List Line :=
  s.llc.filter (fun l => l.pinned && s.homeRegion (l.line * 256) = r && s.setOf (l.line * 256) = st)

/-- A line is pinned. -/
def State.isPinned (s : State) (line : Nat) : Bool := (s.tag? line).elim false (fun l => l.pinned)

/-- Pin one line in the instance's highest free Hamper way of its set; none where the set is full. Its bytes move to the way: dirty sectors
stay dirty, a marked sector becomes zero and dirty, any other dead sector its backing contents. -/
def State.pinLine (s : State) (i : Inst) (line : Nat) : Option State :=
  if s.isPinned line then some s
  else
    let a := line * 256
    let r := s.homeRegion a
    let st := s.setOf a
    let used := (s.pinnedIn r st).map (fun l => l.way)
    match (i.hamperWays r).find? (fun w => !used.contains w) with
    | none => none
    | some w =>
      let old := s.tag? line
      let bytes := (List.range 8).flatMap (fun k => s.secBytes (line * 8 + k))
      let flag := fun (f : Nat → Bool) => (List.range 8).foldl (fun (m : BitVec 8) k => if f k then m ||| (1 <<< k) else m) 0
      let dirty := flag (fun k => s.secMarked (line * 8 + k)
        || old.elim false (fun l => l.dirty.getLsbD k && !l.dead.getLsbD k))
      let tag : Line := { line := line, mru := false, way := w, valid := BitVec.allOnes 8, dirty := dirty, dead := 0, deadChk := 0, under := 0,
                          poison := flag (fun k => s.secPoisoned (line * 8 + k)), streamIn := false, pinned := true }
      some { s with llc := s.llc.filter (fun l => l.line != line) ++ [tag], mem := writeBytes s.mem (windowAddr r w st) bytes }

/-- Lines that other `HAMPER_PIN` commands of an instance have still to pin: their ways are taken. -/
def State.pinsToCome (s : State) (i : Inst) (cid : Nat) : List Nat :=
  (s.cmds.filter (fun d => d.opcode = 0x28 && d.phase = .active && d.cid != cid && (s.cmdCtx d).elim false (fun x => x.inst = i.id))).flatMap
    (fun d => d.todo.map (fun p => p.1))

/-- Lines of a range that a pin would add, per set, fit in the instance's ways beside those that its other commands pin: a pin that begins ends
without lacking a way (06 R139). -/
def State.pinFits (s : State) (i : Inst) (cid : Nat) (lines : List Nat) : Option Nat :=
  let new := (distinct (lines ++ s.pinsToCome i cid)).filter (fun l => !s.isPinned l)
  let key := fun l => (s.homeRegion (l * 256), s.setOf (l * 256))
  ((new.filter (fun l => lines.contains l)).find? (fun l =>
    let k := key l
    let mine := (s.pinnedIn k.1 k.2).filter (fun p => (i.hamper.getD k.1 0).getLsbD p.way)
    decide ((i.hamperWays k.1).length < mine.length + (new.filter (fun m => key m = k)).length))).map (fun l => s.homeRegion (l * 256))

/-- Pin lines in order: one that is there moves to its way, a missing one is asked for. -/
def State.pinLines (s : State) (c : Cmd) (i : Inst) : List Nat → State
  | [] => s.updCmd c.cid (fun d => { d with phase := .active, todo := [] })
  | line :: rest =>
    let t := s.useRegion c.cid (line * 256)
    if s.lineMissing line then
      ((t.updCmd c.cid (fun d => { d with phase := .active, todo := linePieces (line :: rest) })).fetchRun i.id false (line :: rest) line).noteHeld c.cid
    else match s.linePoison line with
    | some sec => t.stopCmd c.cid .memUncorrectable (s.globalPa (sec * 32))
    | none => match t.pinLine i line with
      | some t => t.pinLines c i rest
      | none => s.stopCmd c.cid .noSpace (s.homeRegion (line * 256) + 3 * 2 ^ 8)

/-- HAMPER_PIN. -/
def execHamperPin (cid : Nat) (s : State) : Host.Outcome State Fault Refusal :=
  .next (match s.cmd? cid with
  | none => s
  | some c =>
    match s.cmdCtx c with
    | none => s
    | some x =>
      match s.inst? x.inst with
      | none => s
      | some i =>
        let va := c.field 16 8
        let len := c.field 24 8
        let lines := s.linesOf x.inst c.since va len
        if c.opcode != 0x28 || !s.engineRuns c.q then s
        else if c.phase = .active then s.pinLines c i (c.todo.map (fun p => p.1))
        else if c.phase != .begun then s
        else s.checked c [(16, c.pointer 16), (16, va % 256 = 0), (24, len % 256 = 0), (32, c.zero 32 64)]
          (s.withLocal c x.inst va len
            (match s.pinFits i cid lines with
            | some r => s.doneCmd cid .noSpace (r + 3 * 2 ^ 8)
            | none => s.newChoice.pinLines c i lines)))

/-- Unpin one line: dirty sectors are written back, the way keeps the data as window contents. -/
def State.unpinLine (s : State) (line : Nat) : State := if s.isPinned line then s.evict line else s

/-- Unpin lines in order. A line whose write-back a held stack cannot take waits for it (11 R270). -/
def State.unpinLines (s : State) (cid : Nat) : List Nat → State
  | [] => s.activate cid
  | line :: rest =>
    let t := s.useRegion cid (line * 256)
    if (s.tag? line).elim false (fun l => l.pinned && l.owes) && s.wqFull (line * 256) then t
    else (t.unpinLine line).unpinLines cid rest

/-- HAMPER_UNPIN. -/
def execHamperUnpin (cid : Nat) (s : State) : Host.Outcome State Fault Refusal :=
  .next (match s.begun? cid 0x29 with
  | none => s
  | some c =>
    match s.cmdCtx c with
    | none => s
    | some x =>
      let va := c.field 16 8
      let len := c.field 24 8
      s.checked c [(16, c.pointer 16), (16, va % 256 = 0), (24, len % 256 = 0), (32, c.zero 32 64)]
        (s.withLocal c x.inst va len (s.newChoice.unpinLines cid (s.linesOf x.inst c.since va len))))

end Sys2Proof.Machine
end

