-- ==== Sys2Proof/Machine/Launch.lean ====
section
/-! DEFINITION. Kernel launch and life cycle (02 R41 to R52, 03 R67, 09 R221 to R223, 10 R242). -/
namespace Sys2Proof.Machine

/-! ## Which slots can take a launch (02 R41, R43, 09 R222) -/

/-- Herds of a kernel that one scheduler can hold on a slot. -/
def perSched (x : Slot) (nreg : Nat) : Nat := min (x.h / 4) (x.q / 4 / cdiv nreg 8)

/-- Cores that a launch names. -/
def launchCores (c : Cmd) : List Nat := maskBits 64 (c.field 40 8)

/-- Slots of an instance on a core, ascending. -/
def State.slotsOf (s : State) (inst core : Nat) : List Slot :=
  (List.range 64).filterMap (fun n => (s.slot? { core := core, slot := n }).bind (fun x => if x.inst = inst then some x else none))

/-- A slot can take a launch. -/
def canTake (c : Cmd) (x : Slot) : Bool := 1 ≤ perSched x (c.byte 36) && c.byte 37 ≤ x.w

/-- The slot that the firmware picks on a core, by the preference order of R222, where one is available. Whether another context's slot holds
live thread state is judged of that slot alone (DESIGN CHOICE, log 64). -/
def State.pickSlot (s : State) (c : Cmd) (x : CtxRef) (core : Nat) : Option Slot :=
  let xs := (s.slotsOf x.inst core).filter (canTake c)
  match xs.find? (fun y => y.st = .bound && y.ctx = some x.ctx && y.kernel.isNone) with
  | some y => some y
  | none => match xs.find? (fun y => y.st = .idle) with
    | some y => some y
    | none => xs.find? (fun y => y.st = .bound && y.ctx != some x.ctx && y.kernel.isNone)

/-! ## LAUNCH -/

/-- Checks 2 to 4 of R223. -/
def State.launchBad (s : State) (c : Cmd) (inst : Nat) : Option (Status × Nat) :=
  let cores := launchCores c
  if cores.any (fun n => !s.coreEnabled n || (s.slotsOf inst n).isEmpty) then some (.notPermitted, 0)
  else match cores.find? (fun n => s.coreFenced n) with
    | some n => some (.coreFenced, n)
    | none => match cores.find? (fun n => !(s.slotsOf inst n).any (canTake c)) with
      | some n => some (.invalidParam, if (s.slotsOf inst n).all (fun x => perSched x (c.byte 36) = 0) then 36 else 37)
      | none => none

/-- LAUNCH: checked, then under way with every named core still to take a slot on; with no core named it has nothing to do. -/
def execLaunch (cid : Nat) (s : State) : Host.Outcome State Fault Refusal :=
  .next (match s.begun? cid 0x10 with
  | none => s
  | some c =>
    match s.cmdCtx c with
    | none => s
    | some x =>
      s.checked c
        [(16, c.pointer 16), (16, c.field 16 8 % 8 = 0), (24, c.pointer 24), (36, c.byte 36 != 0), (37, c.byte 37 ≤ 14), (38, c.zero 38 40),
         (40, c.field 32 4 = 0 || c.field 40 8 != 0), (48, c.zero 48 64)]
        (match s.launchBad c x.inst with
        | some (st, d) => s.doneCmd cid st d
        | none =>
          if (launchCores c).isEmpty then s.doneCmd cid .success 0
          else s.updCmd cid (fun c => { c with phase := .active, cores := launchCores c })))

/-- A `LAUNCH` that is under way and still waits for a slot on a core. -/
def State.launchOn? (s : State) (cid core : Nat) : Option Cmd :=
  match s.cmd? cid with
  | some c => if c.opcode = 0x10 && c.phase = .active && c.cores.contains core && s.clocked then some c else none
  | none => none

/-- The kernel of a launch as its slot on a core holds it; `next` is the index of its next herd there. -/
def State.launchKernel (s : State) (c : Cmd) (core : Nat) : Kernel :=
  let cores := launchCores c
  let ord := (cores.filter (fun n => n < core)).length
  { cid := c.cid, code := BitVec.ofNat 64 (c.field 16 8), args := BitVec.ofNat 64 (c.field 24 8), nreg := c.byte 36,
    scratchBytes := c.byte 37 * 524288, herds := c.field 32 4, ordinal := ord, ncores := cores.length, next := ord,
    startTime := s.time, startCycles := (s.dieClk (dieOfCore core)).cycles, since := s.histSeq, started := false }

/-- Kernel start on a slot: the context is bound, private ways that another context held last are zeroed, and the slot's L1 is
invalidated. A kernel without a herd on this core drains at once. Scratchpad bytes of a way that served as L1 for a kernel with a smaller
scratchpad are kept (DESIGN CHOICE, log 65). -/
def Slot.take (y : Slot) (k : Kernel) (ctx : Nat) : Slot :=
  { y with
    st := if k.herds ≤ k.next then .draining else .running, ctx := some ctx, lastCtx := some ctx
    scratch := if y.lastCtx = some ctx then y.scratch else []
    l1 := [], kernel := some k, mxq := [], barriers := List.replicate 16 0 }

/-- LAUNCH_SLOT_TAKE. While the core's region is in reset the command waits, as for residency (14 R325). -/
def execLaunchSlotTake (cid core : Nat) (s : State) : Host.Outcome State Fault Refusal :=
  .next (match s.launchOn? cid core with
  | none => s
  | some c =>
    match s.cmdCtx c with
    | none => s
    | some x =>
      if s.regionDown (regionOfCore core) || (s.ctx? x).elim true (fun y => y.st = 3 || y.st = 4) then s
      else match s.pickSlot c x core with
        | none => s
        | some y =>
          let r : SlotRef := { core := core, slot := y.num }
          let k := s.launchKernel c core
          let s := (s.invalidateL1 r).updSlot r (fun y => y.take k x.ctx)
          s.updCmd cid (fun c =>
            { c with cores := c.cores.erase core, took := c.took ++ [r], left := c.left ++ [r],
                     unmeasured := if c.herdRan then s.time - c.mark else 0 }))

/-! ## RESIDENCY_STALL (10 R242) -/

/-- `DETAIL` values of the events: one per range of slots that holds a named slot, or one with an empty mask. -/
def stallDetails (core : Nat) (slots : List Nat) : List Nat :=
  let mask := fun (l : List Nat) => (l.map (fun n => 2 ^ n)).sum
  let low := slots.filter (fun n => n < 56)
  let high := (slots.filter (fun n => 56 ≤ n)).map (fun n => n - 56)
  (if low.isEmpty && !high.isEmpty then [] else [core + mask low * 2 ^ 8])
    ++ (if high.isEmpty then [] else [core + 2 ^ 6 + mask high * 2 ^ 8])

/-- RESIDENCY_STALL: reported once per waiting `LAUNCH` and core, once the wait has lasted longer than the period of the core's
region. `STALLS` counts it once, also where two events name its slots (DESIGN CHOICE, log 66). -/
def execResidencyStall (cid core : Nat) (s : State) : Host.Outcome State Fault Refusal :=
  .next (match s.launchOn? cid core with
  | none => s
  | some c =>
    match s.cmdCtx c with
    | none => s
    | some x =>
      if c.stalled.contains core || (s.pickSlot c x core).isSome
          || s.time ≤ c.start + (s.region (regionOfCore core)).stallMs * 1000000 then s
      else
        let live := ((s.slotsOf x.inst core).filter (fun y => y.st = .running || y.st = .draining)).map (fun y => y.num)
        let s := s.updCmd cid (fun c => { c with stalled := core :: c.stalled })
        let s := s.updInst x.inst (fun i => { i with stalls := satInc i.stalls 1 })
        (stallDetails core live).foldl (fun s d => s.event 0x02 d) s)

/-! ## HERD_START -/

/-- The lowest free herd position whose scheduler has room for one more herd of the slot's kernel (02 R41). Positions 32k to 32k + 31 are
scheduler k's (log 28). -/
def State.freePos (s : State) (core : Nat) (x : Slot) (nreg : Nat) : Option Nat :=
  let hs := (s.core core).herds
  (List.range 128).find? (fun p => !hs.any (fun h => h.pos = p)
    && (hs.filter (fun h => h.slot = x.num && h.pos / 32 = p / 32)).length < perSched x nreg)

/-- Uniform registers of a new herd (03 R67). -/
def launchRegs (k : Kernel) : RegFile :=
  [(0, BitVec.ofNat 32 k.args.toNat), (1, BitVec.ofNat 32 (k.args.toNat / 2 ^ 32)), (2, BitVec.ofNat 32 k.next),
   (3, BitVec.ofNat 32 k.herds), (4, BitVec.ofNat 32 k.scratchBytes), (5, BitVec.ofNat 32 k.ordinal),
   (6, BitVec.ofNat 32 k.ncores)].filter (fun (c : Nat × Word) => c.2 != 0)

/-- A herd at its start (02 R42). -/
def newHerd (pos : Nat) (x : Slot) (ctx : Nat) (k : Kernel) : Herd :=
  { pos := pos, slot := x.num, inst := x.inst, ctx := ctx, cid := k.cid, index := k.next, nreg := k.nreg, pc := k.code,
    fetched := none, regs := [], uregs := launchRegs k, preds := List.replicate 7 0, active := BitVec.allOnes 32, exited := 0,
    stack := [], atBarrier := none, acquire := none, releases := [] }

/-- HERD_START: the kernel's next herd of this core, in ascending index, on a free position. -/
def execHerdStart (sl : SlotRef) (s : State) : Host.Outcome State Fault Refusal :=
  .next (match s.slot? sl with
  | none => s
  | some x =>
    match x.kernel, x.ctx with
    | some k, some ctx =>
      if x.st != .running || k.herds ≤ k.next || !s.clocked || (s.ctx? { inst := x.inst, ctx := ctx }).elim true (fun y => y.st = 3 || y.st = 4) then s
      else match s.freePos sl.core x k.nreg with
        | none => s
        | some p =>
          let s := s.updCore sl.core (fun (c : Core) => { c with herds := c.herds ++ [newHerd p x ctx k] })
          let s := s.updSlot sl (fun (x : Slot) => { x with kernel := some { k with next := k.next + k.ncores, started := true } })
          s.updCmd k.cid (fun c => if c.herdRan then c else { c with herdRan := true, mark := s.time })
    | _, _ => s)

/-! ## KERNEL_COMPLETE (02 R52) -/

/-- A store, atomic or add of a slot that its home has not accepted yet. -/
def State.storesOut (s : State) (sl : SlotRef) : Bool :=
  s.reqs.any (fun x => x.core = sl.core && x.slot = sl.slot && (match x.kind with
    | .write => true
    | .atomic _ _ => true
    | .add _ _ => true
    | _ => false))

/-- The context of a slot has faulted: its kernel does not complete, and the kill ends it (02 R49, R52, R55). -/
def State.slotFaulted (s : State) (x : Slot) : Bool :=
  x.ctx.elim false (fun n => (s.ctx? { inst := x.inst, ctx := n }).elim true (fun y => y.st = 3 || y.st = 4))

/-- KERNEL_COMPLETE: the slot returns to `BOUND`; the `LAUNCH` completes once it is complete on every slot. -/
def execKernelComplete (sl : SlotRef) (s : State) : Host.Outcome State Fault Refusal :=
  .next (s.clockRow (match s.slot? sl with
  | none => s
  | some x =>
    match x.kernel with
    | none => s
    | some k =>
      if x.st != .draining || s.storesOut sl || !x.mxq.isEmpty || s.slotFaulted x then s
      else
        let s := s.updSlot sl (fun (x : Slot) => { x with st := .bound, kernel := none })
        let s := s.updCmd k.cid (fun c => { c with left := c.left.erase sl })
        match s.cmd? k.cid with
        | some c => if c.cores.isEmpty && c.left.isEmpty && c.phase = .active then s.doneCmd k.cid .success 0 else s
        | none => s))

end Sys2Proof.Machine
end

