-- ==== Sys2Proof/Machine/Spec.lean ====
section
/-! DEFINITION. Speculative epochs: SPEC_BEGIN, SPEC_COMMIT, SPEC_ABORT (07 R176 to R181), and the lists in memory that commands name. -/
namespace Sys2Proof.Machine

/-! ## Lists that a command names -/

/-- What reading a list meets: its bytes, sectors of other modules or of the host still to ask for, a wait that asks for lines from HBM, or an
end. -/
inductive ListRead where
  | ok (bs : List Byte) (rereads : Nat)
  | ask (pas : List (LaneTo × Nat × Nat))
  | wait (lines : List Nat)
  | bad (st : Status) (detail : Nat)
  | dead
deriving DecidableEq, Repr

/-- Join what two parts of a list meet: the first end wins, then a wait, then what is to be asked for. -/
def ListRead.join : ListRead → ListRead → ListRead
  | .ok a n, .ok b m => .ok (a ++ b) (n + m)
  | .ok _ _, r => r
  | .ask a, .ask b => .ask (a ++ b)
  | .ask _, .bad st d => .bad st d
  | .ask _, .dead => .dead
  | .ask _, .wait l => .wait l
  | .ask a, .ok _ _ => .ask a
  | .wait _, .bad st d => .bad st d
  | .wait _, .dead => .dead
  | .wait l, .wait m => .wait (l ++ m)
  | .wait l, _ => .wait l
  | r, _ => r

/-- Read `n` bytes of one sector of a list on a command's behalf. -/
def State.listPiece (s : State) (c : Cmd) (x : CtxRef) (va n : Nat) : ListRead :=
  match s.cmdTo x.inst c.since .read va with
  | .bad st d => .bad st d
  | .ask _ => .wait []
  | .held => .wait []
  | .ok (.home a) =>
    if s.cmdBehind c.cid a then .wait []
    else if s.ctxMissing x (a / 32) then .wait [a / 256]
    else match s.ctxReadSector x (a / 32) with
      | .ok bs => .ok ((bs.drop (a % 32)).take n) 0
      | .reread bs => .ok ((bs.drop (a % 32)).take n) 1
      | .deadFatal => .dead
      | .poison => .bad .memUncorrectable (s.globalPa (a / 32 * 32))
  | .ok t => match c.parts.find? (fun p => p.1 = va) with
    | some p => .ok p.2 0
    | none => .ask [(t, va, n)]

/-- Ask another module or the host for sectors of a list; the data is kept with the command. -/
def State.askList (s : State) (c : Cmd) (x : CtxRef) : List (LaneTo × Nat × Nat) → State
  | [] => s
  | (.home _, _, _) :: rest => s.askList c x rest
  | (.host a, va, n) :: rest =>
    if s.hostFits 1 then (s.hostTxn (.dma c.cid [(0, va, n)]) va a (fun s rid => s.sendRead (x.inst + 1) rid a n)).askList c x rest else s
  | (.remote pa, va, n) :: rest =>
    match s.request x.inst (.dma c.cid [(pa % 32, va, n)]) pa { Msg.to 1 0 with nsect := 1, cmd := true } [] with
    | .ok t => t.askList c x rest
    | _ => s

/-- Translate and read a list, then go on with its bytes. -/
def State.withList (s : State) (c : Cmd) (x : CtxRef) (va len : Nat) (go : State → List Byte → State) : State :=
  s.withRanges c x.inst [(.read, va, len)]
    (match ((splitRange va len).map (fun p => s.listPiece c x p.1 p.2)).foldl ListRead.join (.ok [] 0) with
    | .ok bs n => go (s.newChoice.countReread x n) bs
    | .ask pas => if (s.cmdTxns c.cid).isEmpty then s.newChoice.askList c x pas else s
    | .wait lines => lines.foldl (fun s l => s.fetchLine l 0 (some x.inst) false) s.newChoice
    | .bad st d => s.doneCmd c.cid st d
    | .dead => s.cmdDead x)

/-! ## SPEC_BEGIN -/

/-- Entries of a range list: address and length. -/
def rangeList (bs : List Byte) (n : Nat) : List (Nat × Nat) :=
  (List.range n).map (fun i => (leNat ((bs.drop (16 * i)).take 8), leNat ((bs.drop (16 * i + 8)).take 8)))

/-- The first entry that is not legal or does not lie in local HBM (R176). -/
def State.rangeListBad (s : State) (inst since : Nat) (rs : List (Nat × Nat)) : Option CmdTo :=
  rs.findSome? (fun r =>
    if r.2 = 0 || 2 ^ 57 ≤ r.1 || r.1 % 256 != 0 || r.2 % 256 != 0 then some (.bad .invalidParam 0xFF)
    else ((pagesOf r.1 r.2).findSome? (fun p => s.localPage inst since p.1)).map (fun e => match e with
      | .bad .invalidParam _ => .bad .invalidParam 0xFF
      | e => e))

/-- Lines of an epoch's ranges as (range index, byte offset, line). -/
def State.epochLines (s : State) (inst since : Nat) (rs : List (Nat × Nat)) : List (Nat × Nat × Nat) :=
  (rs.zipIdx).flatMap (fun r => ((s.linesOf inst since r.1.1 r.1.2).zipIdx).map (fun l => (r.2, 256 * l.2, l.1)))

/-- Two ranges of a list reach a common line. -/
def sharedLine (ls : List (Nat × Nat × Nat)) : Bool := ls.any (fun a => ls.any (fun b => a.1 < b.1 && a.2.2 = b.2.2))

/-- Bytes of the ranges of a context's epochs that are not yet `CLOSED`. -/
def openBytes (es : List Epoch) : Nat := ((es.filter (fun e => e.st != .closed)).map (fun e => (e.ranges.map Prod.snd).sum)).sum

/-- The lowest half in which a set cannot reserve the shadow lines of new lines: every set keeps one way of the class for ordinary
lines (R177). -/
def State.noShadow (s : State) (inst : Nat) (ls : List Nat) : Option Nat :=
  (List.range 16).find? (fun r =>
    let mine := ls.filter (fun l => s.homeRegion (l * 256) = r)
    let cls := s.allocClass (some inst) r
    mine.any (fun l =>
      let st := s.setOf (l * 256)
      decide (s.classWays cls r - 1 < s.shadowIn cls r st + (mine.filter (fun m => s.setOf (m * 256) = st)).length)))

/-- Evict ordinary lines of a set until those left fit beside its shadow lines. -/
def State.makeRoom (s : State) (inst line : Nat) : State :=
  let a := line * 256
  let r := s.homeRegion a
  let cls := s.allocClass (some inst) r
  let peers := s.llc.filter (fun l => !l.pinned && l.way = cls && s.homeRegion (l.line * 256) = r && s.setOf (l.line * 256) = s.setOf a)
  let room := s.classWays cls r - s.shadowIn cls r (s.setOf a)
  if peers.length ≤ room then s
  else match victimIn peers room 0 with
    | some v => s.evict v.line
    | none => s

/-- Number of the next epoch of a context (R176). -/
def Ctx.epochNumber (x : Ctx) : Nat :=
  let used := (x.epochs.filter (fun e => e.st != .closed)).map (fun e => e.num)
  (((List.range 6).map (fun k => (x.nextEpoch + k) % 2 ^ 32)).find? (fun n => n != 0 && !used.contains n)).getD 0

/-- Open an epoch over ranges whose lines can be reserved. -/
def State.openEpoch (s : State) (x : CtxRef) (y : Ctx) (rs : List (Nat × Nat)) (ls : List (Nat × Nat × Nat)) : State :=
  let n := y.epochNumber
  let e : Epoch := { num := n, st := .opened, ranges := rs, lines := ls, shadow := [], touched := [], poison := [], keep := [] }
  let s := s.updCtx x (fun c => { c with epochs := c.epochs.filter (fun e => e.st != .closed) ++ [e], nextEpoch := (n + 1) % 2 ^ 32 })
  ls.foldl (fun s l => s.makeRoom x.inst l.2.2) s

/-- SPEC_BEGIN: `DETAIL` of a success is the epoch number. Where both `BUSY` and `NO_SPACE` hold, `BUSY` is reported (DESIGN CHOICE, log 88: the
spec gives them no order). -/
def execSpecBegin (cid : Nat) (s : State) : Host.Outcome State Fault Refusal :=
  .next (match s.begun? cid 0x30 with
  | none => s
  | some c =>
    match s.cmdCtx c with
    | none => s
    | some x =>
      let n := c.field 24 4
      s.checked c [(16, c.pointer 16), (24, 1 ≤ n && n ≤ 4096), (28, c.zero 28 64)]
        (s.withList c x (c.field 16 8) (16 * n) (fun s bs =>
          match s.ctx? x with
          | none => s
          | some y =>
            let rs := rangeList bs n
            match s.rangeListBad x.inst c.since rs with
            | some (.bad st d) => s.doneCmd cid st d
            | some (.ask q) => s.newChoice.askXlat x.inst q
            | some _ => s
            | none =>
              let ls := s.epochLines x.inst c.since rs
              let lines := distinct (ls.map (fun l => l.2.2))
              if sharedLine ls then s.doneCmd cid .invalidParam 0xFF
              else if lines.any (fun l => s.inOpenEpoch l) then s.doneCmd cid .busy 0
              else if 4 ≤ (y.epochs.filter (fun e => e.st != .closed)).length || 2 ^ 26 < openBytes y.epochs + (rs.map Prod.snd).sum then
                s.doneCmd cid .noSpace (7 * 2 ^ 8)
              else match s.noShadow x.inst lines with
                | some r => s.doneCmd cid .noSpace (r + 8 * 2 ^ 8)
                | none => (s.openEpoch x y rs ls).doneCmd cid .success y.epochNumber)))

/-! ## SPEC_COMMIT and SPEC_ABORT -/

/-- The `OPEN` epoch that a command names. -/
def State.openNamed (s : State) (x : CtxRef) (c : Cmd) : Option Epoch :=
  (s.epochsOf x).find? (fun e => e.num = c.field 16 4 && e.st = .opened)

/-- The values of a keep list. -/
def keepList (bs : List Byte) (n : Nat) : List Nat := (List.range n).map (fun i => leNat ((bs.drop (8 * i)).take 8))

/-- SPEC_COMMIT: the epoch enters `COMMITTING`; COMMAND_COMPLETION publishes and closes it. -/
def execSpecCommit (cid : Nat) (s : State) : Host.Outcome State Fault Refusal :=
  .next (match s.begun? cid 0x31 with
  | none => s
  | some c =>
    match s.cmdCtx c with
    | none => s
    | some x =>
      let e? := s.openNamed x c
      s.checked c [(16, e?.isSome), (20, c.zero 20 24), (24, c.pointer 24), (32, c.zero 32 64)]
        (match e? with
        | none => s
        | some e =>
          s.withList c x (c.field 24 8) (8 * e.ranges.length) (fun s bs =>
            let ks := keepList bs e.ranges.length
            if (ks.zip e.ranges).any (fun p => p.1 % 32 != 0 || p.2.2 < p.1) then s.doneCmd cid .invalidParam 0xFF
            else (s.updEpoch x e.num (fun e => { e with st := .committing, keep := ks })).activate cid)))

/-- SPEC_ABORT: the epoch enters `ABORTING`; COMMAND_COMPLETION discards it. -/
def execSpecAbort (cid : Nat) (s : State) : Host.Outcome State Fault Refusal :=
  .next (match s.begun? cid 0x32 with
  | none => s
  | some c =>
    match s.cmdCtx c with
    | none => s
    | some x =>
      let e? := s.openNamed x c
      s.checked c [(16, e?.isSome), (20, c.zero 20 64)]
        (match e? with
        | none => s
        | some e => (s.updEpoch x e.num (fun e => { e with st := .aborting })).activate cid))

end Sys2Proof.Machine
end

