-- ==== Sys2Proof/Machine/Collective.lean ====
section
/-! DEFINITION. Collectives: their commands, the messages between members, reduction in default and deterministic mode, and the end of
those that cannot finish (07 R160 to R175, 12 R292, R297, R298). -/
namespace Sys2Proof.Machine

/-! ## Shapes (R165) -/

/-- Cut bytes into pieces of `k`, with offsets from `off`. -/
def chunks (k off : Nat) (bs : List Byte) : List (Nat × List Byte) :=
  (List.range (cdiv bs.length k)).map (fun i => (off + k * i, (bs.drop (k * i)).take k))

/-- `SRC` is `DST`, and a rank's own contribution to its shard lies in that shard of `DST` (R166): so in an all-reduce, and on rank 0. -/
def Cmd.inPlace (c : Cmd) (rank : Nat) : Bool := c.field 32 8 = c.field 40 8 && (c.opcode = 0x20 || rank = 0)

/-- What a rank reads of its `SRC`, as (offset in `SRC`, bytes), in lines of 256 bytes (log 29): every rank's shard, but its own where that lies
in `DST` already; or all of it. -/
def Cmd.srcPieces (c : Cmd) (g rank : Nat) : List (Nat × Nat) :=
  let n := c.collBytes
  let lines := fun (off len : Nat) => (List.range (cdiv len 256)).map (fun i => (off + 256 * i, min 256 (len - 256 * i)))
  if c.reduces then
    (List.range g).flatMap (fun r =>
      if r = rank && c.inPlace rank && !c.stages g then [] else lines (r * shardSize n g) (shardLen n g r))
  else lines 0 (c.srcLen rank)

/-- Where a piece of `SRC` goes, as (rank, offset in its result): the owner of its shard, or every rank. -/
def Cmd.targets (c : Cmd) (g rank off : Nat) : List (Nat × Nat) :=
  if c.reduces then
    let r := off / shardSize c.collBytes g
    [(r, c.shardBase g r + off % shardSize c.collBytes g)]
  else (List.range g).map (fun r => (r, if c.opcode = 0x22 then rank * c.collBytes + off else off))

/-- The second header slot of a collective's messages (12 R292). -/
def collHdr (c : Cmd) (seq rank off : Nat) : CollHdr :=
  { seq := BitVec.ofNat 32 seq, opcode := BitVec.ofNat 8 c.opcode, dfmt := BitVec.ofNat 8 c.dfmt, cfl := BitVec.ofNat 8 (c.byte 19),
    root := BitVec.ofNat 16 (c.field 20 2), rank := BitVec.ofNat 16 rank, count := BitVec.ofNat 64 c.count,
    offset := BitVec.ofNat 64 off }

/-- The fields that members must issue alike (R168). -/
def hdrMatches (a b : CollHdr) : Bool :=
  a.opcode = b.opcode && a.dfmt = b.dfmt && a.count = b.count && a.root = b.root && a.cfl.getLsbD 0 = b.cfl.getLsbD 0

/-- The group whose collective a command runs. -/
def State.collOf (s : State) (cid : Nat) : Option (Group × Coll) :=
  s.fx.groups.findSome? (fun g => match g.coll with
    | some k => if k.cid = cid then some (g, k) else none
    | none => none)

/-- Change the collective in progress of a group. -/
def State.updColl (s : State) (gid : Nat) (f : Coll → Coll) : State := s.updGroup gid (fun g => { g with coll := g.coll.map f })

/-! ## Deterministic sum (R170) -/

/-- The sum of one element over all ranks, in rank order: in FP32, each addition rounded, and the sum rounded once to the format. -/
def rankSum (f : Nat) (vs : List Nat) : Nat :=
  let wide := fun (v : Nat) => fmtF32.encode 0 false (fmtVal f v)
  let sum := match vs with
    | [] => 0
    | v :: rest => rest.foldl (fun a b => addF32 a (wide b)) (wide v)
  if f = 1 then fmtBF16.encode 0 false (fmtF32.decode sum) else if f = 2 then fmtF16.encode 0 false (fmtF32.decode sum) else sum

/-- The sum of pieces of all ranks, in rank order. -/
def pieceSum (f : Nat) (ps : List (List Byte)) : List Byte :=
  let e := fmtBytes f
  let n := (ps.headD []).length / e
  (List.range n).flatMap (fun i => leBytes (rankSum f (ps.map (fun p => leNat ((p.drop (i * e)).take e)))) e)

/-! ## Reading on behalf of a collective -/

/-- What reading a range for a collective comes to: its bytes, or a state in which it waits or has ended. -/
inductive CollRead where
  | ok (s : State) (bs : List Byte)
  | later (s : State)

/-- Read a range for a collective that is under way, in class 1 (11 R261): what other modules hold is asked for once, and used when it has all
come. A sector that cannot be read ends the collective (log 68). -/
def State.collRead (s : State) (x : CtxRef) (c : Cmd) (gid va len : Nat) : CollRead :=
  match ((splitRange va len).map (fun p => s.listPiece c x p.1 p.2)).foldl ListRead.join (.ok [] 0) with
  | .ok bs n =>
    let used := fun (p : Nat × List Byte) => decide (va ≤ p.1) && decide (p.1 < va + len)
    let s := (splitRange va len).foldl (fun s p => match s.cmdTo x.inst c.since .read p.1 with
      | .ok (.home a) => s.useRegion c.cid a
      | _ => s) s
    .ok ((s.newChoice.countReread x n).updCmd c.cid (fun d => { d with parts := d.parts.filter (fun p => !used p) })) bs
  | .ask pas =>
    let asked := fun (a : Nat) => s.fx.txns.any (fun t => match t.owner with
      | .dma k ps => decide (k = c.cid) && ps.any (fun p => p.2.1 = a)
      | _ => false)
    .later (s.newChoice.askList c x (pas.filter (fun p => !asked p.2.1)))
  | .wait lines => .later (lines.foldl (fun s l => s.fetchLine l 1 (some x.inst) false) s.newChoice)
  | .bad st d => .later (s.failColl gid s.fx.pkgId.toNat st d)
  | .dead => .later (s.cmdDead x)

/-! ## Contributions -/

/-- Outcome of applying a piece: done, or to be tried again later. -/
inductive Applied where
  | done (s : State)
  | wait (s : State)

/-- Write a peer's piece within one sector to the owner's `DST`: on this module to the ordinary line, also in an epoch of the owner's context (07
R179, log 70). -/
def State.collStore (s : State) (x : CtxRef) (c : Cmd) (gid va : Nat) (bs : List Byte) : Applied :=
  match s.cmdTo x.inst c.since .write va with
  | .bad st d => .done (s.failColl gid s.fx.pkgId.toNat st d)
  | .ask q => .wait (s.newChoice.askXlat x.inst q)
  | .held => .wait s
  | .ok (.home a) =>
    let s := s.newChoice.useRegion c.cid a
    if s.cmdBehind c.cid a || s.allocHeld (some x.inst) (a / 256) 0 then .wait s
    else if bs.length < 32 && s.secMissing (a / 32) then .wait (s.fetchLine (a / 256) 1 (some x.inst) false)
    else .done (s.homeWrite (some x.inst) a 0 bs)
  | .ok _ => match s.cmdWrite x c.cid va bs with
    | (t, true) => .done t
    | (t, false) => .wait t

/-- Add a piece within one sector to the owner's `DST`. In an epoch of the owner's context its own rank's add goes to the shadow line, as its other
writes do, and a peer's to the ordinary line (07 R179, log 70). -/
def State.collAdd (s : State) (x : CtxRef) (c : Cmd) (gid va : Nat) (own : Bool) (bs : List Byte) : Applied :=
  let f := c.dfmt
  match s.cmdTo x.inst c.since .write va with
  | .bad st d => .done (s.failColl gid s.fx.pkgId.toNat st d)
  | .ask q => .wait (s.newChoice.askXlat x.inst q)
  | .held => .wait s
  | .ok (.host _) => .done (s.failColl gid s.fx.pkgId.toNat .addressFault (failAddr va))
  | .ok (.remote pa) =>
    let y : LaneAcc := { lane := 0, va := va, pa := pa, size := bs.length, data := leNat bs, cmp := 0 }
    let m := { Msg.to 4 0 with nsect := 1, cmd := true, op := BitVec.ofNat 8 f, firstMask := sectorMask (sectorBytes [y]) }
    match s.newChoice.request x.inst (.cmd c.cid) pa m (sectorImage (sectorBytes [y])) with
    | .ok t => .done t
    | _ => .wait s
  | .ok (.home a) =>
    let s := s.newChoice.useRegion c.cid a
    if s.cmdBehind c.cid a || s.allocHeld (some x.inst) (a / 256) 0 then .wait s
    else if (if own then s.ctxMissing x (a / 32) else s.secMissing (a / 32)) then .wait (s.fetchLine (a / 256) 0 (some x.inst) false)
    else
      let put := fun (s : State) (old : List Byte) =>
        let v := lineAdds f f (bs.length / fmtBytes f) (leNat ((old.drop (a % 32)).take bs.length)) (leNat bs)
        let new := (leBytes v bs.length).zipIdx.map (fun b => (a % 32 + b.2, b.1))
        if own then s.ctxWriteSector x (a / 32) 0 new else s.writeSector (some x.inst) (a / 32) 0 new
      match (if own then s.ctxReadSector x (a / 32) else State.ctxReadSector.ordinary s x (a / 32)) with
      | .ok old => .done (put s old)
      | .reread old => .done (put (s.countReread x 1) old)
      | .deadFatal => .done (s.cmdDead x)
      | .poison => .done (s.error 0x08 1 (0x40 + s.homeRegion a) (errAddr a))

/-- Shard lines that the staging area holds at once, a round (R171). -/
def Cmd.roundLines (c : Cmd) (g : Nat) : Nat := max 1 (c.field 56 4 / (g * 256))

/-- Index in the owner's shard of the line of an offset of its result. -/
def Cmd.lineOf (c : Cmd) (g rank off : Nat) : Nat := (off - c.shardBase g rank) / 256

/-- Where the staging area keeps a rank's contribution to an offset of the owner's result: line by line of the round, rank by rank (DESIGN CHOICE,
log 67). -/
def Cmd.stageAt (c : Cmd) (g own rank off : Nat) : Nat :=
  c.field 48 8 + (c.lineOf g own off % c.roundLines g * g + rank) * 256 + (off - c.shardBase g own) % 256

/-- Offsets of the lines of a rank's own shard. -/
def Cmd.shardLines (c : Cmd) (g rank : Nat) : List Nat :=
  (List.range (cdiv (shardLen c.collBytes g rank) 256)).map (fun i => c.shardBase g rank + 256 * i)

/-- An offset belongs to the round that is being staged: every line of an earlier round is final. -/
def Cmd.inRound (c : Cmd) (g rank off : Nat) (finals : List Nat) : Bool :=
  let round := fun (o : Nat) => c.lineOf g rank o / c.roundLines g
  (c.shardLines g rank).all (fun o => finals.contains o || round off ≤ round o)

/-- Bytes of `SRC` that are still to be read lie in a range. -/
def State.unread (s : State) (cid va len : Nat) : Bool :=
  (s.cmd? cid).elim false (fun c => c.todo.any (fun p => p.1 < va + len && va < p.1 + p.2.2))

/-- One piece of a contribution to the owner's shard: staged, written where it is the first for its bytes, or added. Where the owner's own value
lies there already every other one is added (R166). -/
def State.collPiece (s : State) (x : CtxRef) (c : Cmd) (g : Group) (k : Coll) (rank off : Nat) (bs : List Byte) : Applied :=
  let n := g.members.length
  let note := fun (s : State) => s.updColl g.id (fun k => { k with got := k.got ++ [(off, rank)] })
  let va := c.field 40 8 + off
  let own := decide (rank = g.rank)
  let put := fun (va : Nat) => if own then .done (s.cmdPut x c.cid va bs) else s.collStore x c g.id va bs
  let r : Applied :=
    if c.stages n then (if c.inRound n g.rank off k.finals then put (c.stageAt n g.rank rank off) else .wait s)
    else if !c.inPlace g.rank && !k.got.any (fun p => p.1 = off) then put va
    else s.collAdd x c g.id va own bs
  match r with
    | .done t => .done (note t)
    | .wait t => .wait t

/-- Apply data from a rank at an offset of the result. It waits while earlier data waits to be written, and does not overwrite what is still to
be read of `SRC`. -/
def State.collData (s : State) (x : CtxRef) (c : Cmd) (gid rank : Nat) : List (Nat × List Byte) → Applied
  | [] => .done s
  | (off, bs) :: rest =>
    match s.group? gid with
    | none => .done s
    | some g =>
      match g.coll with
      | none => .done s
      | some k =>
        let n := g.members.length
        let va := c.field 40 8 + off
        if k.got.contains (off, rank) then s.collData x c gid rank rest
        else if !((s.cmd? c.cid).elim true (fun d => d.out.isEmpty)) then .wait s
        else if !c.stages n && s.unread c.cid va bs.length then .wait s
        else if c.inShard n g.rank off then
          match s.collPiece x c g k rank off bs with
          | .done t => t.collData x c gid rank rest
          | .wait t => .wait t
        else if off + bs.length ≤ c.dstLen n g.rank then
          match (if rank = g.rank then Applied.done (s.cmdPut x c.cid va bs) else s.collStore x c gid va bs) with
          | .done t => (t.updColl gid (fun k => { k with got := k.got ++ [(off, rank)] })).collData x c gid rank rest
          | .wait t => .wait t
        else s.collData x c gid rank rest

/-- Answer a contribution that has been applied; the module's own has no port. -/
def State.ackContribution (s : State) (gid : Nat) (h : Contribution) : State :=
  if 16 ≤ h.port then s else s.ackMsg h.port { Msg.to 8 0 with srcPkg := h.pkg, srcPort := h.srcPort, txn := h.txn, groupId := BitVec.ofNat 12 gid }

/-- A mismatch under R168: this module's collective, if any, ends with `PEER_ABORT`, the group breaks, and every member is told. -/
def State.mismatch (s : State) (gid seq : Nat) : State :=
  let own := s.fx.pkgId.toNat
  match s.group? gid with
  | none => s
  | some g => match g.coll with
    | some _ => s.failColl gid own .peerAbort own
    | none => (s.breakGroup gid own).toMembers g 0x22 seq (Status.peerAbort).code

/-- Apply what is held for the collective in progress, in order of arrival; each contribution is acknowledged as it is applied (R161,
12 R292). -/
def State.applyHeld (s : State) (x : CtxRef) (c : Cmd) (gid : Nat) : List Contribution → State
  | [] => s
  | h :: rest =>
    match (s.group? gid).bind (fun g => g.coll) with
    | none => s
    | some k =>
      if h.hdr.seq.toNat != k.seq then s.applyHeld x c gid rest
      else if !hdrMatches h.hdr k.hdr then s.mismatch gid k.seq
      else
        let drop := fun (s : State) => s.updGroup gid (fun g => { g with held := g.held.erase h })
        if h.data.isEmpty then (drop (s.updColl gid (fun k => { k with arrived := insertNat k.arrived h.rank }))).applyHeld x c gid rest
        else match s.collData x c gid h.rank (chunks 32 h.hdr.offset.toNat h.data) with
          | .done t => ((drop t).ackContribution gid h).applyHeld x c gid rest
          | .wait t => t.applyHeld x c gid rest

/-! ## Sending -/

/-- Bytes of collective data that this region's engine has sent to an owner's engine and that are not acknowledged (12 R292). -/
def State.unackedTo (s : State) (region : Nat) (owner : Nat × Nat) : Nat :=
  ((s.fx.txns.filter (fun t => t.dst = owner.1 && t.resendAt.isNone)).map (fun t => match t.owner with
    | .coll cid _ d => (s.collOf cid).elim 0 (fun gk =>
        if (gk.1.members.getD gk.1.rank (0, 0)).2 = region && gk.1.members.contains owner then d.length else 0)
    | .gone _ (some (r, m, n)) => if r = region && m = owner then n else 0
    | _ => 0)).sum

/-- `FIRST_MASK` and `LAST_MASK` of `n` bytes from the start of a sector. -/
def tailMask (n : Nat) : BitVec 32 := if n % 32 = 0 then BitVec.allOnes 32 else BitVec.ofNat 32 (2 ^ (n % 32) - 1)

/-- One message of a collective: an arrival flit, or a line of data. -/
def State.collSend (s : State) (c : Cmd) (g : Group) (k : Coll) (dst off : Nat) (bs : List Byte) : Sent :=
  match g.members[dst]? with
  | none => .noRoute
  | some mem =>
    match s.egress? mem.1 0 with
    | none => .noRoute
    | some p =>
      let hdr := collHdr c k.seq g.rank off
      let bwg := s.bwgOf g.inst
      if bs.isEmpty then s.requestVia p g.id bwg (.coll c.cid hdr []) { Msg.to 9 mem.1 with cmd := true } (some hdr) []
      else if 262144 < s.unackedTo (g.members.getD g.rank (0, 0)).2 mem + bs.length then .wait
      else
        let ns := cdiv bs.length 32
        let full : BitVec 32 := if ns = 1 then tailMask bs.length else BitVec.allOnes 32
        let pad := bs ++ List.replicate (32 * ns - bs.length) 0
        s.requestVia p g.id bwg (.coll c.cid hdr bs)
          { Msg.to 8 mem.1 with cmd := true, nsect := BitVec.ofNat 7 ns, firstMask := full, lastMask := tailMask bs.length } (some hdr) pad

/-- Send what waits, in order; the messages that cannot go yet stay. A member without a live path ends the collective (R175). -/
def State.collSends (s : State) (c : Cmd) (gid : Nat) : List (Nat × Nat × List Byte) → State
  | [] => s
  | (dst, off, bs) :: rest =>
    match s.group? gid with
    | none => s
    | some g =>
      match g.coll with
      | none => s
      | some k =>
        match s.collSend c g k dst off bs with
        | .ok t => (t.updColl gid (fun k => { k with sends := k.sends.erase (dst, off, bs) })).collSends c gid rest
        | .noRoute => s.failColl gid s.fx.pkgId.toNat .linkDown ((g.members.getD dst (0, 0)).1)
        | _ => s.collSends c gid rest

/-- Bytes of a shard line. -/
def Cmd.lineLen (c : Cmd) (g rank off : Nat) : Nat := min 256 (c.shardBase g rank + shardLen c.collBytes g rank - off)

/-- Every rank's contribution to a shard line has been applied. -/
def lineFinal (k : Coll) (g off n : Nat) : Bool := (pieceOffs off n).all (fun o => (List.range g).all (fun r => k.got.contains (o, r)))

/-- Put a final line into what is to be sent to every other rank. -/
def State.sendFinal (s : State) (g : Group) (off : Nat) (bs : List Byte) : State :=
  let others := (List.range g.members.length).filter (fun r => r != g.rank)
  s.updColl g.id (fun k => { k with finals := off :: k.finals, sends := k.sends ++ others.map (fun r => (r, off, bs)) })

/-- What reading the staged contributions to a line comes to. -/
inductive StageRead where
  | ok (s : State) (ps : List (List Byte))
  | later (s : State)

/-- The staged contributions of ranks to a line. -/
def State.collStaged (s : State) (x : CtxRef) (c : Cmd) (g : Group) (off len : Nat) : List Nat → StageRead
  | [] => .ok s []
  | r :: rest => match s.collRead x c g.id (c.stageAt g.members.length g.rank r off) len with
    | .ok t bs => match t.collStaged x c g off len rest with
      | .ok u ps => .ok u (bs :: ps)
      | .later u => .later u
    | .later t => .later t

/-- The data of a final shard line: in deterministic mode the sum of what was staged, which is written first; else what the owner's
`DST` holds, once what was written or added there has been accepted. -/
def State.finishLine (s : State) (x : CtxRef) (c : Cmd) (g : Group) (off : Nat) : State :=
  let n := g.members.length
  let len := c.lineLen n g.rank off
  let va := c.field 40 8 + off
  let noted := fun (s : State) => s.updColl g.id (fun k => { k with finals := off :: k.finals })
  let onward := fun (s : State) (bs : List Byte) => if c.opcode = 0x20 then s.sendFinal g off bs else noted s
  if !((s.cmd? c.cid).elim true (fun d => d.out.isEmpty)) then s
  else if c.stages n then
    if s.unread c.cid va len then s
    else match s.collStaged x c g off len (List.range n) with
      | .ok t ps => onward (t.cmdPut x c.cid va (pieceSum c.dfmt ps)) (pieceSum c.dfmt ps)
      | .later t => t
  else if c.opcode != 0x20 || n = 1 then noted s
  else if (s.cmdTxns c.cid).any (fun t => t.owner = .cmd c.cid) then s
  else match s.collRead x c g.id va len with
    | .ok t bs => onward t bs
    | .later t => t

/-- Read what is left of `SRC`, in order, as far as it goes: each piece goes to the ranks that it is for, this one's own part included. -/
def State.collSource (s : State) (x : CtxRef) (c : Cmd) (gid : Nat) : List (Nat × Nat × Nat) → State
  | [] => s.updCmd c.cid (fun d => { d with todo := [] })
  | (va, off, n) :: rest =>
    let stay := fun (s : State) => s.updCmd c.cid (fun d => { d with todo := (va, off, n) :: rest })
    match s.collOf c.cid, s.cmd? c.cid with
    | some (g, _), some d =>
      match s.collRead x d gid va n with
      | .later t => if (t.collOf c.cid).isSome then stay t else t
      | .ok t bs =>
        let ts := c.targets g.members.length g.rank off
        let mine := ts.filter (fun r => r.1 = g.rank)
        let t := t.updCmd c.cid (fun d => { d with todo := rest })
        let next := fun (t : State) =>
          (t.updColl gid (fun k => { k with sends := k.sends ++ (ts.filter (fun r => r.1 != g.rank)).map (fun r => (r.1, r.2, bs)) })).collSource x c gid rest
        match mine with
        | [] => next t
        | r :: _ => match t.collData x c gid g.rank (chunks 32 r.2 bs) with
          | .done u => next u
          | .wait u => stay u
    | _, _ => s

/-- A collective under way waits for a held stack: to read its `SRC`, to write part of a sector, or to add to or read a line of its shard of which
something has come (11 R270). -/
def State.collHeld (s : State) (cid : Nat) : Bool :=
  match s.cmd? cid, s.collOf cid with
  | some c, some (g, k) =>
    let n := g.members.length
    let held := fun (va len : Nat) => s.rangeHeld g.inst c.since va len
    c.todo.head?.elim false (fun p => held p.1 p.2.2) || c.out.head?.elim false (fun p => held p.1 p.2.length)
      || (c.reduces && (c.shardLines n g.rank).any (fun o => !k.finals.contains o && k.got.any (fun p => p.1 / 256 = o / 256)
        && (if c.stages n then (List.range n).any (fun r => held (c.stageAt n g.rank r o) 256) else held (c.field 40 8 + o) 256)))
  | _, _ => false

/-- Move the collective of a command forward: what waits to be written, `SRC`, held contributions, final lines, messages. One whose engine is held
in reset ends (14 R322, R326); the failing address is that of its `SRC` (DESIGN CHOICE, log 96). -/
def State.collPump (s : State) (cid : Nat) : State :=
  match s.cmd? cid, s.collOf cid with
  | some c, some (g, _) =>
    match s.cmdCtx c with
    | none => s
    | some x =>
      if c.phase != .active || (s.ctx? x).elim true (fun y => y.st = 3 || y.st = 4) then s
      else if s.engineDown c then s.stopCmd cid .addressFault (failAddr (c.field 32 8))
      else
        let s := s.flushOut x cid c.out
        let s := s.collSource x c g.id ((s.cmd? cid).elim [] (fun c => c.todo))
        let s := s.applyHeld x c g.id ((s.group? g.id).elim [] (fun g => g.held))
        let n := g.members.length
        let s := if c.reduces then
            (c.shardLines n g.rank).foldl (fun s off =>
              match s.collOf cid, s.cmd? cid with
              | some (g, k), some c => if !k.finals.contains off && lineFinal k n off (c.lineLen n g.rank off) then s.finishLine x c g off else s
              | _, _ => s) s
          else s
        let s := s.markHeld cid (s.collHeld cid)
        match s.collOf cid with
        | some (g, k) => s.collSends c g.id k.sends
        | none => s
  | _, _ => s

/-! ## Entering -/

/-- Every reserved bit, every range of a field, and the conditions that need the group's size. -/
def Cmd.collChecks (c : Cmd) (g : Option Group) : List (Nat × Bool) :=
  let n := g.elim 0 (fun g => g.members.length)
  let fl := c.det && c.dfmt ≤ 2
  [(16, c.field 16 2 < 4096), (18, c.dfmt ≤ 4), (19, c.byte 19 ≤ 1),
   (20, (c.opcode = 0x23 || c.field 20 2 = 0) && (g.isNone || c.field 20 2 < n)), (22, c.zero 22 24), (24, c.opcode != 0x24 || c.count = 0),
   (32, c.pointer 32), (32, c.field 32 8 % 32 = 0), (40, c.pointer 40), (40, c.field 40 8 % 32 = 0),
   (48, (c.pointer 48 && c.field 48 8 % 32 = 0) || (c.det && !fl)), (48, c.det || c.field 48 8 = 0),
   (56, c.det || c.field 56 4 = 0), (56, !fl || g.isNone || n * 256 ≤ c.field 56 4), (60, c.zero 60 64)]

/-- The staging area lies wholly in the instance's Hamper window of this module (R171). -/
def State.stageBad (s : State) (inst : Nat) (c : Cmd) : Option CmdTo :=
  if !(c.det && c.dfmt ≤ 2) then none
  else (pagesOf (c.field 48 8) (c.field 56 4)).findSome? (fun p => match s.cmdTo inst c.since .write p.1 with
    | .ok (.home a) => if inWindow a then none else some (.bad .invalidParam 48)
    | .bad st d => some (.bad st d)
    | .ask (.needLine l) => some (.ask (.needLine l))
    | _ => some (.bad .invalidParam 48))

/-- The members that no live path reaches, by rank. -/
def State.unreachable (s : State) (g : Group) : Option Nat :=
  (g.members.find? (fun m => m.1 != s.fx.pkgId.toNat && (s.egress? m.1 0).isNone)).map (fun m => m.1)

/-- An owner shard on host frames takes no adds (R158). -/
def State.shardOnHost (s : State) (inst : Nat) (c : Cmd) (g : Group) : Option Nat :=
  let n := g.members.length
  if !c.reduces || n = 1 || c.stages n then none
  else (pagesOf (c.field 40 8 + c.shardBase n g.rank) (shardLen c.collBytes n g.rank)).findSome? (fun p => match s.cmdTo inst c.since .write p.1 with
    | .ok (.host _) => some p.1
    | _ => none)

/-- The result of a collective does not depend on arrival order (R172). -/
def Cmd.orderFree (c : Cmd) : Bool := !c.reduces || 3 ≤ c.dfmt || c.det

/-- Enter a collective: it takes the group's next sequence number, and has its arrival to send to every other member and its `SRC` to read.
`DETERMINISTIC` is set whatever the collective's later status (DESIGN CHOICE, log 69). -/
def State.collEnter (s : State) (c : Cmd) (g : Group) : State :=
  let n := g.members.length
  let others := (List.range n).filter (fun r => r != g.rank)
  let own := if c.reduces && c.inPlace g.rank && !c.stages n then (pieceOffs (c.shardBase n g.rank) (shardLen c.collBytes n g.rank)).map (fun o => (o, g.rank)) else []
  let k : Coll :=
    { cid := c.cid, seq := g.seq, hdr := collHdr c g.seq g.rank 0, entered := s.time, restart := s.time, beacons := false, came := s.time,
      arrived := [g.rank], got := own, finals := [], sends := others.map (fun r => (r, 0, [])) }
  let s := s.updGroup g.id (fun g => { g with seq := (g.seq + 1) % 2 ^ 32, coll := some k })
  (s.updCmd c.cid (fun d =>
    { d with phase := .active, determ := c.orderFree, todo := (c.srcPieces n g.rank).map (fun p => (c.field 32 8 + p.1, p.1, p.2)) })).collPump c.cid

/-- A collective row: a begun command is checked and enters, once no other collective of its group is in progress (log 30); one that is
under way moves on. -/
def State.collRow (s : State) (cid op : Nat) : State :=
  match s.cmd? cid with
  | none => s
  | some c =>
    if c.opcode != op || !s.engineRuns c.q then s
    else if s.engineDown c && (c.phase = .begun || c.phase = .active) then s.stopCmd cid .addressFault (failAddr (c.field 32 8))
    else if c.phase = .active then s.collPump cid
    else if c.phase != .begun then s
    else match s.cmdCtx c with
      | none => s
      | some x =>
        let g? := (s.group? (c.field 16 2)).bind (fun g => if g.inst = x.inst then some g else none)
        s.checked c (c.collChecks g?)
          (match g? with
          | none => s.doneCmd cid .notPermitted 0
          | some g =>
            s.withRanges c x.inst [(.read, c.field 32 8, c.srcLen g.rank), (.write, c.field 40 8, c.dstLen g.members.length g.rank)]
              (match s.stageBad x.inst c, s.shardOnHost x.inst c g with
              | some (.bad st d), _ => s.doneCmd cid st d
              | some (.ask q), _ => s.newChoice.askXlat x.inst q
              | some _, _ => s
              | none, some va => s.doneCmd cid .addressFault (failAddr va)
              | none, none =>
                match g.broken with
                | some p => s.doneCmd cid .peerAbort p
                | none =>
                  if g.coll.isSome then s
                  else match s.unreachable g with
                    | some p => ((s.breakGroup g.id s.fx.pkgId.toNat).toMembers g 0x22 g.seq (Status.linkDown).code).doneCmd cid .linkDown p
                    | none => s.newChoice.collEnter c g))

/-- COLL_ALLREDUCE. -/
def execCollAllreduce (cid : Nat) (s : State) : Host.Outcome State Fault Refusal := .next (s.collRow cid 0x20)
/-- COLL_REDUCE_SCATTER. -/
def execCollReduceScatter (cid : Nat) (s : State) : Host.Outcome State Fault Refusal := .next (s.collRow cid 0x21)
/-- COLL_ALLGATHER. -/
def execCollAllgather (cid : Nat) (s : State) : Host.Outcome State Fault Refusal := .next (s.collRow cid 0x22)
/-- COLL_BROADCAST. -/
def execCollBroadcast (cid : Nat) (s : State) : Host.Outcome State Fault Refusal := .next (s.collRow cid 0x23)
/-- COLL_BARRIER. -/
def execCollBarrier (cid : Nat) (s : State) : Host.Outcome State Fault Refusal := .next (s.collRow cid 0x24)

/-! ## Completion and timeout -/

/-- Pieces that a rank's result awaits, as (offset, rank). -/
def Cmd.awaited (c : Cmd) (g : Group) : List (Nat × Nat) :=
  let n := g.members.length
  let len := c.collBytes
  if c.reduces then
    (pieceOffs (c.shardBase n g.rank) (shardLen len n g.rank)).flatMap (fun o => (List.range n).map (fun r => (o, r)))
      ++ (if c.opcode = 0x21 then []
          else ((List.range n).filter (fun r => r != g.rank)).flatMap (fun r =>
            (pieceOffs (r * shardSize len n) (shardLen len n r)).map (fun o => (o, r))))
  else if c.opcode = 0x22 then (List.range n).flatMap (fun r => (pieceOffs (r * len) len).map (fun o => (o, r)))
  else if c.opcode = 0x23 then (pieceOffs 0 len).map (fun o => (o, c.field 20 2))
  else []

/-- A collective has finished on this rank: every member has entered, `DST` is complete, and all it sent has been accepted (R166, R167). -/
def State.collDone (s : State) (c : Cmd) (g : Group) (k : Coll) : Bool :=
  (List.range g.members.length).all (fun r => k.arrived.contains r) && k.sends.isEmpty && c.out.isEmpty
    && (c.awaited g).all (fun p => k.got.contains p) && (!c.reduces || (c.shardLines g.members.length g.rank).all (fun o => k.finals.contains o))
    && c.todo.isEmpty && s.fx.txns.all (fun t => match t.owner with
      | .coll j _ _ => j != c.cid
      | .cmd j => j != c.cid
      | .dma j _ => j != c.cid
      | _ => true)

/-- End a collective that has finished; it was held where it waited past its timeout on beacons (R174). -/
def State.finishColl (s : State) (c : Cmd) : State :=
  match s.collOf c.cid with
  | none => s
  | some (g, k) =>
    if s.collDone c g k then
      let s := s.updGroup g.id (fun g => { g with coll := none })
      let s := s.updCmd c.cid (fun d => { d with peerHeld := k.beacons && decide (k.entered + g.timeoutMs * 1000000 < k.came) })
      s.doneCmd c.cid .success 0
    else s

/-- Some arrival or contribution of another member has not come. -/
def Cmd.missing (c : Cmd) (g : Group) (k : Coll) : Bool :=
  let here := fun (r off : Nat) => g.held.any (fun h => h.rank = r && h.hdr.seq.toNat = k.seq && h.hdr.offset.toNat ≤ off && off < h.hdr.offset.toNat + h.data.length)
  let entered := fun (r : Nat) => k.arrived.contains r || g.held.any (fun h => h.rank = r && h.hdr.seq.toNat = k.seq && h.data.isEmpty)
  !(List.range g.members.length).all entered || (c.awaited g).any (fun p => p.2 != g.rank && !k.got.contains p && !here p.2 p.1)

/-- COLLECTIVE_TIMEOUT: something that this member awaits has not come `TIMEOUT_MS` after its entry or the last beacon, or 10 s after its entry
(R174). -/
def execCollectiveTimeout (cid : Nat) (s : State) : Host.Outcome State Fault Refusal :=
  .next (s.clockRow (match s.cmd? cid, s.collOf cid with
  | some c, some (g, k) =>
    if c.phase = .active && c.missing g k && min (k.restart + g.timeoutMs * 1000000) (k.entered + 10000000000) ≤ s.time then
      (s.failColl g.id s.fx.pkgId.toNat .timeout (s.elapsedMs c)).finishCmd cid
    else s
  | _, _ => s))

/-- HELD_FULL_RESEND: a refused contribution is sent again, as a new transaction, 10 µs after the refusal. -/
def execHeldFullResend (port txn : Nat) (s : State) : Host.Outcome State Fault Refusal :=
  .next (s.clockRow (match s.fx.txns.find? (fun t => t.port = port && t.num = txn) with
  | none => s
  | some t =>
    match t.owner, t.resendAt with
    | .coll cid h d, some at_ =>
      match s.cmd? cid, s.collOf cid with
      | some c, some (g, k) =>
        if at_ ≤ s.time then
          let u := s.endTxn port txn
          match u.collSend c g k ((g.members.zipIdx.find? (fun m => m.1.1 = t.dst)).elim 0 (fun m => m.2)) h.offset.toNat d with
          | .ok v => v
          | .noRoute => (s.failColl g.id s.fx.pkgId.toNat .linkDown t.dst).finishCmd cid
          | _ => s
        else s
      | _, _ => s
    | _, _ => s))

end Sys2Proof.Machine
end

