-- ==== Sys2Proof/Machine/Bar2.lean ====
section
/-! DEFINITION. Ranges of memory that the manager and the host name, where BAR2 leads, and posted writes, which wait in order (09 R227, 13 R309 to
R311, 08 R200). -/
namespace Sys2Proof.Machine

/-! ## Ranges -/

/-- Channel of a local HBM address, as 32 * stack + channel. -/
def State.channelOf (s : State) (a : Nat) : Nat := 32 * s.homeRegion a + s.pcOf a / 2

/-- A local address lies on a named channel. -/
def State.onChannels (s : State) (mask a : Nat) : Bool := s.inHbm a && bit mask (s.channelOf a)

/-- A local address that the manager may name: backed, below MMIO, and homed in a region out of reset. An address in the MMIO range, which the
controllers reach but for which no rule gives a manager command an outcome, is not taken (DESIGN CHOICE, log 91). -/
def State.mgrBacked (s : State) (a : Nat) : Bool := decide (a < 2 ^ 41) && s.backed a && !s.regionDown (s.homeRegion a)

/-- The first failure of a range that a manager command names: unbacked, or inside a grant (R227). -/
def State.mgrBad (s : State) (a len : Nat) : Option (Status × Nat) :=
  (pagesOf a len).findSome? (fun p =>
    if !s.mgrBacked p.1 then some (.addressFault, p.1) else if s.granted p.1 then some (.notPermitted, p.1) else none)

/-- Sectors of a local range. -/
def mgrSectors (a len : Nat) : List Nat := if len = 0 then [] else (List.range ((a + len - 1) / 32 - a / 32 + 1)).map (fun i => a / 32 + i)

/-- Sectors of a range that a manager command reads, or merges into, and that are still to be read from HBM. -/
def State.mgrMissing (s : State) (reads : Bool) (a len : Nat) : List Nat :=
  (mgrSectors a len).filter (fun sec => s.secMissing sec && (reads || sec * 32 < a || a + len < sec * 32 + 32))

/-! ## BAR2 (13 R309 to R311) -/

/-- A VF's BARs accept a request: in `RUN` only with the T bit on the bound stream (R320). -/
def State.vfTakes (s : State) (vf : Nat) (tagged : Bool) : Bool :=
  s.partyUp (if tagged then .tenant vf else .untagged vf)

/-- Where a BAR2 request goes: this module's memory, another module's, nowhere, or it waits for a line of a page table. -/
inductive BarTo where
  | home (inst : Option Nat) (a : Nat)
  | remote (inst : Nat) (pa : Nat)
  | line (n : Nat)
  | none
deriving DecidableEq, Repr

/-- Every sector of a local range has its home out of reset. -/
def State.homesUp (s : State) (a len : Nat) : Bool := (mgrSectors a len).all (fun sec => !s.regionDown (s.homeRegion (sec * 32)))

/-- PF BAR2 at an offset: local memory that no instance holds (R309). -/
def State.pfBar2 (s : State) (o len : Nat) : BarTo :=
  if o + len ≤ 2 ^ 41 && (s.mgrBad o len).isNone && s.homesUp o len then .home none o else .none

/-- VF BAR2 at an offset: the virtual address of its instance (R310). -/
def State.vfBar2 (s : State) (vf : Nat) (want : Want) (o len : Nat) : BarTo :=
  if 2 ^ s.opt.vfBar2Log2.toNat < o + len then .none
  else match s.translate (vf - 1) want o s.histSeq with
    | .device pa _ =>
      if !s.isLocal pa then .remote (vf - 1) pa else if s.homesUp (paLocal pa) len then .home (some (vf - 1)) (paLocal pa) else .none
    | .needLine l => .line l
    | _ => .none

/-- BAR2 of a function at an offset. -/
def State.bar2To (s : State) (fn : Nat) (want : Want) (o len : Nat) : BarTo := if fn = 0 then s.pfBar2 o len else s.vfBar2 fn want o len

/-- A local access has to wait: behind earlier accesses, for sectors that it reads or merges into, for room that a held stack keeps, or for a
running Rambler that has its channel (06 R130, 08 R186, 11 R270, R275). -/
def State.barWaits (s : State) (inst : Option Nat) (a len : Nat) (reads : Bool) : Bool :=
  !(s.mgrMissing reads a len).isEmpty || (mgrSectors a len).any (fun sec => s.behindHbm (sec * 32) || s.inboundAt sec
    || (!reads && s.allocHeld inst (sec / 8) 0) || s.rambler.elim false (fun r => s.onChannels r.channels.toNat (sec * 32)))

/-- Sectors that a waiting access needs are read from HBM, for a read in class 0, for a write in class 1 (11 R261; DESIGN CHOICE, log 13). -/
def State.barFetch (s : State) (inst : Option Nat) (a len : Nat) (reads : Bool) : State :=
  (distinct ((s.mgrMissing reads a len).map (fun sec => sec / 8))).foldl (fun s l => s.fetchLine l (if reads then 0 else 1) inst false) s

/-- A local access of the host: performed, or waiting for what it needs. -/
def State.barHome (s : State) (inst : Option Nat) (a len : Nat) (reads : Bool) (go : State) : State :=
  if s.barWaits inst a len reads then s.barFetch inst a len reads else go

/-- Parts of a range by 2 KiB granule, which travel as one message each: first address and bytes. -/
def granulesOf (a len : Nat) : List (Nat × Nat) :=
  if len = 0 then []
  else (List.range ((a + len - 1) / 2048 - a / 2048 + 1)).map (fun i =>
    let lo := max a ((a / 2048 + i) * 2048)
    (lo, min (a + len) ((a / 2048 + i + 1) * 2048) - lo))

/-- Sectors that a part touches. -/
def secsOf (a len : Nat) : Nat := (a + len - 1) / 32 - a / 32 + 1

/-- Send the pieces of a request over the fabric, all or none: a failure, no room now, or done. -/
def State.sendPieces (s : State) (inst : Nat) : List (TxnOwner × Nat × Msg × List Byte) → Sent
  | [] => .ok s
  | (o, pa, m, d) :: rest => match s.request inst o pa m d with
    | .ok t => t.sendPieces inst rest
    | r => r

/-- A message that writes bytes within one granule of another module. -/
def wrMsg (pa : Nat) (bs : List Byte) : Msg × List Byte :=
  let n := secsOf pa bs.length
  let tail := (pa + bs.length - 1) % 32 + 1
  let first : Nat := 2 ^ 32 - 2 ^ (pa % 32)
  let m := { Msg.to 2 0 with
    nsect := BitVec.ofNat 7 n, firstMask := BitVec.ofNat 32 (if n = 1 then 2 ^ tail - 2 ^ (pa % 32) else first)
    lastMask := if n = 1 then 0 else BitVec.ofNat 32 (2 ^ tail - 1) }
  (m, List.replicate (pa % 32) 0 ++ bs ++ List.replicate (32 - tail) 0)

/-- A BAR2 write is discarded (16 R373). -/
def State.bar2Lost (s : State) (fn : Nat) : State := s.error 0x10 1 0x70 fn

/-- Make a write of a function to BAR2: made or discarded, or it has to wait. -/
def State.bar2Put (s : State) (fn o : Nat) (data : List Byte) : State × Bool :=
  let len := data.length
  match s.bar2To fn .write o len with
  | .none => (s.bar2Lost fn, true)
  | .line l => (s.fetchLine l 0 none false, false)
  | .home i a => if s.barWaits i a len false then (s.barFetch i a len false, false) else ((s.homeWrite i a 0 data).drainEvents, true)
  | .remote i pa =>
    let one := fun (p : Nat × Nat) =>
      let w := wrMsg p.1 ((data.drop (p.1 - pa)).take p.2)
      (TxnOwner.bar2Write fn, p.1, w.1, w.2)
    match s.sendPieces i ((granulesOf pa len).map one) with
    | .ok t => (t, true)
    | .wait => (s, false)
    | _ => (s.bar2Lost fn, true)

/-! ## Posted writes that wait (08 R200, 09 R207) -/

/-- The turn of a write that waits has come: those of its requester before it have been accepted at their homes. -/
def State.postedTurn (s : State) (kept : List Posted) (fn : Nat) : Bool :=
  !kept.any (fun w => w.fn = fn) && !s.fx.txns.any (fun t => match t.owner with
    | .bar2Write k => decide (k = fn)
    | _ => false)

/-- Make a write that waited, or let it wait on. -/
def State.postNow (s : State) : Posted → State × Bool
  | .bar2 fn o data => s.bar2Put fn o data
  | .bell _ b q value => (s.ringBell b q value, true)

/-- Make the posted writes that need to wait no longer, in order. -/
def State.drainPosted (s : State) : State :=
  if !s.running || s.host.posted.isEmpty then s
  else
    let r := s.host.posted.foldl (fun (x : State × List Posted) p =>
      if x.1.postedTurn x.2 p.fn then
        match x.1.postNow p with
        | (t, true) => (t, x.2)
        | (t, false) => (t, x.2 ++ [p])
      else (x.1, x.2 ++ [p])) (s, [])
    { r.1 with host := { r.1.host with posted := r.2 } }

end Sys2Proof.Machine
end

