-- ==== Sys2Proof/Machine/Fabric.lean ====
section
/-! DEFINITION. Messages of the fabric: requests of other modules at this module's homes, forwarding, responses to this module's requests,
and the management messages of collectives (12 R286, R289 to R298, R300; 07 R161, R168, R174). -/
namespace Sys2Proof.Machine

/-! ## Receiving -/

/-- A message that is discarded: a class 0x0E record (12 R291, 16 R373). -/
def State.discardMsg (s : State) (port : Nat) : State := s.error 0x0E 3 (0x60 + port) 2

/-- No reserved bit or code in the header of a message of a type (12 R290). -/
def msgLegal (m : Msg) : Bool :=
  let sectors := 1 ≤ m.nsect.toNat && m.nsect.toNat ≤ 64
  let addressed := m.typ.toNat ≤ 5
  m.reserved = 0 && m.hops.toNat ≤ 3
    && (!addressed || (sectors && m.addr.toNat % 32 = 0 && m.addr.toNat < 2 ^ 42 && m.addr.toNat % 2048 + 32 * m.nsect.toNat ≤ 2048))
    && (m.typ != 8 || (sectors && m.addr = 0))
    && (match m.typ.toNat with
      | 3 => bits m.op.toNat 3 0 ≤ 10 && m.op.toNat < 32 && !(m.op.toNat = 26)
      | 4 => m.op.toNat ≤ 4
      | 5 => m.op.toNat ≤ 1
      | _ => m.op = 0)
    && (match m.typ.toNat with
      | 0x12 => 1 ≤ m.status.toNat && m.status.toNat ≤ 5
      | 0x21 => m.status = 2 || m.status = 3
      | 0x22 => 1 ≤ m.status.toNat && m.status.toNat ≤ 15
      | _ => m.status = 0)

/-- A request, as against a response or a management message. -/
def isRequest (m : Msg) : Bool := m.typ.toNat < 0x10

/-- The types that R291 defines. -/
def knownTyp (t : Nat) : Bool := (1 ≤ t && t ≤ 5) || t = 8 || t = 9 || (0x10 ≤ t && t ≤ 0x13) || t = 0x21 || t = 0x22

/-- Forward a message for another module: by this module's own table, one link more crossed (12 R289). Where it cannot go a request is
refused with `NO_ROUTE`, and any other message is discarded. It keeps its receive buffer while it waits for credits of its next level. A response
or a management message, which holds no address, goes as one for address 0 (DESIGN CHOICE, log 95: the spec gives none). -/
def State.forward (s : State) (port : Nat) (m : Msg) (c : Option CollHdr) (data : List Byte) : State :=
  let buffer := (port, msgPool m, msgFlits data)
  let refuse := (if isRequest m then s.nackMsg port m 3 else s).freeRx port buffer.2.1 buffer.2.2
  if m.hops = 3 then refuse
  else match s.egress? m.dstPkg.toNat (if isRequest m then m.addr.toNat else 0) with
    | none => refuse
    | some p => s.putOut p { m := { m with hops := m.hops + 1 }, coll := c, data := data, back := some buffer }

/-- A message of a type arrives: nothing before the port is up; a request between `UP` and `LIVE` is refused and any other message
discarded (12 R300); an illegal one, or one of a reserved type, is discarded and recorded; one for another module is forwarded; else it leaves
its receive buffer, and `go`. -/
def State.receive (s : State) (typ port : Nat) (m : Msg) (c : Option CollHdr) (data : List Byte) (go : State → State) : State :=
  let st := (s.port port).st
  let taken := fun (s : State) => s.freeRx port (msgPool m) (msgFlits data)
  if (m.typ.toNat != typ && knownTyp m.typ.toNat) || !s.outOfCold || 16 ≤ port || st = .down then s
  else if st != .live then taken (if isRequest m then s.nackMsg port m 4 else s)
  else if !msgLegal m || m.typ.toNat != typ then taken (s.discardMsg port)
  else if m.dstPkg != s.fx.pkgId then s.forward port m c data
  else go (taken s)

/-! ## Requests at this module's homes (12 R291, R292, R294) -/

/-- Byte enables of sector `i` of a request: `FIRST_MASK`, `LAST_MASK`, every byte between. -/
def sectorEnables (m : Msg) (i : Nat) : BitVec 32 :=
  if i = 0 then m.firstMask else if i + 1 = m.nsect.toNat then m.lastMask else BitVec.allOnes 32

/-- Enabled bytes of sector `i` of a payload. -/
def enabledBytes (m : Msg) (data : List Byte) (i : Nat) : List (Nat × Byte) :=
  ((List.range 32).filter (fun o => (sectorEnables m i).getLsbD o)).map (fun o => (o, data.getD (32 * i + o) 0))

/-- Enabled elements of `n` bytes of sector `i`, by offset. -/
def enabledElems (m : Msg) (n i : Nat) : List Nat :=
  ((List.range (32 / n)).map (fun k => k * n)).filter (fun o => (sectorEnables m i).getLsbD o)

/-- A remote write. One that enables no byte of a sector poisons it (log 62). -/
def State.homeWr (s : State) (port inst : Nat) (m : Msg) (data : List Byte) : State :=
  let one := fun (s : State) (i : Nat) =>
    if sectorEnables m i = 0 then s.markPoison (m.addr.toNat / 32 + i)
    else s.writeSector (some inst) (m.addr.toNat / 32 + i) 0 (enabledBytes m data i)
  ((List.range m.nsect.toNat).foldl one s).drainEvents.ackMsg port m

/-- Element `o` of sector `i` of a payload run that begins at byte `base`. -/
def payloadElem (data : List Byte) (base i o n : Nat) : Nat := leNat ((data.drop (base + 32 * i + o)).take n)

/-- A remote atomic: the enabled elements, ascending, for each run of operands in turn (02 R48, log 22); the response carries the sectors before it. A
poisoned sector is not changed. -/
def State.homeAtom (s : State) (port inst : Nat) (m : Msg) (data : List Byte) : State :=
  let n := if m.op.getLsbD 4 then 8 else 4
  let a := m.addr.toNat
  let ns := m.nsect.toNat
  let aop := bits m.op.toNat 3 0
  let run := if aop = 9 then 64 * ns else 32 * ns
  let old := (List.range ns).flatMap (fun i => s.secBytes (a / 32 + i))
  let masks := s.readMasks a ns
  let one := fun (s : State) (i : Nat) =>
    if masks.2.getLsbD i then s
    else
      let elem := fun (o : Nat) => (List.range (max 1 (data.length / run))).foldl (fun v k =>
        atomNew aop n v (payloadElem data (run * k) i o n) (payloadElem data (run * k + 32 * ns) i o n)) (leNat ((old.drop (32 * i + o)).take n))
      s.writeSector (some inst) (a / 32 + i) 0 ((enabledElems m n i).flatMap (fun o => (leBytes (elem o) n).zipIdx.map (fun b => (o + b.2, b.1))))
  ((List.range ns).foldl one s).rspData port m masks old

/-- The operand of an element of a remote add: in the line's format, or in FP32, which takes two sectors for a sector of 16-bit elements (log
26). -/
def addOperand (m : Msg) (data : List Byte) (i o : Nat) : Nat × Nat :=
  let f := m.op.toNat
  if fmtBytes f = 2 && 64 * m.nsect.toNat ≤ data.length then (0, leNat ((data.drop (64 * i + 2 * o)).take 4))
  else (f, payloadElem data 0 i o (fmtBytes f))

/-- A remote add; an element on a poisoned sector is dropped and recorded. On a dead sector it takes the old contents and makes the sector live; the
`DEAD_MASK` of its acknowledgement names it, and the requester counts the dead re-read or applies its `DEADCHK`, which the home does not know
(DESIGN CHOICE, log 71). -/
def State.homeAddMsg (s : State) (port inst : Nat) (m : Msg) (data : List Byte) : State :=
  let f := m.op.toNat
  let n := fmtBytes f
  let a := m.addr.toNat
  let one := fun (s : State) (i : Nat) =>
    let sec := a / 32 + i
    let old := s.secBytes sec
    let new := (enabledElems m n i).map (fun o => (o, lineAdd f (addOperand m data i o).1 (leNat ((old.drop o).take n)) (addOperand m data i o).2))
    if s.secPoisoned sec then s.postError 0x08 1 (0x40 + s.homeRegion (sec * 32)) (errAddr (sec * 32))
    else s.writeSector (some inst) sec 0 (new.flatMap (fun x => (leBytes x.2 n).zipIdx.map (fun b => (x.1 + b.2, b.1))))
  let masks := s.readMasks a m.nsect.toNat
  ((List.range m.nsect.toNat).foldl one s).drainEvents.respond port m { Msg.to 0x11 0 with deadMask := masks.1 &&& ~~~masks.2 } []

/-- A remote dead declaration. -/
def State.homeDead (s : State) (port : Nat) (m : Msg) : State :=
  ((List.range m.nsect.toNat).foldl (fun s i => s.declareDead (m.addr.toNat / 32 + i) (m.op = 1)) s).ackMsg port m

/-- Perform a request at its home; a read that its line was brought in for is no hit. -/
def State.serve (s : State) (port inst : Nat) (m : Msg) (data : List Byte) (hit : Bool) : State :=
  let s := s.countLlc (some inst) m.addr.toNat
  match m.typ.toNat with
  | 1 => s.homeRd port m hit
  | 2 => s.homeWr port inst m data
  | 3 => s.homeAtom port inst m data
  | 4 => s.homeAddMsg port inst m data
  | _ => s.homeDead port m

/-- Sectors that a request reads or merges into and that are still to be read from HBM (06 R130). -/
def State.msgMissing (s : State) (m : Msg) : List Nat :=
  if m.typ = 5 then []
  else ((List.range m.nsect.toNat).filter (fun i =>
    s.secMissing (m.addr.toNat / 32 + i) && (m.typ != 2 || (sectorEnables m i != BitVec.allOnes 32 && sectorEnables m i != 0)))).map
      (fun i => m.addr.toNat / 32 + i)

/-- HBM class of a request (11 R261, 12 R290). -/
def msgClass (m : Msg) : Nat := if m.typ = 2 then 1 else if m.typ != 1 then 0 else if m.stream then 2 else if m.cmd then 1 else 0

/-- A request has to wait at its home: for HBM, behind an earlier access to one of its sectors, or for room that a held stack keeps. -/
def State.msgWaits (s : State) (inst : Nat) (m : Msg) : Bool :=
  let a := m.addr.toNat
  !(s.msgMissing m).isEmpty || (List.range m.nsect.toNat).any (fun i => s.behindHbm (a + 32 * i)
    || (m.typ != 1 && m.typ != 5 && s.allocHeld (some inst) ((a + 32 * i) / 256) 0) || (m.typ = 5 && s.declareHeld ((a + 32 * i) / 256) (m.op = 1)))

/-- The lines that a request waits for take entries, or join those that there are (06 R142, R143). -/
def State.fetchMsg (s : State) (inst : Nat) (m : Msg) : State :=
  (distinct ((s.msgMissing m).map (fun sec => sec / 8))).foldl (fun s l => s.fetchLine l (msgClass m) (some inst) (m.typ = 1 && m.stream)) s

/-- A request that it goes behind is held here (08 R185, R186). -/
def State.behindInbound (s : State) (m : Msg) : Bool := s.fx.inbound.any (fun i => msgFollows m i.msg)

/-- Check a request and perform it, or hold it while it has to wait. -/
def State.serveChecked (s : State) (port : Nat) (m : Msg) (data : List Byte) : State :=
  match s.fabricGrant m with
  | .inr reason => s.nackMsg port m reason
  | .inl inst =>
    if s.msgWaits inst m || s.behindInbound m then
      let i : Inbound := { port := port, msg := m, data := data, lastPending := s.time, missed := !(s.msgMissing m).isEmpty }
      let s := s.fetchMsg inst m
      { s with fx := { s.fx with inbound := s.fx.inbound ++ [i] } }
    else s.serve port inst m data true

/-- Perform the held requests that need to wait no longer, in order. -/
def State.resumeInbound (s : State) : List Inbound → State
  | [] => s
  | i :: rest =>
    let others := s.fx.inbound.takeWhile (fun j => j != i)
    let t := { s with fx := { s.fx with inbound := s.fx.inbound.erase i } }
    (match s.fabricGrant i.msg with
      | .inr reason => t.nackMsg i.port i.msg reason
      | .inl inst =>
        if s.msgWaits inst i.msg || others.any (fun j => msgFollows i.msg j.msg) then
          let note := fun (j : Inbound) => if j = i && !(s.msgMissing i.msg).isEmpty then { j with missed := true } else j
          let s := { s with fx := { s.fx with inbound := s.fx.inbound.map note } }
          s.fetchMsg inst i.msg
        else t.serve i.port inst i.msg i.data (!i.missed)).resumeInbound rest

/-- RD. -/
def execRd (port : Nat) (m : Msg) (s : State) : Host.Outcome State Fault Refusal :=
  .next (s.receive 1 port m none [] (fun s => s.serveChecked port m []))

/-- WR. -/
def execWr (port : Nat) (m : Msg) (data : List Byte) (s : State) : Host.Outcome State Fault Refusal :=
  .next (s.receive 2 port m none data (fun s => s.serveChecked port m data))

/-- ATOM of another module. -/
def execFabricAtom (port : Nat) (m : Msg) (data : List Byte) (s : State) : Host.Outcome State Fault Refusal :=
  .next (s.receive 3 port m none data (fun s => s.serveChecked port m data))

/-- ADD of another module. -/
def execFabricAdd (port : Nat) (m : Msg) (data : List Byte) (s : State) : Host.Outcome State Fault Refusal :=
  .next (s.receive 4 port m none data (fun s => s.serveChecked port m data))

/-- DEAD of another module. -/
def execDead (port : Nat) (m : Msg) (s : State) : Host.Outcome State Fault Refusal :=
  .next (s.receive 5 port m none [] (fun s => s.serveChecked port m []))

/-! ## Collective messages (07 R161, R168; 12 R292) -/

/-- Bytes held for collectives of one engine that its channels have not reached. -/
def State.heldBytes (s : State) (region : Nat) : Nat :=
  ((s.fx.groups.filter (fun g => (g.members.getD g.rank (0, 16)).2 = region)).map (fun g => (g.held.map (fun h => h.data.length)).sum)).sum

/-- Bytes that a contribution carries: whole sectors and the enabled bytes of the last. -/
def msgBytes (m : Msg) : Nat :=
  let n := m.nsect.toNat
  let last := if n = 1 then m.firstMask else m.lastMask
  32 * (n - 1) + (maskBits 32 last.toNat).length

/-- A message of a collective arrives at a member: refused without a right, dropped where the group is broken, a mismatch, held until
the channel reaches its collective, or applied. What the store has no room for is refused (07 R161), also where it is for a later round of a
collective that the channel has reached. An engine whose region is held in reset refuses every one (14 R326). -/
def State.collArrived (s : State) (port : Nat) (m : Msg) (h : CollHdr) (data : List Byte) : State :=
  match s.group? m.groupId.toNat with
  | none => s.nackMsg port m 1
  | some g =>
    if !g.members.any (fun x => x.1 = m.srcPkg.toNat) then s.nackMsg port m 1
    else if s.regionDown (g.members.getD g.rank (0, 16)).2 then s.nackMsg port m 4
    else if g.broken.isSome then s
    else
      let isData := m.typ = 8
      let item : Contribution :=
        { port := port, rank := h.rank.toNat, hdr := h, data := if isData then data.take (msgBytes m) else [], txn := m.txn,
          pkg := m.srcPkg, srcPort := m.srcPort }
      let held := s.updGroup g.id (fun g =>
        { g with held := g.held ++ [item], coll := g.coll.map (fun k => if k.seq = h.seq.toNat then { k with came := s.time } else k) })
      let full := fun (t : State) => decide (2 ^ 20 < t.heldBytes (g.members.getD g.rank (0, 16)).2)
      let current := g.coll.elim false (fun k => k.seq = h.seq.toNat)
      if current && !(g.coll.elim false (fun k => hdrMatches h k.hdr)) then s.mismatch g.id h.seq.toNat
      else if !current && h.seq.toNat != g.seq then s.mismatch g.id h.seq.toNat
      else if !isData then
        let t := held.ackMsg port m
        match g.coll with
        | some k => if current then t.collPump k.cid else t
        | none => t
      else
        let t := if current then (match g.coll with
            | some k => held.collPump k.cid
            | none => held) else held
        if full t && (t.group? g.id).elim false (fun g => g.held.contains item) then s.nackMsg port m 5 else t

/-- COLL_DATA. -/
def execCollData (port : Nat) (m : Msg) (c : CollHdr) (data : List Byte) (s : State) : Host.Outcome State Fault Refusal :=
  .next (s.receive 8 port m (some c) data (fun s => s.collArrived port m c data))

/-- COLL_ARRIVE. -/
def execCollArrive (port : Nat) (m : Msg) (c : CollHdr) (s : State) : Host.Outcome State Fault Refusal :=
  .next (s.receive 9 port m (some c) [] (fun s => s.collArrived port m c []))

/-! ## Responses to this module's requests -/

/-- The transaction that a response answers: that with the module that sends it and of its number, by the port it arrives at where there are
several. A refusal for want of a path or of a ready port can come from a module on the way: it names its transaction by number alone (12 R294,
log 22). -/
def State.answered (s : State) (port : Nat) (m : Msg) : Option Txn :=
  let all := s.fx.txns.filter (fun t => t.port < 16 && t.num = m.txn.toNat)
  let xs := all.filter (fun t => t.dst = m.srcPkg.toNat)
  let ys := if xs.isEmpty && m.typ = 0x12 && (m.status = 3 || m.status = 4) then all else xs
  match ys.find? (fun t => t.port = port) with
  | some t => some t
  | none => ys.head?

/-- The request of a transaction. -/
def State.reqOf (s : State) (rid : Nat) : Option Req := s.reqs.find? (fun (x : Req) => x.rid = rid)

/-- A request of a thread ends with a fault, on its lowest lane (12 R294). -/
def State.failReq (s : State) (x : Req) (cause : Cause) : State :=
  let l := x.lanes.headD { lane := 0, va := 0, pa := 0, size := 4, data := 0, cmp := 0 }
  (s.endReq x).reqFault x cause l.lane l.va

/-- A context's read found a dead sector that its data came with: killed, or counted (12 R291). -/
def State.remoteDead (s : State) (x : Req) : State × Bool :=
  if s.deadchk x.ctxRef then (s.failReq x .deadRead, true) else (s.countReread x.ctxRef 1, false)

/-- Data of one sector, or of a piece of host memory, reaches the request that asked for it. -/
def State.reqData (s : State) (x : Req) (at_ : Nat) (data : List Byte) : State :=
  let val := fun (l : LaneAcc) => leNat ((data.drop (l.pa - at_)).take l.size)
  match x.kind with
  | .fetch => match s.herd? { core := x.core, pos := x.pos } with
    | some h => if h.pc = x.pc && h.fetched.isNone then
        (s.endReq x).takeWord { core := x.core, pos := x.pos } h (BitVec.ofNat 64 (x.lanes.headD { lane := 0, va := 0, pa := at_, size := 8, data := 0, cmp := 0 }
          |> fun l => leNat ((data.drop (l.pa - at_)).take 8)))
      else s.endReq x
    | none => s.endReq x
  | .atomic aop size => ((s.endReq x).deliver x (atomOlds aop size x.lanes val)).acquireEnd x
  | .write => s.endReq x
  | .add _ _ => s.endReq x
  | .declare _ => s.endReq x
  | _ =>
    let d := setLineBytes 0 at_ (min data.length 256) (leNat data)
    let serve := fun (y : Req) => if y.rid = x.rid then { y with phase := .served (y.lanes.map (fun l => (l.lane, val l))) 0 d } else y
    { s with reqs := s.reqs.map serve }

/-- Data for a command: of a DMA copy it goes to its destination with what else its destination sector gets; of a list or a collective it is
kept until it is used. -/
def State.cmdData (s : State) (cid dst : Nat) (bs : List Byte) : State :=
  match s.cmd? cid with
  | none => s
  | some c =>
    match s.cmdCtx c with
    | none => s
    | some x =>
      if tenantEngine c.opcode = some .dma then s.cmdParts x cid dst bs (s.partsToCome cid c.todo.head?)
      else s.updCmd cid (fun c => { c with parts := c.parts ++ [(dst, bs)] })

/-- A command goes on after something it waited for. -/
def State.cmdOn (s : State) (cid : Nat) : State :=
  match s.cmd? cid with
  | none => s
  | some c =>
    if tenantEngine c.opcode = some .dma then s.pump cid
    else if tenantEngine c.opcode = some .collective then s.collPump cid
    else s

/-- A response with data reaches a command: a poisoned or dead sector ends or counts (11 R265, 06 R149); a `SIGNAL` completes with the value
before it, a `WAIT` tests its word. -/
def State.cmdResponse (s : State) (cid pa : Nat) (dead poison : Bool) (data : List Byte) : State :=
  match s.cmd? cid with
  | none => s
  | some c =>
    match s.cmdCtx c with
    | none => s
    | some x =>
      let at_ := c.field 16 8 % 32
      if c.phase != .active || !s.engineRuns c.q then s
      else if poison then s.stopCmd cid .memUncorrectable pa
      else if dead && s.deadchk x then s.cmdDead x
      else
        let s := if dead then s.countReread x 1 else s
        if c.opcode = 3 then s.doneCmd cid .success (leNat ((data.drop at_).take 8))
        else if c.opcode = 4 then s.waitRead c (leNat ((data.drop at_).take (waitBytes c))) 4000
        else s

/-- Data that a command asked for by sectors arrives. -/
def State.dmaResponse (s : State) (cid pa : Nat) (parts : List (Nat × Nat × Nat)) (dead poison : Bool) (data : List Byte) : State :=
  match s.cmd? cid with
  | none => s
  | some c =>
    match s.cmdCtx c with
    | none => s
    | some x =>
      if !s.engineRuns c.q || s.engineDown c then s
      else if poison then
        (if tenantEngine c.opcode = some .dma then
          match parts with
          | p :: _ => s.cmdPoison x cid p.2.1 p.2.2 pa
          | [] => s.stopCmd cid .memUncorrectable pa
        else s.stopCmd cid .memUncorrectable pa)
      else if dead && s.deadchk x then s.cmdDead x
      else
        let s := if dead then s.countReread x 1 else s
        (parts.foldl (fun s p => s.cmdData cid p.2.1 ((data.drop p.1).take p.2.2)) s).cmdOn cid

/-! ## BAR2 requests of the host on another module (13 R311) -/

/-- A BAR2 operation ends: its entry goes, and what it still has outstanding is for nobody (08 R185). -/
def State.bar2Drop (s : State) (op : Nat) : State :=
  { s with host := { s.host with bar2 := s.host.bar2.filter (fun b => b.id != op) } }.orphanTxns (fun o => match o with
    | .bar2 k _ _ _ => decide (k = op)
    | _ => false)

/-- A piece of a BAR2 read arrives: poisoned, or one more of the completion's data. -/
def State.bar2Data (s : State) (op off : Nat) (bs : List Byte) (poison : Bool) : State :=
  match s.host.bar2.find? (fun b => b.id = op) with
  | none => s
  | some b =>
    let got := b.got ++ [(off, bs)]
    let image := got.foldl (fun acc p => p.2.zipIdx.foldl (fun (acc : List Byte) x => acc.set (p.1 + x.2) x.1) acc) (List.replicate b.len 0)
    if poison then (s.bar2Drop op).emit (.pciePoisoned b.fn)
    else if b.left ≤ 1 then (s.bar2Drop op).emit (.pcieData b.fn image)
    else
      let put := fun (b : Bar2Op) => if b.id = op then { b with got := got, left := b.left - 1 } else b
      { s with host := { s.host with bar2 := s.host.bar2.map put } }

/-- A piece of a BAR2 read fails: Completer Abort. -/
def State.bar2Fail (s : State) (op : Nat) : State :=
  match s.host.bar2.find? (fun b => b.id = op) with
  | none => s
  | some b => (s.bar2Drop op).emit (.pcieCa b.fn)

/-- RD_RSP. -/
def execRdRsp (port : Nat) (m : Msg) (data : List Byte) (s : State) : Host.Outcome State Fault Refusal :=
  .next (s.receive 0x10 port m none data (fun s => match s.answered port m with
  | none => s
  | some t =>
    let s := s.endTxn t.port t.num
    let dead := m.deadMask.getLsbD 0
    let poison := m.poisonMask.getLsbD 0
    let pa := t.dst * 2 ^ 42 + t.addr
    match t.owner with
    | .herd rid => match s.reqOf rid with
      | none => s
      | some x =>
        if poison then s.failReq x .eccUncorrectable
        else if dead && x.kind != .fetch then
          (match s.remoteDead x with
          | (s, true) => s
          | (s, false) => s.reqData x pa data)
        else s.reqData x pa data
    | .cmd cid => s.cmdResponse cid pa dead poison data
    | .dma cid parts => s.dmaResponse cid pa parts dead poison data
    | .bar2 op off lo n => s.bar2Data op off ((data.drop lo).take n) (m.poisonMask != 0)
    | _ => s))

/-- An add of a thread has been accepted: the dead sectors that its acknowledgement names are dead re-reads, or kill its context on the lowest lane
of one (07 R158, log 71). -/
def State.addAccepted (s : State) (x : Req) (t : Txn) (dead : BitVec 64) : State :=
  let on := x.lanes.filter (fun l => dead.getLsbD (l.pa % 2 ^ 42 / 32 - t.addr / 32))
  if dead != 0 && s.deadchk x.ctxRef then s.failReq { x with lanes := if on.isEmpty then x.lanes else on } .deadRead
  else (s.endReq x).countReread x.ctxRef (maskBits 64 dead.toNat).length

/-- A write-like request of this module has been accepted; `dead` are the dead sectors that an add has met. -/
def State.accepted (s : State) (t : Txn) (dead : BitVec 64) : State :=
  match t.owner with
  | .herd rid => match s.reqOf rid with
    | some x => match x.kind with
      | .add _ _ => s.addAccepted x t dead
      | _ => s.endReq x
    | none => s
  | .cmd cid => match s.cmd? cid with
    | some c =>
      if c.opcode = 3 && c.phase = .active && s.engineRuns c.q then s.doneCmd cid .success 0
      else match s.cmdCtx c with
        | some x => if dead != 0 && s.deadchk x then s.cmdDead x else (s.countReread x (maskBits 64 dead.toNat).length).cmdOn cid
        | none => s
    | none => s
  | .coll cid _ _ => s.cmdOn cid
  | .dma cid _ => s.cmdOn cid
  | .bar2 _ _ _ _ => s
  | .bar2Write _ => s.drainPosted
  | .ring _ => s
  | .gone _ _ => s

/-- ACK. -/
def execAck (port : Nat) (m : Msg) (s : State) : Host.Outcome State Fault Refusal :=
  .next (s.receive 0x11 port m none [] (fun s => match s.answered port m with
  | none => s
  | some t => (s.endTxn t.port t.num).accepted t m.deadMask))

/-- A remote operation ends without success: a thread's context is killed, a command or collective ends (12 R294). -/
def State.failTxn (s : State) (t : Txn) (cause : Cause) (st : Status) (detail : Nat) : State :=
  let s := s.endTxn t.port t.num
  match t.owner with
  | .herd rid => match s.reqOf rid with
    | some x => s.failReq x cause
    | none => s
  | .cmd cid => s.stopCmd cid st detail
  | .dma cid _ => s.stopCmd cid st detail
  | .coll cid _ _ => s.stopCmd cid st detail
  | .bar2 op _ _ _ => s.bar2Fail op
  | .bar2Write fn => (s.bar2Lost fn).drainPosted
  | .ring q => s.ringData q t.num none
  | .gone _ _ => s

/-- NACK: the outcome of its reason code; a contribution that found the store full is sent again after 10 µs. -/
def execNack (port : Nat) (m : Msg) (s : State) : Host.Outcome State Fault Refusal :=
  .next (s.receive 0x12 port m none [] (fun s => match s.answered port m with
  | none => s
  | some t =>
    let pa := t.dst * 2 ^ 42 + t.addr
    match m.status.toNat with
    | 1 => s.failTxn t .permission .notPermitted pa
    | 2 => s.failTxn t .addressFault .addressFault pa
    | 5 => match t.owner with
      | .coll _ _ _ =>
        let wait := fun (u : Txn) => if u.port = t.port && u.num = t.num then { u with resendAt := some (s.time + 10000) } else u
        { s with fx := { s.fx with txns := s.fx.txns.map wait } }
      | _ => s.discardMsg port
    | _ => s.failTxn t .addressFault .linkDown t.dst))

/-- PENDING: the transaction's timeout starts again; a command's that has waited 10 s in total ends with `MEM_THERMAL` (12 R293). -/
def execPending (port : Nat) (m : Msg) (s : State) : Host.Outcome State Fault Refusal :=
  .next (s.receive 0x13 port m none [] (fun s => match s.answered port m with
  | none => s
  | some t =>
    let ofCmd := match t.owner with
      | .herd _ => false
      | .bar2 _ _ _ _ => false
      | .bar2Write _ => false
      | .gone _ _ => false
      | _ => true
    if ofCmd && t.first + 10000000000 ≤ s.time then s.failTxn t .addressFault .memThermal 0
    else
      let restart := fun (u : Txn) => if u.port = t.port && u.num = t.num then { u with since := s.time } else u
      { s with fx := { s.fx with txns := s.fx.txns.map restart } }))

/-- PENDING_TIMER: a request held for 1 ms on a derated or held home is answered with `PENDING`, and again every 1 ms. -/
def execPendingTimer (port : Nat) (srcPkg : BitVec 12) (txn : BitVec 14) (s : State) : Host.Outcome State Fault Refusal :=
  .next (s.clockRow (match s.fx.inbound.find? (fun i => i.port = port && i.msg.srcPkg = srcPkg && i.msg.txn = txn) with
  | none => s
  | some i =>
    if (2 : BitVec 3) ≤ (s.stack (s.homeRegion i.msg.addr.toNat)).step && i.lastPending + 1000000 ≤ s.time then
      let s := s.respond port i.msg (Msg.to 0x13 0) []
      let mark := fun (j : Inbound) => if j = i then { j with lastPending := s.time } else j
      { s with fx := { s.fx with inbound := s.fx.inbound.map mark } }
    else s))

/-- TXN_TIMEOUT: no response within `TXN_TIMEOUT_MS`. A contribution that waits to be sent again is no outstanding transaction. -/
def execTxnTimeout (port txn : Nat) (s : State) : Host.Outcome State Fault Refusal :=
  .next (s.clockRow (match s.fx.txns.find? (fun t => t.port = port && t.num = txn) with
  | none => s
  | some t =>
    if port < 16 && t.resendAt.isNone && t.since + s.fx.txnTimeout.toNat * 1000000 ≤ s.time then
      s.failTxn t .addressFault .timeout ((s.time - t.first) / 1000000)
    else s))

/-! ## Beacons and aborts (12 R297, R298) -/

/-- A member of a group sent the message. -/
def State.fromMember (s : State) (m : Msg) : Option Group :=
  (s.group? m.groupId.toNat).bind (fun g => if g.members.any (fun x => x.1 = m.srcPkg.toNat) then some g else none)

/-- PROGRESS_HOLD: the timeout of the collective of that `SEQ` starts again; any other is ignored. -/
def execProgressHold (port : Nat) (m : Msg) (seq : Word) (rank : BitVec 16) (s : State) : Host.Outcome State Fault Refusal :=
  .next (s.receive 0x21 port m (some (CollHdr.seqRank seq.toNat rank.toNat)) [] (fun s => match s.fromMember m with
  | none => s
  | some g => s.updColl g.id (fun k => if k.seq = seq.toNat then { k with restart := s.time, beacons := true } else k)))

/-- PROGRESS_HOLD_BEACON: a derated or held region tells the other members of each group whose collective its engine runs, every 500 µs. -/
def execProgressHoldBeacon (region : Nat) (s : State) : Host.Outcome State Fault Refusal :=
  .next (if s.running && (2 : BitVec 3) ≤ (s.stack region).step then
    s.fx.groups.foldl (fun s g => match g.coll with
      | some k =>
        if (g.members.getD g.rank (0, 16)).2 = region && g.beaconAt + 500000 ≤ s.time then
          (s.toMembers g 0x21 k.seq (s.stack region).step.toNat).updGroup g.id (fun g => { g with beaconAt := s.time })
        else s
      | none => s) s
    else s)

/-- PEER_ABORT: the group breaks, and a collective in progress completes with `PEER_ABORT`, naming the sender. -/
def execPeerAbort (port : Nat) (m : Msg) (seq : Word) (rank : BitVec 16) (s : State) : Host.Outcome State Fault Refusal :=
  .next (s.receive 0x22 port m (some (CollHdr.seqRank seq.toNat rank.toNat)) [] (fun s => match s.fromMember m with
  | none => s
  | some g =>
    let t := s.dropColl g.id m.srcPkg.toNat .peerAbort m.srcPkg.toNat
    g.coll.elim t (fun k => t.finishCmd k.cid)))

end Sys2Proof.Machine
end

