-- ==== Sys2Proof/Machine/Hbm.lean ====
section
/-! DEFINITION. The HBM stacks: refresh, patrol scrub, thermal steps and the end of commands that wait on a held stack, training and the
wipe (11 R264 to R273, 15 R365). -/
namespace Sys2Proof.Machine

/-! ## Bank rows (06 R128) -/

/-- The launch whose kernel a request belongs to uses the HBM of its home. -/
def State.useKernel (s : State) (x : Req) : State :=
  match (s.slot? { core := x.core, slot := x.slot }).bind (fun y => y.kernel) with
  | some k => s.noteRegion k.cid (x.line * 256)
  | none => s

/-- What other modules and the host wait for at the homes goes on. -/
def State.resume (s : State) : State := (s.resumeInbound s.fx.inbound).drainPosted

/-- Run a request of one kind at its bank. -/
def State.bankRow (s : State) (rid choice : Nat) (err : LlcErr) (ok : ReqKind → Bool) : State :=
  match s.queued? rid with
  | some x =>
    if !s.running || !ok x.kind || (!s.bankq.contains rid && !s.pathClear x) then s
    else if !s.homeUp x.line then s.downReq x
    else ((s.useKernel x).llcErr x err).bankArrive x choice
  | none => s

/-- BANK_ACCESS: a read, write or atomic, of a herd or of a matrix operation. -/
def execBankAccess (rid choice : Nat) (err : LlcErr) (s : State) : Host.Outcome State Fault Refusal :=
  .next ((s.bankRow rid choice err (fun k => match k with
    | .read => true
    | .operand _ => true
    | .write => true
    | .atomic _ _ => true
    | _ => false)).resume)

/-- ADD_REQUEST. -/
def execAddRequest (rid choice : Nat) (err : LlcErr) (s : State) : Host.Outcome State Fault Refusal :=
  .next ((s.bankRow rid choice err (fun k => match k with
    | .add _ _ => true
    | _ => false)).resume)

/-- DEAD_DECLARATION. -/
def execDeadDeclaration (rid : Nat) (s : State) : Host.Outcome State Fault Refusal :=
  .next ((s.bankRow rid 0 .none (fun k => match k with
    | .declare _ => true
    | _ => false)).resume)

/-! ## Wipes -/

/-- An HBM address whose home is region r. -/
def State.homedHbm (s : State) (r a : Nat) : Bool := s.inHbm a && s.homeRegion a = r

/-- Wipe the HBM of region r to zero with every marker cleared (11 R271). -/
def State.wipeHbm (s : State) (r : Nat) : State :=
  let here := fun a => s.homedHbm r a
  { s.updStack r (fun k => { k with wq := [], scrubs := [], rows := [] }) with
      back := spWipe here s.back, deadMarks := s.deadMarks.filter (fun sec => !here (sec * 32)),
      poisonMarks := s.poisonMarks.filter (fun sec => !here (sec * 32)) }

/-- Sector index within its pseudo-channel (11 R276). -/
def State.pcSector (s : State) (sec : Nat) : Nat := s.rowSlot (sec * 32) * 64 + sec * 32 % 2048 / 32

/-- Bit n of the PRBS31 sequence x^31 + x^28 + 1 that starts from a 31-bit register (PRESUMED, log 99). -/
def prbsBit (reg : Nat) : Nat → Bool
  | 0 => bit reg 30
  | n + 1 => prbsBit (reg * 2 % 2 ^ 31 + if bit reg 30 != bit reg 27 then 1 else 0) n

/-- The byte of a pattern at a place of a channel: zeros, ones, PRBS31 from the seed and the channel number, or one whose bits the spec does not
give (11 R274, log 7). -/
def rambleByte (r : Rambler) (ch sec o : Nat) : Byte :=
  match r.pattern with
  | 0 => 0x00
  | 1 => 0xFF
  | 4 => BitVec.ofNat 8 (((List.range 8).map (fun i =>
      if prbsBit ((r.seed.toNat ^^^ ch) % 2 ^ 31) (Config.prbsPlace sec o i) then 2 ^ i else 0)).sum)
  | p => Config.ramblePattern p sec o

/-- The named channels are wiped, with every marker on them. -/
def State.wipeChannels (s : State) (mask : Nat) : State :=
  let here := fun a => s.onChannels mask a
  { s with back := spWipe here s.back, deadMarks := s.deadMarks.filter (fun sec => !here (sec * 32)),
           poisonMarks := s.poisonMarks.filter (fun sec => !here (sec * 32)),
           hbm := s.hbm.map (fun k => { k with
             wq := k.wq.filter (fun sec => !here (sec * 32)), scrubs := k.scrubs.filter (fun r => !here (r.sec * 32)) }) }

/-- Channels of a stack. -/
def stackChannels (stack : Nat) : BitVec 512 := BitVec.ofNat 512 ((2 ^ 32 - 1) * 2 ^ (32 * stack))

/-- A sector of the DRAM does not hold the pattern of a run, or reads as uncorrectable. -/
def State.rambleDiffers (s : State) (r : Rambler) (sec : Nat) : Bool :=
  s.poisonMarks.contains sec
    || !(List.range 32).all (fun o => spGet s.back (sec * 32 + o) = rambleByte r (s.channelOf (sec * 32)) (s.pcSector sec) o)

/-- Sectors of a channel that each pass of `OP` 0x1 finds different from the pattern, in address order; `OP` 0x0 finds what it wrote, and `OP` 0x2
compares nothing. -/
def State.rambleFinds (s : State) (r : Rambler) (ch : Nat) : List Nat :=
  if r.op = 1 then (List.range (s.hbmBytes / 32)).filter (fun sec => s.channelOf (sec * 32) = ch && s.rambleDiffers r sec) else []

/-- A stack that enters step 2 during a Rambler run stops its named channels at once, and they are wiped (R275). What they have found is kept. -/
def State.stopRambler (s : State) (stack : Nat) : State :=
  match s.rambler with
  | none => s
  | some r =>
    let m := r.channels &&& stackChannels stack &&& ~~~r.stopped
    let found := (maskBits 512 m.toNat).map (fun ch => (ch, s.rambleFinds r ch))
    ({ s with rambler := some { r with stopped := r.stopped ||| m, found := r.found ++ found } }).wipeChannels m.toNat

/-- Wipe the LLC half and the Hamper ways of region r: every tag, every line, the poison mode (14 R328, 16 R371). -/
def State.wipeHalf (s : State) (r : Nat) : State :=
  let here := fun a => s.homedHbm r a || (inWindow a && windowSlot a = r)
  { s with mem := spWipe here s.mem, llc := s.llc.filter (fun l => !(s.homeRegion (l.line * 256) = r)),
           poisonMarks := s.poisonMarks.filter (fun sec => !(inWindow (sec * 32) && windowSlot (sec * 32) = r)),
           poisonMode := s.poisonMode &&& ~~~(1 <<< r : BitVec 16), replay := s.replay.filter (fun p => !(s.homeRegion (p.line * 256) = r)),
           fillHold := s.fillHold.filter (fun p => !(s.homeRegion (p.line * 256) = r)) }

/-- Records and events that waited, for space or for a line of a table, are written as far as they go (09 R210, R408). -/
def State.drainRecords (s : State) : State :=
  let waiting := s.insts.flatMap (fun i => (i.queues.filter (fun q => !q.held.isEmpty)).map (fun q => QRef.tenant i.id q.num))
  let s := if s.mg.queue.held.isEmpty then s else s.drainHeld .admin s.mg.queue.held
  (waiting.foldl (fun s q => s.drainHeld q ((s.queue? q).elim [] (fun x => x.held))) s).drainEvents

/-- HBM_READ_COMPLETE: the line enters its half, and what waited for it is performed in order, then what other
modules' requests that wait need no more; an entry is free for another miss. Records that waited for a line of a table are written (09 R408). -/
def execHbmReadComplete (line choice : Nat) (ecc : List Ecc) (s : State) : Host.Outcome State Fault Refusal :=
  .next (match s.hbmEntries.find? (fun e => e.line = line) with
  | none => s
  | some e =>
    if !s.running || !s.canIssue e.read || s.allocHeld e.inst line choice then s
    else
      let xs := s.waitersOf e
      let s := (List.range 8).foldl (fun s i => s.hbmSector (line * 8 + i) (ecc.getD i .clean)) (s.openRow (line * 256))
      let s := s.fillLine e.inst line choice e.stream
      let s := { s with hbmEntries := s.hbmEntries.filter (fun e => e.line != line) }.countEvent e.inst 6 (80 + s.homeRegion (line * 256)) 256
      ((s.serveWaiters line choice [] xs).fillWindows.resume).drainRecords)

/-- PER_BANK_REFRESH: no stack in self-refresh is refreshed by its controller. It closes the bank's row. A pseudo-channel has 64 banks (PRESUMED, log
93: the spec gives no number). -/
def execPerBankRefresh (stack pc bank : Nat) (s : State) : Host.Outcome State Fault Refusal :=
  .next (if pc < 64 && bank < 64 && s.outOfCold && (s.stack stack).trained && (s.stack stack).step != 3 then
      s.updStack stack (fun k => { k with refreshed := s.time, rows := k.rows.filter (fun p => p.1 != 64 * pc + bank) })
    else s)

/-- What scrub finds in a sector: one whose write is queued is served from the write queue (R262); a corrected byte counts, and the sector or its
marker is queued for rewriting; an uncorrectable sector, or a parity error that its retry meets again, counts and is rewritten as a poison marker; a
poison marker, and a sector of a failed pseudo-channel, read as uncorrectable (R264 to R267, R273). -/
def State.scrubSector (s : State) (sector : Nat) (ecc : Ecc) : State :=
  if s.pcFailed (sector * 32) then s.uncorrectable sector
  else
    let e := if s.inWq sector then .clean else ecc
    if e = .uncorrectable || e = .parityFailed then ((s.uncorrectable sector).putPoisonMark sector).queueWrite sector
    else
      let s := if e = .corrected then s.corrected sector else s
      if s.poisonMarks.contains sector then s.uncorrectable sector else s

/-- Ask for a scrub read of a sector, unless it is asked for (11 R261, R267). -/
def State.askScrub (s : State) (stack sector : Nat) : State :=
  if (s.stack stack).scrubs.any (fun r => r.sec = sector) then s.fillWindows
  else
    let r : HbmRead := { scrub := true, sec := sector, cls := 3, since := s.time, entered := none }
    (s.updStack stack (fun k => { k with scrubs := k.scrubs ++ [r] })).fillWindows

/-- PATROL_SCRUB: the read of a sector is asked for, and made once the controller can issue it. -/
def execPatrolScrub (stack sector : Nat) (ecc : Ecc) (s : State) : Host.Outcome State Fault Refusal :=
  .next (if s.scrubEn && s.outOfCold && (s.stack stack).trained && (s.stack stack).step != 3 && s.homedHbm stack (sector * 32) then
      let s := s.askScrub stack sector
      match (s.stack stack).scrubs.find? (fun r => r.sec = sector) with
      | some r =>
        if s.canIssue r then
          let s := (s.openRow (sector * 32)).updStack stack (fun k => { k with scrubs := k.scrubs.filter (fun r => r.sec != sector), scrubbed := s.time })
          (s.scrubSector sector ecc).fillWindows
        else s
      | none => s
    else s)

/-! ## Thermal steps (11 R269, R270) -/

/-- Step that a stack takes on a reading: entry above 85, 95, 105 °C; exit at or below 80, 90, 100 °C; from step 3 always to step 2 first. -/
def hbmStep (step t : Nat) : Nat :=
  let up := if 105 < t then 3 else if 95 < t then 2 else if 85 < t then 1 else 0
  if step < up then up
  else if step = 3 then (if t ≤ 100 then 2 else 3)
  else if t ≤ 80 then 0
  else if t ≤ 90 then min step 1
  else step

/-- A trip (15 R365): `THERMTRIP_N` is asserted, the clocks stop, counter 5 counts; it lasts until POR. -/
def State.thermTrip (s : State) : State :=
  if s.pw.tripped then s
  else
    let s := s.countReset 5
    { s with pw := { s.pw with tripped := true }, pins := { s.pins with thermtripN := false, modPwrgd := false }, clk := { s.clk with stopped := true } }

/-- Ranges of a command that moves data, as its packet names them. -/
def Cmd.ranges (c : Cmd) : List (Nat × Nat) :=
  if c.opcode = 0x18 then [(c.field 16 8, c.field 32 8), (c.field 24 8, c.field 32 8)]
  else if c.opcode = 0x1A then (stridedRows c).flatMap (fun r => [(r.1, c.field 32 8), (r.2, c.field 32 8)])
  else if 0x20 ≤ c.opcode && c.opcode ≤ 0x24 then [(c.field 32 8, c.collBytes), (c.field 40 8, c.collBytes)]
  else [(c.field 16 8, c.field 24 8)]

/-- A DMA or cache command or a collective, the commands that R270 ends. -/
def Cmd.endsOnHold (c : Cmd) : Bool := isDmaOp c.opcode || c.opcode = 0x28 || c.opcode = 0x29 || (0x20 ≤ c.opcode && c.opcode ≤ 0x24)

/-- A command that has begun waits for a table line of a held stack. -/
def State.tableHeld (s : State) (c : Cmd) (inst : Nat) : Bool :=
  c.ranges.any (fun r => (pagesOf r.1 r.2).any (fun p => match s.cmdTo inst c.since .read p.1 with
    | .ask q => s.xlatHeld q
    | _ => false))

/-- A stack has been held, or is held no longer: the commands note from when they wait for it. -/
def State.noteHolds (s : State) : State :=
  s.cmds.foldl (fun s c => match s.cmdCtx c with
    | none => s
    | some x =>
      if !c.endsOnHold then s
      else match c.phase with
        | .begun => s.markHeld c.cid (s.tableHeld c x.inst)
        | .active => s.markHeld c.cid (if (s.collOf c.cid).isSome then s.collHeld c.cid else s.pieceHeld c x.inst)
        | _ => s) s

/-- A stack leaves step 3: its write queues drain where they reach their mark, and what waited goes on (11 R262, R270). -/
def State.leaveHold (s : State) (stack : Nat) : State :=
  ((s.stack stack).wq.foldl (fun s sec => s.drainWq (sec * 32)) s).resume

/-- HBM_TEMP_READ: the reading is kept, the step follows it and posts its event, and a reading above 110 °C trips. A stack that is held is in
self-refresh, with every row closed (11 R260, R269). -/
def execHbmTempRead (stack : Nat) (tempC : BitVec 8) (s : State) : Host.Outcome State Fault Refusal :=
  .next (if 16 ≤ stack || !s.outOfCold then s
    else
      let old := (s.stack stack).step.toNat
      let new := hbmStep old tempC.toNat
      let enters := new = 3 && old != 3
      let s := s.updStack stack (fun k => { k with
        tempC := tempC, step := BitVec.ofNat 3 new, heldSince := if enters then s.time else k.heldSince, rows := if enters then [] else k.rows })
      let s := if new = old then s
        else s.event 0x05 (stack + new * 2 ^ 8 + (if old < new then 2 ^ 12 else 0) + tempC.toNat * 2 ^ 16)
      let s := if 2 ≤ new then s.noteHot stack else s
      let s := if 2 ≤ new && old < 2 then s.stopRambler stack else s
      let s := if enters || (old = 3 && new != 3) then s.noteHolds else s
      let s := if old = 3 && new != 3 then s.leaveHold stack else s
      if 110 < tempC.toNat then s.thermTrip else s)

/-! ## Waiting on a held stack (11 R270) -/

/-- 10 s in ns. -/
def tenSec : Nat := 10000000000

/-- THERMAL_HOLD_EXPIRY: a DMA or cache command, or a collective, that has waited for a held stack for 10 s ends with `MEM_THERMAL`; a collective
breaks its group as well. -/
def execThermalHoldExpiry (cid : Nat) (s : State) : Host.Outcome State Fault Refusal :=
  .next (match s.cmd? cid with
  | none => s
  | some c =>
    if s.running && c.endsOnHold && c.heldFrom.elim false (fun t => decide (t + tenSec ≤ s.time)) then s.stopCmd cid .memThermal 0 else s)

/-! ## Training (11 R271 to R273) -/

/-- HBM_READY: training and the wipe of a stack have finished. A reuse of the sticky settings keeps the recorded masks; a full training
records its own. Each failed pseudo-channel posts a record. -/
def execHbmReady (stack : Nat) (reused : Bool) (pcFail : Word64) (dq ca : BitVec 8) (s : State) : Host.Outcome State Fault Refusal :=
  .next (if 16 ≤ stack || !s.outOfCold || s.rs.warm || s.regionHold stack || (s.stack stack).trained || (reused && !(s.stack stack).sticky) then s
    else
      let put := fun (k : Stack) =>
        if reused then { k with trained := true }
        else { k with trained := true, sticky := true, pcFail := pcFail, dq := dq, ca := ca }
      let s := (s.updStack stack put).wipeHbm stack
      if reused then s
      else (maskBits 64 pcFail.toNat).foldl (fun s p => s.error 0x09 2 (0x40 + stack) p) s)

end Sys2Proof.Machine
end

