-- ==== Sys2Proof/Machine/FabricLink.lean ====
section
/-! DEFINITION. The ports: link-level retry, training, heartbeats, the loss of a link, the package ID (12 R279 to R286, R295, R296,
R302). -/
namespace Sys2Proof.Machine

/-! ## State of a port -/

/-- Code of `FX_PORT_STATUS.STATE`. -/
def PortState.code : PortState → Nat
  | .down => 0
  | .up => 1
  | .live => 2
  | .duplicate => 3

/-- A port exists, and its die and the module-level blocks are out of reset. -/
def State.portUp (s : State) (p : Nat) : Bool :=
  decide (p < 16) && s.outOfCold && (s.rs.boot = .starting || s.rs.boot = .ready) && !s.rs.warm && !s.rs.dieHeld.getLsbD (dieOfPort p)

/-- A port is ready (R286). -/
def State.portReady (s : State) (p : Nat) : Bool :=
  s.fx.valid && s.portUp p && (List.range 16).all (fun r => s.regionHold r || (s.stack r).trained)

/-- Post a link change (09 R226, event 0x07). -/
def State.linkEvent (s : State) (p reason : Nat) : State :=
  let x := s.port p
  s.event 0x07 (p + x.st.code * 2 ^ 4 + (if x.width2 then 2 ^ 6 else 0) + (if x.half then 2 ^ 7 else 0) + reason * 2 ^ 8
    + x.peerPkg.toNat * 2 ^ 12)

/-- Nothing sent or received yet on a port, and nothing buffered. -/
def Port.cleared (x : Port) : Port :=
  { x with rxNext := 0, txNext := 0, lastAck := 0, resends := [], discards := [], retraining := false, credits := fullCredits,
           rx := List.replicate 9 0, owed := List.replicate 9 0, outq := [], heard := false }

/-- A port loses what its receive pools hold: the messages that wait at other ports to be forwarded. What they have passed on to homes is
performed, and its answers have nowhere to go; so is a contribution that a group holds. -/
def State.dropReceived (s : State) (p : Nat) : State :=
  let keep := fun (o : OutMsg) => o.back.elim true (fun b => decide (b.1 ≠ p))
  let homeless := fun (h : Contribution) => if h.port = p then { h with port := 16 } else h
  { s with fx := { s.fx with ports := s.fx.ports.map (fun x => { x with outq := x.outq.filter keep }),
                             groups := s.fx.groups.map (fun g => { g with held := g.held.map homeless }),
                             inbound := s.fx.inbound.map (fun i => if i.port = p then { i with port := 16 } else i) } }

/-- Every collective with a member that no live path reaches ends with `LINK_DOWN` (07 R175). -/
def State.failUnreachable (s : State) : State :=
  s.fx.groups.foldl (fun s g => match g.coll with
    | none => s
    | some k => match s.unreachable g with
      | some pkg => (s.failColl g.id s.fx.pkgId.toNat .linkDown pkg).finishCmd k.cid
      | none => s) s

/-- A message that waited to be forwarded by a port that is lost is forwarded by another path, or refused (R289). -/
def State.forwardAgain (s : State) (o : OutMsg) : State :=
  match o.back with
  | some b => s.forward b.1 { o.m with hops := o.m.hops - 1 } o.coll o.data
  | none => s

/-- The link of a port is lost (R296): what it buffers is dropped, its outstanding transactions end, and it is at step 1 of its bring-up. A refused
contribution that waits to be sent again is not outstanding. -/
def State.linkLost (s : State) (p reason : Nat) : State :=
  let waiting := (s.port p).outq.filter (fun o => o.back.elim true (fun b => decide (b.1 ≠ p)))
  let s := s.updPort p (fun x => { x.cleared with st := .down, training := false, losses := satInc x.losses 1 })
  let s := s.linkEvent p reason
  let s := s.dropReceived p
  let s := ((s.portTxns p).filter (fun t => t.resendAt.isNone)).foldl (fun s t =>
    if s.fx.txns.any (fun u => u.port = t.port && u.num = t.num) then s.failTxn t .addressFault .linkDown t.dst else s) s
  (waiting.foldl State.forwardAgain s).failUnreachable

/-- The first of a number and the two after it that is neither of two numbers. -/
def otherThan (v a b : Word) : Word := if v != a && v != b then v else if v + 1 != a && v + 1 != b then v + 1 else v + 2

/-- A new incarnation, different from the one before it and from the one that the peer was last sent (R295, R301). -/
def State.newInc (s : State) (p : Nat) : State :=
  let f := s.free
  f.2.updPort p (fun x => { x with inc := otherThan (BitVec.ofNat 32 f.1) x.inc x.sentInc })

/-- With `READY` on both ends a port becomes `LIVE`. -/
def State.tryLive (s : State) (p : Nat) : State :=
  let x := s.port p
  if x.st = .up && x.heard && x.peerReady && s.portReady p then (s.updPort p (fun x => { x with st := .live })).linkEvent p 2 else s

/-! ## Flits (R281 to R283) -/

/-- One second in ns. -/
def oneSec : Nat := 1000000000

/-- Discard a flit and ask for replay from the one expected. A NAK is sent also where the replay buffer is full (DESIGN CHOICE, log 18). -/
def State.discardFlit (s : State) (p : Nat) : State :=
  let s := s.updPort p (fun x =>
    { x with crcErr := satInc x.crcErr 1, discards := s.time :: x.discards.filter (fun t => decide (s.time < t + oneSec)) })
  (s.updPort p (fun x => x.sent 1)).emit (.linkNak p (s.port p).nakFlit)

/-- Flits up to the acknowledged one leave the replay buffer; an acknowledgement of nothing that is outstanding changes nothing. `resends` keeps,
for each replay, the number after its last flit: as many replays as are left have resent the oldest flit that is not acknowledged. -/
def Port.acked (x : Port) (ack : BitVec 16) : Port :=
  let n := (ack + 1 - x.lastAck).toNat
  if n = 0 || x.unacked < n then x
  else { x with lastAck := ack + 1, resends := x.resends.filter (fun e => decide (0 < (e - (ack + 1)).toInt)) }

/-- Credits come back, never more than the peer's pool. -/
def Port.credited (x : Port) (f : Flit) : Port :=
  let k := f.crPool.toNat
  { x with credits := updAt x.credits k (fun c => min (c + f.crCount.toNat) (fullCredits.getD k 0)) }

/-- Resend every flit that is not acknowledged, in order. -/
def State.replayPort (s : State) (p : Nat) : State :=
  if (s.port p).unacked = 0 then s
  else
    let s := s.updPort p (fun x => { x with replays := satInc x.replays 1, resends := x.resends ++ [x.txNext] })
    s.emit (.replayFrom p (s.port p).lastAck.toNat)

/-- A flit uses no reserved code, pool or bit (R280, R282). -/
def flitLegal (f : Flit) : Bool :=
  f.ftype != 3 && f.reserved = 0 && decide (f.pool.toNat ≤ 8) && (f.crCount = 0 || decide (f.crPool.toNat ≤ 8))

/-- A flit with data or a message takes a buffer of its pool until its message leaves it (R282). -/
def Port.buffered (x : Port) (f : Flit) : Port :=
  if f.ftype = 1 || f.ftype = 2 then { x with rx := updAt x.rx f.pool.toNat (fun n => n + 1) } else x

/-- FLIT_RECEIVE: a flit that is not intact or not the next is discarded; one with a reserved code, pool or bit is received, what it carries is
discarded (R291), and its buffer is free again (R282). -/
def execFlitReceive (port : Nat) (flit : Flit) (s : State) : Host.Outcome State Fault Refusal :=
  .next (s.clockRow (
    let x := s.port port
    if !s.portUp port || x.st = .down || x.retraining then s
    else if !flitIntact flit || flit.fseq != x.rxNext then s.discardFlit port
    else
      let s := s.updPort port (fun x => (({ x with rxNext := x.rxNext + 1 }.acked flit.ack).credited flit).buffered flit)
      let s := if flitLegal flit then s
        else (s.discardMsg port).freeRx port flit.pool.toNat (if flit.ftype = 1 || flit.ftype = 2 then 1 else 0)
      (if flit.nak then s.replayPort port else s).drainOut port))

/-- FAST_RETRAIN: a flit resent 8 times without acknowledgement, or more than 1,000 discarded flits in 1 s. -/
def execFastRetrain (port : Nat) (s : State) : Host.Outcome State Fault Refusal :=
  .next (s.clockRow (
    let x := s.port port
    let recent := (x.discards.filter (fun t => decide (s.time < t + oneSec))).length
    if s.portUp port && x.st != .down && !x.retraining && (8 ≤ x.resends.length || 1000 < recent) then
      s.updPort port (fun x => { x with retraining := true, discards := [] })
    else s))

/-- FAST_RETRAIN_COMPLETE: the mode is kept, the spare may have been swapped in, and what was not acknowledged is resent; or the link is
lost. -/
def execFastRetrainComplete (port : Nat) (ok : Bool) (spareFor : BitVec 3) (s : State) : Host.Outcome State Fault Refusal :=
  .next (s.clockRow (
    let x := s.port port
    if !s.portUp port || !x.retraining then s
    else if ok then
      let spare := fun (x : Port) => if x.spareFor = 0 && !x.width2 && spareFor.toNat ≤ 4 then spareFor else x.spareFor
      let s := s.updPort port (fun x => { x with retraining := false, resends := [], spareFor := spare x })
      (s.replayPort port).drainOut port
    else s.linkLost port 4))

/-! ## Heartbeats (R285, R295, R296) -/

/-- HEARTBEAT: the peer's state is kept; another incarnation than before loses the link; this module's own package ID marks a duplicate. -/
def execHeartbeat (port : Nat) (b : Beat) (s : State) : Host.Outcome State Fault Refusal :=
  .next (s.clockRow (
    let x := s.port port
    if !s.portUp port || x.st = .down || x.retraining then s
    else
      let changed := x.heard && x.peerInc != b.inc
      let s := s.updPort port (fun x =>
        { x with peerPkg := b.pkg, peerValid := b.valid, peerReady := b.ready, peerPort := b.port, peerInc := b.inc,
                 lastBeat := s.time, heard := true })
      if changed then s.linkLost port 5
      else if s.fx.valid && b.valid && b.pkg = s.fx.pkgId then
        (if x.st = .duplicate then s
         else ((s.updPort port (fun x => { x with st := .duplicate })).linkEvent port 7).error 0x0E 3 (0x60 + port) 1)
      else
        let s := s.updPort port (fun x => if x.st = .duplicate then { x with st := .up } else x)
        s.tryLive port))

/-- HEARTBEAT_SEND. -/
def execHeartbeatSend (port : Nat) (s : State) : Host.Outcome State Fault Refusal :=
  .next (s.clockRow (
    let x := s.port port
    if s.portUp port && x.st != .down && !x.retraining && x.unacked < 4096 then
      let b : Beat := { pkg := s.fx.pkgId, valid := s.fx.valid, ready := s.portReady port, port := BitVec.ofNat 4 port, inc := x.inc }
      ((s.updPort port (fun x => { x.sent 1 with sentBeat := s.time, sentInc := x.inc })).emit (.beat port (x.link 0 0 []) b)).tryLive port
    else s))

/-- HEARTBEAT_LOSS: 300 µs without an intact heartbeat. -/
def execHeartbeatLoss (port : Nat) (s : State) : Host.Outcome State Fault Refusal :=
  .next (s.clockRow (
    let x := s.port port
    if s.portUp port && x.st != .down && x.lastBeat + 300000 ≤ s.time then s.linkLost port 3 else s))

/-! ## Training (R279, R283, R284) -/

/-- PORT_SIGNAL_DETECT: signal on at least two lanes starts the training of an enabled port. -/
def execPortSignalDetect (port lanes : Nat) (s : State) : Host.Outcome State Fault Refusal :=
  .next (s.clockRow (
    let x := s.port port
    if s.portUp port && x.en && x.st = .down && !x.training && 2 ≤ lanes then
      s.updPort port (fun x => { x with training := true, trainSince := s.time })
    else s))

/-- `SPARE_FOR` of a ×4 training, where the lanes that meet the limit allow one. -/
def fourLanes (good : BitVec 5) : Option (BitVec 3) :=
  match (List.range 4).filter (fun l => !good.getLsbD l) with
  | [] => some 0
  | [l] => if good.getLsbD 4 then some (BitVec.ofNat 3 (l + 1)) else none
  | _ => none

/-- At least two active lanes meet the limit. -/
def twoLanes (good : BitVec 5) : Bool := decide (2 ≤ ((List.range 4).filter (fun l => good.getLsbD l)).length)

/-- The mode of R279 as (×2, half rate, `SPARE_FOR`): the first of ×4 full, ×4 half, ×2 full, ×2 half that qualifies. -/
def portMode (cap : Bool) (full half : BitVec 5) : Option (Bool × Bool × BitVec 3) :=
  match (if cap then none else fourLanes full), fourLanes half with
  | some k, _ => some (false, false, k)
  | none, some k => some (false, true, k)
  | none, none => if !cap && twoLanes full then some (true, false, 0) else if twoLanes half then some (true, true, 0) else none

/-- PORT_TRAINING_COMPLETE: the mode is chosen and the port is `UP`, with a new incarnation; without a mode it stays down. -/
def execPortTrainingComplete (port : Nat) (goodFull goodHalf : BitVec 5) (s : State) : Host.Outcome State Fault Refusal :=
  .next (s.clockRow (
    let x := s.port port
    if !s.portUp port || !x.en || !x.training then s
    else match portMode x.rateCap goodFull goodHalf with
      | none => s
      | some (w, h, k) =>
        let s := s.updPort port (fun x =>
          { x.cleared with st := .up, training := false, width2 := w, half := h, spareFor := k, lastBeat := s.time })
        (s.newInc port).linkEvent port 1))

/-- PORT_TRAINING_RESTART: not `UP` 100 ms after step 2, the port is at step 1 again. -/
def execPortTrainingRestart (port : Nat) (s : State) : Host.Outcome State Fault Refusal :=
  .next (s.clockRow (
    let x := s.port port
    if s.portUp port && x.training && x.trainSince + 100000000 ≤ s.time then s.updPort port (fun x => { x with training := false }) else s))

/-! ## Registers with behaviour of their own -/

/-- The manager writes a register of PF BAR0. -/
def State.managerWrites (s : State) (p : Party) : Bool := s.running && p = .manager

/-- PORT_ENABLE: `EN` is set, and the port is at step 1 of its bring-up. -/
def execPortEnable (p : Party) (port : Nat) (s : State) : Host.Outcome State Fault Refusal :=
  .next (if s.managerWrites p then s.updPort port (fun x => { x with en := true }) else s)

/-- PORT_DISABLE: `EN` is cleared, and a link that is up is lost. -/
def execPortDisable (p : Party) (port : Nat) (s : State) : Host.Outcome State Fault Refusal :=
  .next (if !s.managerWrites p || !(s.port port).en then s
    else
      let s := s.updPort port (fun x => { x with en := false, training := false })
      if (s.port port).st = .down then s else s.linkLost port 6)

/-- PKG_ID_SET: the write that sets `VALID` sets the package ID and locks it. -/
def execPkgIdSet (p : Party) (id : BitVec 12) (s : State) : Host.Outcome State Fault Refusal :=
  .next (if s.managerWrites p && !s.fx.valid then { s with fx := { s.fx with pkgId := id, valid := true } } else s)

end Sys2Proof.Machine
end

