-- ==== Sys2Proof/Machine/ManagerMem.lean ====
section
/-! DEFINITION. What the manager commands share: their addresses (09 R226 to R228) and the fields of the records that they name. -/
namespace Sys2Proof.Machine

/-- A begun command of the admin queue with an opcode, on a module that runs. -/
def State.mgrRow (s : State) (cid op : Nat) (go : Cmd → State) : State :=
  match s.begun? cid op with
  | some c => if s.running then go c else s
  | none => s

/-- A manager command uses the HBM of the homes of a range (09 R214, 11 R269). -/
def State.useRange (s : State) (cid a len : Nat) : State := (mgrSectors a len).foldl (fun s sec => s.useRegion cid (sec * 32)) s

/-- Check a range that is read or written, then go on. Sectors that it needs are read in class 0 (11 R261), and the command waits for them and behind
earlier accesses. -/
def State.withMgr (s : State) (c : Cmd) (reads : Bool) (a len : Nat) (go : State → State) : State :=
  match s.mgrBad a len with
  | some (st, d) => s.doneCmd c.cid st d
  | none =>
    if (mgrSectors a len).any (fun sec => s.behindHbm (sec * 32) || s.inboundAt sec || (!reads && s.allocHeld none (sec / 8) 0)) then s
    else if !(s.mgrMissing reads a len).isEmpty then
      (distinct ((s.mgrMissing reads a len).map (fun sec => sec / 8))).foldl (fun s l => s.fetchLine l 0 none false) s
    else
      let t := if reads then s.useRange c.cid a len else s
      match (if reads then (mgrSectors a len).find? (fun sec => s.secPoisoned sec) else none) with
      | some sec => t.doneCmd c.cid .memUncorrectable (s.globalPa (sec * 32))
      | none => go t

/-- An address field of a manager command: bits above 41 are 0 (R227). -/
def mgrAddr (a : Nat) : Bool := decide (a < 2 ^ 42)

/-- A little-endian field of a record. -/
def fld (bs : List Byte) (o n : Nat) : Nat := leNat ((bs.drop o).take n)

/-- Every byte of a record from `lo` to below `hi` is 0. -/
def zeroIn (bs : List Byte) (lo hi : Nat) : Bool := ((bs.drop lo).take (hi - lo)).all (fun b => b = 0)

/-- A change has been applied that some region has not adopted (R228). -/
def State.configBusy (s : State) : Bool := s.cf.applying.isSome

/-- Write a result where the command says (R227), then complete. -/
def State.mgrAnswer (s : State) (c : Cmd) (a : Nat) (bs : List Byte) : State :=
  (((s.useRange c.cid a bs.length).homeWrite none a 0 bs).drainEvents).doneCmd c.cid .success 0

end Sys2Proof.Machine
end

