-- ==== Sys2Proof/Machine/Instances.lean ====
section
/-! DEFINITION. Instances: create, quiesce, reset, destroy, query, and the reset of one context (10 R232 to R257, 09 R203, R204, R211,
R212). -/
namespace Sys2Proof.Machine

/-! ## The creation record (10 R233, R234; 09 R203) -/

/-- `NSLOT`. -/
def recNslot (bs : List Byte) : Nat := bits (fld bs 0 8) 12 0
/-- `NQ`. -/
def recNq (bs : List Byte) : Nat := bits (fld bs 0 8) 22 16
/-- `NCTX`. -/
def recNctx (bs : List Byte) : Nat := bits (fld bs 0 8) 30 24
/-- `NEXT`. -/
def recNext (bs : List Byte) : Nat := bits (fld bs 0 8) 47 32
/-- Length of the whole record. -/
def recLen (bs : List Byte) : Nat := 64 + 8 * recNslot bs + 16 * recNext bs + 64 * recNq bs + 8 * recNctx bs
/-- Slot entries. -/
def recSlots (bs : List Byte) : List Nat := (List.range (recNslot bs)).map (fun k => fld bs (64 + 8 * k) 8)
/-- Extent entries (base, length). -/
def recExtents (bs : List Byte) : List (Nat × Nat) :=
  (List.range (recNext bs)).map (fun k =>
    let o := 64 + 8 * recNslot bs + 16 * k
    (fld bs o 8, fld bs (o + 8) 8))
/-- Queue descriptors. -/
def recQueues (bs : List Byte) : List (List Byte) :=
  (List.range (recNq bs)).map (fun k => (bs.drop (64 + 8 * recNslot bs + 16 * recNext bs + 64 * k)).take 64)
/-- Context entries. -/
def recCtxs (bs : List Byte) : List Nat :=
  (List.range (recNctx bs)).map (fun k => fld bs (64 + 8 * recNslot bs + 16 * recNext bs + 64 * recNq bs + 8 * k) 8)
/-- `PT_ROOT`. -/
def recRoot (bs : List Byte) : Nat := bits (fld bs 8 8) 53 0
/-- `BWG`. -/
def recBwg (bs : List Byte) : Nat := bits (fld bs 0x10 8) 5 0
/-- `TS_WEIGHT`. -/
def recWeight (bs : List Byte) : Nat := bits (fld bs 0x10 8) 11 8
/-- `EXCL_CH`. -/
def recExcl (bs : List Byte) : Bool := bit (fld bs 0x10 8) 12
/-- `RAMP_US`. -/
def recRamp (bs : List Byte) : Nat := bits (fld bs 0x10 8) 19 16
/-- `PRIV_WAYS` per half. -/
def recPriv (bs : List Byte) : List Nat := (List.range 16).map (fun r => fld bs (0x20 + 2 * r) 1)
/-- `HAMPER_WAYS` per half. -/
def recHamper (bs : List Byte) : List Nat := (List.range 16).map (fun r => fld bs (0x21 + 2 * r) 1)

/-- `CORE` of a slot entry. -/
def slotCore (e : Nat) : Nat := bits e 5 0
/-- `Q` of a slot entry, in KiB. -/
def slotQ (e : Nat) : Nat := 4 * bits e 16 8
/-- `HQ` of a slot entry, in positions. -/
def slotH (e : Nat) : Nat := 4 * bits e 22 17
/-- `W` of a slot entry. -/
def slotW (e : Nat) : Nat := bits e 27 24

/-- A slot entry uses no reserved value. -/
def slotOk (e : Nat) : Bool :=
  bits e 7 6 = 0 && !bit e 23 && bits e 63 28 = 0 && 1 ≤ bits e 16 8 && bits e 16 8 ≤ 256 && 1 ≤ bits e 22 17 && bits e 22 17 ≤ 32
    && slotW e ≤ 14

/-- A queue descriptor uses no reserved value and keeps its alignments. -/
def queueOk (nctx : Nat) (d : List Byte) : Bool :=
  let w := fld d 0x10 8
  fld d 0 8 % 4096 = 0 && fld d 8 8 % 4096 = 0 && 6 ≤ bits w 4 0 && bits w 4 0 ≤ 16 && 6 ≤ bits w 9 5 && bits w 9 5 ≤ 16
    && !bit w 15 && bits w 21 16 < nctx && bits w 63 27 = 0 && zeroIn d 0x18 0x40

/-- A context entry uses no reserved value. -/
def ctxEntryOk (e : Nat) : Bool := bits e 31 2 = 0 && 10 ≤ bits e 63 32 && bits e 63 32 ≤ 60000

/-- 64 MiB. -/
def hbmUnit : Nat := 2 ^ 26

/-- Units of 64 MiB in the union of extents (R234). -/
def unionUnits (es : List (Nat × Nat)) : Nat :=
  ((List.range 16384).filter (fun u => es.any (fun e => decide (e.1 ≤ u * hbmUnit) && decide (u * hbmUnit < e.1 + e.2)))).length

/-- Hamper ways of half r that instances hold. -/
def State.hamperHeld (s : State) (r : Nat) : BitVec 20 := s.insts.foldl (fun m i => m ||| i.hamper.getD r 0) 0

/-- The `n` lowest carved Hamper ways of half r that no instance holds (R236). -/
def State.hamperGrant (s : State) (r n : Nat) : List Nat :=
  ((List.range (s.region r).h).filter (fun w => !(s.hamperHeld r).getLsbD w)).take n

/-- `PT_ROOT` lies in an extent or in a Hamper way that the record grants. -/
def State.rootInGrant (s : State) (bs : List Byte) : Bool :=
  let a := recRoot bs
  (recExtents bs).any (fun e => e.1 ≤ a && a < e.1 + e.2)
    || (inWindow a && (s.hamperGrant (windowSlot a) ((recHamper bs).getD (windowSlot a) 0)).contains (windowOff a / 2 ^ 24))

/-- The header of a creation record is valid. -/
def State.headerOk (s : State) (bs : List Byte) (len : Nat) : Bool :=
  let w := fld bs 0 8
  let x := fld bs 0x10 8
  bits w 15 13 = 0 && !bit w 23 && !bit w 31 && bits w 63 48 = 0 && bits (fld bs 8 8) 63 54 = 0 && bits x 7 6 = 0 && bits x 15 13 = 0
    && bits x 63 20 = 0 && fld bs 0x18 8 = 0 && len = recLen bs
    && 1 ≤ recNslot bs && recNslot bs ≤ 4096 && 1 ≤ recNq bs && recNq bs ≤ 64 && 1 ≤ recNctx bs && recNctx bs ≤ 64
    && recNctx bs ≤ recNslot bs && 1 ≤ recNext bs && recNext bs ≤ 1024
    && 1 ≤ recWeight bs && recRamp bs ≤ 8 && (recPriv bs).all (fun n => n ≤ 23) && (recHamper bs).all (fun n => n ≤ 20)
    && recRoot bs % 4096 = 0 && recRoot bs < 2 ^ 42
    && (List.range 16).all (fun r => match (s.region r).shares[recBwg bs]? with
      | some g => g.int != 0 && g.fab != 0
      | none => false)

/-- The whole record is valid (R237, first row). -/
def State.recordOk (s : State) (bs : List Byte) (len : Nat) : Bool :=
  s.headerOk bs len && (recSlots bs).all slotOk && (recQueues bs).all (queueOk (recNctx bs)) && (recCtxs bs).all ctxEntryOk
    && (recExtents bs).all (fun e => e.1 % hbmUnit = 0 && e.2 % hbmUnit = 0 && e.2 != 0 && e.1 + e.2 ≤ s.hbmBytes)
    && s.rootInGrant bs

/-! ## The pool (10 R232, R235, R237) -/

/-- `DETAIL` of `NO_SPACE`: resource and region. -/
def noSpace (res region : Nat) : Option (Status × Nat) := some (.noSpace, region + res * 2 ^ 8)

/-- A core has room for the entries that name it (02 R40). -/
def State.coreRoom (s : State) (bs : List Byte) (core : Nat) : Bool :=
  let mine := (recSlots bs).filter (fun e => slotCore e = core)
  let held := (s.core core).slots
  held.length + mine.length ≤ 64
    && (held.map (fun x => x.q)).sum + (mine.map slotQ).sum ≤ 1024 && (held.map (fun x => x.h)).sum + (mine.map slotH).sum ≤ 128
    && (held.map (fun x => x.w)).sum + (mine.map slotW).sum ≤ 14

/-- Blocks that extents touch (10 R234). -/
def blocksOf (es : List (Nat × Nat)) : List Nat :=
  (es.flatMap (fun e => if e.2 = 0 then [] else (List.range ((e.1 + e.2 - 1) / 2 ^ 30 - e.1 / 2 ^ 30 + 1)).map (fun i => e.1 / 2 ^ 30 + i))).dedup

/-- Two placement words name a pseudo-channel in common. -/
def wordsMeet (a b : Word64) : Bool := bits (a &&& b).toNat 31 16 != 0 && bits (a &&& b).toNat 63 32 != 0

/-- Two extents share a byte. -/
def extentsMeet (a b : Nat × Nat) : Bool := decide (a.1 < b.1 + b.2) && decide (b.1 < a.1 + a.2)

/-- The HBM of a record is free: no overlap, and exclusive channels hold (R235). -/
def State.hbmFree (s : State) (bs : List Byte) : Bool :=
  let es := recExtents bs
  let ws := (blocksOf es).map s.placeWord
  (!recExcl bs || ws.all (fun w => bits w.toNat 1 0 = 2))
    && s.insts.all (fun i => !es.any (fun e => i.extents.any (fun f => extentsMeet e f))
      && (!(recExcl bs || i.exclCh) || !ws.any (fun w => ((blocksOf i.extents).map s.placeWord).any (fun v => wordsMeet w v))))

/-- Collective channels of a region that instances hold. -/
def State.channelsHeld (s : State) (r : Nat) : Nat :=
  (s.insts.map (fun i => (i.queues.filter (fun q => q.coll && q.region = r)).length)).sum

/-- What a valid record meets in the pool, in the order of R237. -/
def State.poolBad (s : State) (bs : List Byte) : Option (Status × Nat) :=
  let cores := (List.range 64).filter (fun n => (recSlots bs).any (fun e => slotCore e = n))
  if s.lc.st = 0 || s.lc.st = 4 then some (.notPermitted, 0)
  else if cores.any (fun n => !s.coreEnabled n || s.coreFenced n) then some (.notPermitted, 0)
  else if 4096 ≤ s.insts.length then noSpace 1 0
  else match cores.find? (fun n => !s.coreRoom bs n) with
    | some n => noSpace 1 (regionOfCore n)
    | none => match (List.range 16).find? (fun r => 23 < (recPriv bs).getD r 0 + (s.region r).h + s.privHeld r) with
      | some r => noSpace 2 r
      | none => match (List.range 16).find? (fun r => (s.hamperGrant r ((recHamper bs).getD r 0)).length < (recHamper bs).getD r 0) with
        | some r => noSpace 3 r
        | none =>
          if !s.hbmFree bs then noSpace 4 0
          else if 16384 < (s.insts.map (fun i => i.queues.length)).sum + recNq bs then noSpace 5 0
          else match (List.range 16).find? (fun r => 256 < s.channelsHeld r
              + ((recQueues bs).filter (fun d => bit (fld d 0x10 8) 26 && bits (fld d 0x10 8) 25 22 = r)).length) with
            | some r => noSpace 6 r
            | none => if s.configBusy then some (.configPending, 0) else none

/-! ## Making an instance -/

/-- A context as created from its entry (10 R240). -/
def Ctx.fresh (num : Nat) (deadchk wdEn : Bool) (wdPeriod : Word) : Ctx :=
  { num := num, deadchk := deadchk, wdEn := wdEn, wdPeriod := wdPeriod, entryDeadchk := deadchk, entryWdEn := wdEn,
    entryWdPeriod := wdPeriod, st := 0, stopped := false, cause := 0, fCore := 0, fHerd := 0, fLane := 0, fLaneValid := false,
    faultPc := 0, faultAddr := 0, faultCount := 0, deadReread := 0, epochs := [], nextEpoch := 1 }

/-- A context created again from its entry. -/
def Ctx.again (c : Ctx) : Ctx := Ctx.fresh c.num c.entryDeadchk c.entryWdEn c.entryWdPeriod

/-- A queue that starts empty, with phase 1 (09 R212). -/
def Queue.restart (q : Queue) : Queue :=
  { q with st := .running, sqHead := 0, sqTail := 0, cqHead := 0, cqWrite := 0, phase := true, cqFull := false, dbErr := false,
           held := [], capped := false, derated := false, reread := false, fetched := [], asked := none }

/-- A queue from its descriptor. -/
def queueFrom (num : Nat) (d : List Byte) : Queue :=
  let w := fld d 0x10 8
  { Queue.disabled with
    num := num, sqAddr := BitVec.ofNat 64 (fld d 0 8), cqAddr := BitVec.ofNat 64 (fld d 8 8), sqLog2 := bits w 4 0, cqLog2 := bits w 9 5
    sqHost := bit w 10, cqHost := bit w 11, vector := bits w 14 12, ctx := bits w 21 16, region := bits w 25 22, coll := bit w 26
    st := .running }

/-- An unbound slot from its entry. -/
def slotFrom (num inst e : Nat) : Slot :=
  { num := num, inst := inst, st := .idle, ctx := none, lastCtx := none, q := slotQ e, h := slotH e, w := slotW e, scratch := [],
    l1 := [], kernel := none, mxq := [], barriers := List.replicate 16 0 }

/-- A slot entry takes the lowest free slot number of its core. -/
def State.addSlot (s : State) (inst e : Nat) : State :=
  let used := (s.core (slotCore e)).slots.map (fun x => x.num)
  let num := ((List.range 64).find? (fun n => !used.contains n)).getD 0
  s.updCore (slotCore e) (fun c => { c with slots := c.slots ++ [slotFrom num inst e] })

/-- The common lines of a set that no longer fit, after ways of a half have passed to another class, are written back and dropped (06
R136, R137), in the order of their allocation until the rest fits (DESIGN CHOICE, log 87: the spec names no order). -/
def State.trimHalf (s : State) (r : Nat) : State :=
  (s.llc.filter (fun l => !l.pinned && l.way = 0 && s.homeRegion (l.line * 256) = r)).foldl (fun s l =>
    let st := s.setOf (l.line * 256)
    let peers := s.llc.filter (fun x => !x.pinned && x.way = 0 && s.homeRegion (x.line * 256) = r && s.setOf (x.line * 256) = st)
    if s.classWays 0 r < peers.length + s.shadowIn 0 r st then s.evict l.line else s) s

/-- Where the pieces of a completion ring in device memory lie. -/
def State.ringPages (s : State) (i : Nat) (q : Queue) : List (Xlat × Nat) :=
  if q.cqHost then [] else (pagesOf q.cqAddr.toNat (32 * 2 ^ q.cqLog2)).map (fun p => (s.translate i .write p.1 s.histSeq, p.2))

/-- Lines of page tables that are still to be read from HBM before the completion rings of an instance can be zeroed. -/
def State.ringLines (s : State) (i : Nat) : List Nat :=
  distinct (((s.inst? i).elim [] (fun x => x.queues)).flatMap (fun q => (s.ringPages i q).filterMap (fun p => match p.1 with
    | .needLine l => some l
    | _ => none)))

/-- Go on to a state in which the completion rings of an instance are to be zeroed, or read the page tables that they need first. -/
def State.withRings (s t : State) (i : Nat) (go : State → State) : State :=
  if (t.ringLines i).isEmpty then go t else (t.ringLines i).foldl (fun s l => s.fetchLine l 0 none false) s

/-- The completion ring of a queue in device memory is zeroed; where it cannot be reached the queue is in ring fault (09 R204, R408). -/
def State.zeroRing (s : State) (i : Nat) (q : Queue) : State :=
  if q.cqHost then s
  else
    let ps := s.ringPages i q
    let bad := fun (x : Xlat) => match x with
      | .device pa _ => !s.isLocal pa
      | .host _ => false
      | .needAts _ => false
      | .needLine _ => false
      | _ => true
    if ps.any (fun p => bad p.1) then s.ringFault (.tenant i q.num)
    else ps.foldl (fun s p => match p.1 with
      | .device pa _ => s.homeWrite none (paLocal pa) 0 (List.replicate p.2 0)
      | _ => s) s

/-- The lowest free instance number (R238). -/
def State.freeInst (s : State) : Nat := ((List.range 4096).find? (fun n => !s.insts.any (fun i => i.id = n))).getD 0

/-- Make the instance of a record that passed every check. -/
def State.makeInst (s : State) (bs : List Byte) : State :=
  let n := s.freeInst
  let mask := fun r => (s.hamperGrant r ((recHamper bs).getD r 0)).foldl (fun (m : BitVec 20) w => m ||| (1 <<< w)) 0
  let ctx := fun (p : Nat × Nat) => Ctx.fresh p.2 (bit p.1 0) (bit p.1 1) (BitVec.ofNat 32 (bits p.1 63 32))
  let i : Inst :=
    { id := n, ptRoot := recRoot bs, bwg := recBwg bs, tsWeight := recWeight bs, exclCh := recExcl bs, rampUs := recRamp bs,
      privWays := recPriv bs, hamper := (List.range 16).map mask, extents := recExtents bs,
      queues := (recQueues bs).zipIdx.map (fun p => queueFrom p.2 p.1), ctxs := (recCtxs bs).zipIdx.map ctx, st := .running,
      energyMj := 0, energyNj := 0, stalls := 0, kills := 0, tdi := .unlocked, tdiStream := 0 }
  let s := { s with insts := s.insts ++ [i] }
  let s := (recSlots bs).foldl (fun s e => s.addSlot n e) s
  (List.range 16).foldl (fun s r => if (recPriv bs).getD r 0 = 0 then s else s.trimHalf r) s

/-- Zero the completion rings of an instance. -/
def State.zeroRings (s : State) (i : Nat) : State := ((s.inst? i).elim [] (fun x => x.queues)).foldl (fun s q => s.zeroRing i q) s

/-- INSTANCE_CREATE. -/
def execInstanceCreate (cid : Nat) (s : State) : Host.Outcome State Fault Refusal :=
  .next (s.mgrRow cid 0x80 (fun c =>
    let a := c.field 16 8
    let len := c.field 24 4
    s.checked c [(16, mgrAddr a), (28, c.zero 28 64)]
      (s.withMgr c true a len (fun s =>
         let bs := s.homeBytes a (min len (recLen (s.homeBytes a 64)))
         if len < 64 || !s.recordOk bs len then s.badParam cid 0xFF
         else match s.poolBad bs with
          | some (st, d) => s.doneCmd cid st d
          | none => s.withRings (s.makeInst bs) s.freeInst (fun t =>
              ((t.zeroRings s.freeInst).drainEvents).doneCmd cid .success (s.freeInst + (s.freeInst + 1) * 2 ^ 16))))))

/-! ## Quiesce (10 R248) -/

/-- Commands of an instance's queues that have begun and not ended. -/
def State.instInFlight (s : State) (i : Nat) : List Cmd :=
  s.cmds.filter (fun c => (match c.q with
    | .tenant j _ => decide (j = i)
    | .admin => false) && (match c.phase with
    | .ended _ _ => false
    | .waiting => false
    | _ => true))

/-- `INSTANCE` names an instance. -/
def State.instNamed (s : State) (c : Cmd) : Bool := (s.inst? (c.field 16 2)).isSome

/-- INSTANCE_QUIESCE: every queue stops; COMMAND_COMPLETION ends the command once nothing is in flight. -/
def execInstanceQuiesce (cid : Nat) (s : State) : Host.Outcome State Fault Refusal :=
  .next (s.mgrRow cid 0x82 (fun c =>
    let i := c.field 16 2
    s.checked c [(16, s.instNamed c), (18, c.zero 18 64)]
      (((s.tdiError i).updInst i (fun x => { x.quiesceQueues with st := .quiescing })).activate cid)))

/-- QUIESCE_TIMEOUT: commands still in flight after 1 s; the queues stay quiesced. -/
def execQuiesceTimeout (cid : Nat) (s : State) : Host.Outcome State Fault Refusal :=
  .next (s.clockRow (match s.cmd? cid with
  | none => s
  | some c =>
    let i := c.field 16 2
    if c.opcode = 0x82 && c.phase = .active && c.start + oneSec ≤ s.time && !(s.instInFlight i).isEmpty then
      (s.updInst i (fun x => { x with st := .quiesced })).doneCmd cid .timeout (s.elapsedMs c)
    else s))

/-! ## Reset (10 R239, R241, R247, R249, R250) -/

/-- Dies on which an instance has slots or whose engines serve its queues. -/
def State.diesOf (s : State) (i : Inst) : List Nat :=
  (((List.range 64).filter (fun n => (s.core n).slots.any (fun x => x.inst = i.id))).map dieOfCore
    ++ i.queues.map (fun q => dieOfRegion q.region)).dedup

/-- One-die (R247). -/
def State.oneDie (s : State) (i : Inst) : Bool := decide ((s.diesOf i).length ≤ 1)

/-- Entries of an instance's queues that were read and have not begun are discarded without a record (09 R212). -/
def State.dropWaiting (s : State) (mine : QRef → Bool) : State :=
  { s with cmds := s.cmds.filter (fun c => !(mine c.q && c.phase = .waiting)) }

/-- A queue of an instance. -/
def ofInst (i : Nat) : QRef → Bool
  | .tenant j _ => decide (j = i)
  | .admin => false

/-- A kernel of the context runs or drains on some slot. -/
def State.ctxRuns (s : State) (c : CtxRef) : Bool :=
  (s.boundSlots c).any (fun r => (s.slot? r).elim false (fun x => x.st = .running || x.st = .draining))

/-- Contexts of an instance. -/
def State.ctxsOf (s : State) (i : Nat) : List CtxRef := (s.inst? i).elim [] (fun x => x.ctxs.map (fun c => CtxRef.mk i c.num))

/-- Step 1 of R249: the queues reset; kills that run already finish. -/
def State.resetBegin (s : State) (i : Nat) (st : InstState) : State :=
  let s := (s.tdiError i).countReset 12
  let s := s.updInst i (fun x => { x with st := st, queues := x.queues.map (fun q => { q with st := .resetting }) })
  let s := s.dropWaiting (ofInst i)
  (s.ctxsOf i).foldl (fun s c => (s.killCtx c).killComplete c) s

/-- Step 2 of R249: every running kernel is killed. -/
def State.resetKill (s : State) (i : Nat) : State :=
  (s.ctxsOf i).foldl (fun s c => if s.ctxRuns c then s.killWhole c .manager none else s) s

/-- The end of step 3 of R249: what has not finished is squashed. -/
def State.resetSquash (s : State) (i : Nat) : State := ((s.instInFlight i).map (fun c => c.cid)).foldl (fun s k => s.stopCmd k .squashed 0) s

/-- Requests of an instance that is destroyed end: what they would still write lies in the grant, which is zeroed next. -/
def State.dropInstReqs (s : State) (i : Nat) : State :=
  let mine := s.reqs.filter (fun (x : Req) => x.inst = i)
  (mine.foldl (fun s x => s.endReq x) s).orphanTxns (fun o => match o with
    | .herd rid => mine.any (fun x => x.rid = rid)
    | _ => false)

/-- Every slot of an instance, with its core. -/
def State.instSlots (s : State) (i : Nat) : List SlotRef :=
  (List.range 64).flatMap (fun n => ((s.core n).slots.filter (fun x => x.inst = i)).map (fun x => SlotRef.mk n x.num))

/-- Step 4 of R249: open epochs are aborted and every slot is wiped. Writes that have arrived at their homes are still performed (08 R197); those that
are still on their path are dropped there (R252). -/
def State.resetWipe (s : State) (i : Nat) : State :=
  let s := (s.ctxsOf i).foldl (fun s c => s.endEpochs c) s
  let s := (s.instSlots i).foldl (fun s r => s.wipeSlot r) s
  { s with reqs := s.reqs.filter (fun (x : Req) => !(x.inst = i && x.target = .home && x.phase = .queued && !s.bankq.contains x.rid)) }

/-- Step 5 of R249: contexts are created again, queues start empty, groups are broken (R250). -/
def State.resetRestart (s : State) (i : Nat) : State :=
  let s := (s.fx.groups.filter (fun g => g.inst = i)).foldl (fun s g => s.breakGroup g.id s.fx.pkgId.toNat) s
  let s := s.updInst i (fun x => { x with st := .running, ctxs := x.ctxs.map Ctx.again, queues := x.queues.map Queue.restart })
  s.zeroRings i

/-- Refused for a one-die instance that is not quiesced. -/
def State.resetBusy (s : State) (i : Nat) : Bool := (s.inst? i).elim false (fun x => s.oneDie x && x.st != .quiesced)

/-- Begin a whole reset or destroy as a command; on one die the drain window finds nothing. -/
def State.resetCmd (s : State) (c : Cmd) (st : InstState) : State :=
  let i := c.field 16 2
  let one := (s.inst? i).elim true (fun x => s.oneDie x)
  let s := s.resetBegin i st
  let s := if one then s else s.resetKill i
  s.updCmd c.cid (fun c => { c with phase := .active, mark := s.time, herdRan := one })

/-- INSTANCE_RESET of a whole instance; COMMAND_COMPLETION carries out its last steps. -/
def execInstanceReset (cid : Nat) (s : State) : Host.Outcome State Fault Refusal :=
  .next (s.mgrRow cid 0x83 (fun c =>
    if c.byte 18 = 1 then s
    else s.checked c [(16, s.instNamed c), (18, c.byte 18 ≤ 1), (20, c.zero 20 64)]
      (if s.resetBusy (c.field 16 2) then s.doneCmd cid .busy 0 else s.resetCmd c .resetting)))

/-- INSTANCE_RESET_DRAIN_END: the drain window of a reset or destroy that spans dies has passed. -/
def execInstanceResetDrainEnd (cid : Nat) (s : State) : Host.Outcome State Fault Refusal :=
  .next (s.clockRow (match s.cmd? cid with
  | none => s
  | some c =>
    if (c.opcode = 0x83 || c.opcode = 0x81) && c.phase = .active && !c.herdRan && c.mark + 150000 ≤ s.time then
      (s.resetSquash (c.field 16 2)).updCmd cid (fun c => { c with herdRan := true })
    else s))

/-- Reset one context (R241). The reset counts once, as the kill that it makes where there is one (14 R337). -/
def State.resetCtx (s : State) (c : CtxRef) : State :=
  let mine := fun (q : Queue) => decide (q.ctx = c.ctx)
  let s := s.updInst c.inst (fun x =>
    { x with queues := updWhere mine (fun q => { q with st := .resetting }) x.queues, st := if x.st = .quiesced then .running else x.st })
  let s := s.dropWaiting (fun q => decide (s.qCtx q = some c))
  let s := (s.killCtx c).killComplete c
  let s := if s.ctxRuns c then s.killWhole c .manager none else s.countReset 13
  let s := ((s.ctxCmds c).map (fun d => d.cid)).foldl (fun s k => s.stopCmd k .squashed 0) s
  let s := s.endEpochs c
  let s := (s.boundSlots c).foldl (fun s r => s.wipeSlot r) s
  let s := s.updCtx c Ctx.again
  let s := s.updInst c.inst (fun x => { x with queues := updWhere mine Queue.restart x.queues })
  (((s.inst? c.inst).elim [] (fun x => x.queues)).filter mine).foldl (fun s q => s.zeroRing c.inst q) s

/-- INSTANCE_RESET_CONTEXT. -/
def execInstanceResetContext (cid : Nat) (s : State) : Host.Outcome State Fault Refusal :=
  .next (s.mgrRow cid 0x83 (fun c =>
    if c.byte 18 != 1 then s
    else
      let x : CtxRef := { inst := c.field 16 2, ctx := c.byte 19 }
      s.checked c [(16, s.instNamed c), (19, (s.ctx? x).isSome), (20, c.zero 20 64)]
        (s.withRings s x.inst (fun s => (((s.tdiError x.inst).resetCtx x).drainEvents).doneCmd cid .success 0))))

/-! ## Destroy (10 R251) -/

/-- A local address lies in one of the extents. -/
def inExtents (es : List (Nat × Nat)) (a : Nat) : Bool := es.any (fun e => decide (e.1 ≤ a) && decide (a < e.1 + e.2))

/-- Zero the grant of an instance: every extent through the homes, every Hamper way; its pinned lines and the lines of its private ways are
dropped. -/
def State.zeroGrant (s : State) (i : Inst) : State :=
  let here := fun a => i.grants a
  { s with
    mem := spWipe here s.mem, back := spWipe here s.back
    llc := s.llc.filter (fun l => !(here (l.line * 256)) && (l.pinned || l.way != i.id + 1))
    deadMarks := s.deadMarks.filter (fun sec => !here (sec * 32))
    poisonMarks := s.poisonMarks.filter (fun sec => !here (sec * 32)) }

/-- The lines of an instance's private ways outside its grant are written back before the ways pass on (06 R136). -/
def State.flushPrivate (s : State) (i : Inst) : State :=
  (s.llc.filter (fun l => l.way = i.id + 1 && !l.pinned)).foldl (fun s l => s.evict l.line) s

/-- Everything that an instance held returns to the pool; its events that no attribution has charged count as nobody's (log 100). -/
def State.removeInst (s : State) (i : Inst) : State :=
  let s := ((s.dropInstReqs i.id).flushPrivate i).zeroGrant i
  let disown := fun (c : Count) => if c.owner = i.id + 1 then { c with owner := 0 } else c
  let drop := fun (c : Core) => { c with slots := c.slots.filter (fun x => x.inst != i.id) }
  { s with cores := s.cores.map drop, insts := s.insts.filter (fun x => x.id != i.id), cmds := s.cmds.filter (fun c => !ofInst i.id c.q),
           fx := { s.fx with groups := s.fx.groups.filter (fun g => g.inst != i.id) },
           host := { s.host with ats := s.host.ats.filter (fun a => a.inst != i.id) }, tl := { s.tl with counts := s.tl.counts.map disown } }

/-- The last steps of a reset; a core fence that waited for it follows (16 R377). -/
def State.resetEnd (s : State) (i : Nat) : State := (((s.resetSquash i).resetWipe i).resetRestart i).runFences

/-- The last steps of a destroy. -/
def State.destroyEnd (s : State) (i : Nat) : State :=
  let s := (s.resetSquash i).resetWipe i
  match s.inst? i with
  | some x => (s.removeInst x).runFences
  | none => s

/-- A whole reset under the rules for several dies, at once (R239). -/
def State.resetWhole (s : State) (i : Nat) : State := ((s.resetBegin i .resetting).resetKill i).resetEnd i

/-- A destroy under the rules for several dies, at once (14 R342). -/
def State.destroyWhole (s : State) (i : Nat) : State := ((s.resetBegin i .destroying).resetKill i).destroyEnd i

/-- INSTANCE_DESTROY; COMMAND_COMPLETION carries out its last steps. -/
def execInstanceDestroy (cid : Nat) (s : State) : Host.Outcome State Fault Refusal :=
  .next (s.mgrRow cid 0x81 (fun c =>
    s.checked c [(16, s.instNamed c), (18, c.zero 18 64)]
      (if s.configBusy then s.doneCmd cid .configPending 0
       else if s.resetBusy (c.field 16 2) then s.doneCmd cid .busy 0
       else s.resetCmd c .destroying)))

/-! ## Query (10 R257) -/

/-- Code of the state of an instance. -/
def InstState.code : InstState → Nat
  | .running => 1
  | .quiescing => 2
  | .quiesced => 3
  | .resetting => 4
  | .destroying => 5

/-- `CX_STATE.STATE` (02 R57): 1 running, 2 draining, 3 and 4 as kept. -/
def State.ctxState (s : State) (c : CtxRef) : Nat :=
  let st := (s.ctx? c).elim 0 (fun x => x.st.toNat)
  let on := fun (t : SlotState) => (s.boundSlots c).any (fun r => (s.slot? r).elim false (fun x => x.st = t))
  if st = 3 || st = 4 then st else if on .running then 1 else if on .draining then 2 else 0

/-- The 256-byte instance record. -/
def State.instRecord (s : State) (i : Inst) : List Byte :=
  let w0 := i.id + (if s.oneDie i then 2 ^ 12 else 0) + i.st.code * 2 ^ 13 + (i.id + 1) * 2 ^ 16
  let w1 := (s.instSlots i.id).length + i.ctxs.length * 2 ^ 13 + i.queues.length * 2 ^ 20
  let ways := fun r => leBytes (i.privWays.getD r 0) 1 ++ leBytes (maskBits 20 (i.hamper.getD r 0).toNat).length 1
  let ctx := fun n => leBytes (if n < i.ctxs.length then s.ctxState { inst := i.id, ctx := n } else 0xFF) 1
  leBytes w0 4 ++ leBytes w1 4 ++ leBytes (unionUnits i.extents * hbmUnit) 8 ++ leBytes i.energyMj.toNat 8
    ++ leBytes (s.opt.attribMode.toNat % 2) 4 ++ leBytes i.stalls.toNat 4 ++ leBytes i.kills.toNat 4 ++ List.replicate 28 0
    ++ (List.range 16).flatMap ways ++ (List.range 64).flatMap ctx
    ++ (List.range 16).flatMap (fun r => leBytes (i.hamper.getD r 0).toNat 4) ++ List.replicate 32 0

/-- INSTANCE_QUERY. -/
def execInstanceQuery (cid : Nat) (s : State) : Host.Outcome State Fault Refusal :=
  .next (s.mgrRow cid 0x84 (fun c =>
    let a := c.field 24 8
    s.checked c [(16, s.instNamed c), (18, c.zero 18 24), (24, mgrAddr a), (32, c.zero 32 64)]
      (match s.inst? (c.field 16 2) with
      | none => s
      | some i => s.withMgr c false a 256 (fun s => s.mgrAnswer c a (s.instRecord i)))))

end Sys2Proof.Machine
end

