-- ==== Sys2Proof/Machine/ConfigCmds.lean ====
section
/-! DEFINITION. Configuration changes: stage, apply, adoption region by region, status (10 R253 to R255, 06 R133 to R137). -/
namespace Sys2Proof.Machine

/-! ## The configuration that will hold -/

/-- Configuration of a region once a change has been adopted there. -/
def RegionCfg.after (c : RegionCfg) (r : Nat) (ch : Change) : RegionCfg :=
  { h := ((ch.hamper.bind (fun l => l.getD r none)).getD c.h)
    shares := (match ch.groups with
      | none => c.shares
      | some gs => c.shares.zipIdx.map (fun p => (gs.getD p.2 none).getD p.1))
    stallMs := ch.stall.getD c.stallMs }

/-- Configuration of region r after any apply in progress. -/
def State.regionAfter (s : State) (r : Nat) : RegionCfg :=
  match s.cf.applying with
  | none => s.region r
  | some ch => if s.cf.pendingRegions.getLsbD r then (s.region r).after r ch else s.region r

/-- Placements after a change: those it names replace the earlier ones of their blocks. -/
def placesAfter (old new : List Place) : List Place := old.filter (fun p => !new.any (fun q => q.block = p.block)) ++ new

/-- Placements after any apply in progress. -/
def State.placesNext (s : State) : List Place :=
  match s.cf.applying with
  | none => s.cf.place
  | some ch => placesAfter s.cf.place ch.places

/-! ## The configuration record (R253) -/

/-- `NPLACE`. -/
def cfgNplace (bs : List Byte) : Nat := bits (fld bs 0 8) 15 0
/-- `HAMPER_V`. -/
def cfgHamperV (bs : List Byte) : Bool := bit (fld bs 0 8) 16
/-- `BWG_V`. -/
def cfgBwgV (bs : List Byte) : Bool := bit (fld bs 0 8) 17
/-- `STALL_V`. -/
def cfgStallV (bs : List Byte) : Bool := bit (fld bs 0 8) 18
/-- Offset of the groups part. -/
def cfgGroupsAt (bs : List Byte) : Nat := 16 + (if cfgHamperV bs then 16 else 0)
/-- Offset of the placements. -/
def cfgPlacesAt (bs : List Byte) : Nat := cfgGroupsAt bs + (if cfgBwgV bs then 512 else 0)
/-- Length of the record. -/
def cfgLen (bs : List Byte) : Nat := cfgPlacesAt bs + 16 * cfgNplace bs
/-- Hamper bytes, where present. -/
def cfgHamper (bs : List Byte) : List Nat := if cfgHamperV bs then (List.range 16).map (fun r => fld bs (16 + r) 1) else []
/-- Group entries, where present. -/
def cfgGroups (bs : List Byte) : List Nat :=
  if cfgBwgV bs then (List.range 64).map (fun g => fld bs (cfgGroupsAt bs + 8 * g) 8) else []
/-- Placements as (block, reserved bytes, word). -/
def cfgPlaces (bs : List Byte) : List (Nat × Nat × Nat) :=
  (List.range (cfgNplace bs)).map (fun k =>
    let o := cfgPlacesAt bs + 16 * k
    (fld bs o 2, fld bs (o + 2) 6, fld bs (o + 8) 8))

/-- `KEEP` of a group entry. -/
def groupKeep (e : Nat) : Bool := bit e 28

/-- The share that a group entry sets. -/
def groupShare (e : Nat) : Option Share :=
  if groupKeep e then none else some { int := bits e 9 0, fab := bits e 19 10, credits := bits e 27 20 }

/-- A group entry uses no reserved value. -/
def groupOk (e : Nat) : Bool :=
  bits e 63 29 = 0 && (groupKeep e || (bits e 9 0 ≤ 992 && bits e 19 10 ≤ 992 && bits e 27 20 != 0))

/-- Set bits of a field. -/
def popBits (n w : Nat) : Nat := (maskBits w n).length

/-- A placement word keeps R133. -/
def wordOk (w : Nat) : Bool :=
  let regions := bits w 31 16
  let channels := bits w 63 32
  bits w 15 2 = 0 && (match bits w 1 0 with
    | 0 => regions = 0xFFFF && channels = 0xFFFFFFFF
    | 1 => [1, 2, 4, 8].contains (popBits regions 16) && channels = 0xFFFFFFFF
    | 2 => [1, 2, 4, 8].contains (popBits regions 16) && [1, 2, 4, 8, 16].contains (popBits channels 32)
    | _ => false)

/-- Totals of the shares that a change would leave in a region. -/
def shareTotals (shares : List Share) : Nat × Nat := ((shares.map (fun g => g.int)).sum, (shares.map (fun g => g.fab)).sum)

/-- The change of a record, without its placements. -/
def changeOf (bs : List Byte) (token : Nat) : Change :=
  { token := token
    hamper := if cfgHamperV bs then some ((cfgHamper bs).map (fun b => if b = 0xFF then none else some b)) else none
    groups := if cfgBwgV bs then some ((cfgGroups bs).map groupShare) else none
    stall := if cfgStallV bs then some (fld bs 8 4) else none
    places := [], begun := 0 }

/-- The record is valid (R254, first case). -/
def State.cfgOk (s : State) (bs : List Byte) (len : Nat) : Bool :=
  let ch := changeOf bs 0
  let names := (cfgPlaces bs).map (fun p => p.1)
  bits (fld bs 0 8) 63 19 = 0 && fld bs 12 4 = 0 && cfgNplace bs ≤ 1024 && len = cfgLen bs
    && (!cfgStallV bs || (100 ≤ fld bs 8 4 && fld bs 8 4 ≤ 60000))
    && (cfgHamper bs).all (fun b => b ≤ 20 || b = 0xFF) && (cfgGroups bs).all groupOk
    && (cfgPlaces bs).all (fun p => p.1 ≤ 1023 && p.2.1 = 0 && wordOk p.2.2) && names.dedup.length = names.length
    && (List.range 16).all (fun r =>
      let t := shareTotals ((s.regionAfter r).after r ch).shares
      t.1 ≤ 992 && t.2 ≤ 992)

/-! ## Whether running regions can take a change (R254, R137, R31) -/

/-- Highest Hamper way granted in half r, plus one. -/
def State.hamperTop (s : State) (r : Nat) : Nat := ((maskBits 20 (s.hamperHeld r).toNat).map (fun w => w + 1)).foldl max 0

/-- A change cannot be applied to running regions. -/
def State.changeBusy (s : State) (ch : Change) (blocks : List Nat) : Bool :=
  (List.range 16).any (fun r => match ch.hamper.bind (fun l => l.getD r none) with
    | none => false
    | some h => s.opt.hamperMaxWays.toNat < h || h < s.hamperTop r || 23 < h + s.privHeld r)
    || blocks.any (fun b => s.insts.any (fun i => (blocksOf i.extents).contains b))
    || (match ch.groups with
      | none => false
      | some gs => s.insts.any (fun i => match gs.getD i.bwg none with
        | some g => g.int = 0 || g.fab = 0
        | none => false))

/-! ## Runs of row slots (R30, R132, R134) -/

/-- Row slots of a pseudo-channel. -/
def State.rowSlots (s : State) : Nat := s.fuse.stackGib.toNat * 8192

/-- Length of a block's run on each pseudo-channel of its word. -/
def runLen (w : Word64) : Nat := 2 ^ 19 / (wordRegions w).length / (wordPcs w).length

/-- Keys (64 * region + pseudo-channel) of a word. -/
def wordKeys (w : Word64) : List Nat := (wordRegions w).flatMap (fun r => (wordPcs w).map (fun p => 64 * r + p))

/-- Runs that lie on a pseudo-channel, as (first row slot, length): of the placed blocks, and of every block in the default layout. -/
def runsOn (places : List Place) (blocks : List Nat) (key : Nat) : List (Nat × Nat) :=
  (places.filterMap (fun p => (p.base.find? (fun b => b.1 = key)).map (fun b => (b.2, runLen p.word))))
    ++ ((blocks.filter (fun b => !places.any (fun p => p.block = b))).map (fun b => (512 * b, 512)))

/-- The lowest free run of a length below `top`. -/
def freeRun (occ : List (Nat × Nat)) (top len : Nat) : Option Nat :=
  ((0 :: occ.map (fun o => o.1 + o.2)).filter (fun st => st + len ≤ top && occ.all (fun o => !extentsMeet (st, len) o))).foldl (fun b x =>
    match b with
    | none => some x
    | some y => some (min x y)) none

/-- Assign the runs of one block; none where some pseudo-channel has no free run, with that pseudo-channel's region. -/
def assignRuns (places : List Place) (blocks : List Nat) (top : Nat) (w : Word64) : List Nat → Except Nat (List (Nat × Nat))
  | [] => .ok []
  | key :: rest =>
    match freeRun (runsOn places blocks key) top (runLen w), assignRuns places blocks top w rest with
    | some st, .ok l => .ok ((key, st) :: l)
    | none, _ => .error (key / 64)
    | _, .error r => .error r

/-- Place blocks in record order, over placements from which theirs have been released. -/
def placeBlocks (top : Nat) (blocks : List Nat) : List Place → List (Nat × Word64) → Except Nat (List Place)
  | _, [] => .ok []
  | placed, (b, w) :: rest =>
    match assignRuns placed blocks top w (wordKeys w) with
    | .error r => .error r
    | .ok base =>
      let p : Place := { block := b, word := w, base := base }
      match placeBlocks top blocks (placed ++ [p]) rest with
      | .ok l => .ok (p :: l)
      | .error r => .error r

/-- The placements that a record asks for, with their runs. -/
def State.placed (s : State) (bs : List Byte) : Except Nat (List Place) :=
  let want := (cfgPlaces bs).map (fun p => (p.1, BitVec.ofNat 64 p.2.2))
  let old := s.placesNext.filter (fun p => !want.any (fun w => w.1 = p.block))
  let rest := (List.range (s.hbmBytes / 2 ^ 30)).filter (fun b => !want.any (fun w => w.1 = b))
  placeBlocks s.rowSlots rest old want

/-! ## The commands -/

/-- The token after one: never 0. -/
def nextTok (n : Nat) : Nat := if (n + 1) % 2 ^ 32 = 0 then 1 else (n + 1) % 2 ^ 32

/-- CONFIG_STAGE. -/
def execConfigStage (cid : Nat) (s : State) : Host.Outcome State Fault Refusal :=
  .next (s.mgrRow cid 0x88 (fun c =>
    let a := c.field 16 8
    let len := c.field 24 4
    s.checked c [(16, mgrAddr a), (28, c.zero 28 64)]
      (if len < 16 then s.badParam cid 0xFF
       else s.withMgr c true a len (fun s =>
         let bs := s.homeBytes a (min len (cfgLen (s.homeBytes a 16)))
         let ch := changeOf bs s.cf.nextToken
         if !s.cfgOk bs len then s.badParam cid 0xFF
         else if s.changeBusy ch ((cfgPlaces bs).map (fun p => p.1)) then s.doneCmd cid .busy 0
         else match s.placed bs with
          | .error r => s.doneCmd cid .noSpace (r + 4 * 2 ^ 8)
          | .ok ps =>
            ({ s with cf := { s.cf with staged := some { ch with places := ps }, nextToken := nextTok s.cf.nextToken } }).doneCmd cid .success
              s.cf.nextToken))))

/-- CONFIG_APPLY: every region still uses the configuration before it; the command completes when the first one changes. -/
def execConfigApply (cid : Nat) (s : State) : Host.Outcome State Fault Refusal :=
  .next (s.mgrRow cid 0x89 (fun c =>
    let named := s.cf.staged.elim false (fun ch => ch.token = c.field 16 4)
    s.checked c [(16, named), (20, c.zero 20 64)]
      (match s.cf.staged with
      | none => s
      | some ch =>
        if s.configBusy then s.doneCmd cid .configPending 0
        else if s.changeBusy ch (ch.places.map (fun p => p.block)) then s.doneCmd cid .busy 0
        else ({ s with cf := { s.cf with staged := none, applying := some { ch with begun := s.time },
                                         pendingRegions := BitVec.allOnes 16 } }).activate cid)))

/-- Ways of half r that become Hamper are written back, dropped and zeroed (R137). -/
def State.carve (s : State) (r old new : Nat) : State :=
  if new ≤ old then s
  else
    let s := s.trimHalf r
    let here := fun a => inWindow a && windowSlot a = r && old ≤ windowOff a / 2 ^ 24 && windowOff a / 2 ^ 24 < new
    { s with mem := spWipe here s.mem, poisonMarks := s.poisonMarks.filter (fun sec => !here (sec * 32)) }

/-- The lines of a block leave the LLC before its home changes. -/
def State.flushBlock (s : State) (b : Nat) : State :=
  (s.llc.filter (fun l => l.line / 2 ^ 22 = b)).foldl (fun s l => s.evict l.line) s

/-- The last region has changed: placements take effect, the token and the stall period are those of the change, and the manager hears
(R255). -/
def State.applied (s : State) (ch : Change) : State :=
  let s := ch.places.foldl (fun s p => s.flushBlock p.block) s
  let s := { s with cf := { s.cf with applying := none, token := BitVec.ofNat 32 ch.token, place := placesAfter s.cf.place ch.places,
                                      stall := (ch.stall.map (BitVec.ofNat 32)).getD s.cf.stall } }
  s.event 0x08 ch.token

/-- CONFIG_EPOCH_BOUNDARY: the region switches its ways, its arbiters and its stall timer. The first region to do so ends the
`CONFIG_APPLY`. -/
def execConfigEpochBoundary (region : Nat) (s : State) : Host.Outcome State Fault Refusal :=
  .next (match s.cf.applying with
  | none => s
  | some ch =>
    if 16 ≤ region || !s.running || !s.cf.pendingRegions.getLsbD region then s
    else
      let old := s.region region
      let new := old.after region ch
      let s := { s with cf := { s.cf with regions := updAt s.cf.regions region (fun _ => new),
                                          pendingRegions := s.cf.pendingRegions &&& ~~~((1 : BitVec 16) <<< region) } }
      let s := s.carve region old.h new.h
      let s := if s.cf.pendingRegions == 0#16 then s.applied ch else s
      ((s.cmds.filter (fun c => c.opcode = 0x89 && c.phase = .active)).map (fun c => c.cid)).foldl (fun s k => s.doneCmd k .success 0) s)

/-- CONFIG_STATUS. -/
def execConfigStatus (cid : Nat) (s : State) : Host.Outcome State Fault Refusal :=
  .next (s.mgrRow cid 0x8A (fun c =>
    let t := c.field 16 4
    let waits := (s.cf.applying.elim false (fun ch => ch.token = t)) || (s.cf.staged.elim false (fun ch => ch.token = t))
    s.checked c [(16, waits || (t != 0 && s.cf.token.toNat = t)), (20, c.zero 20 64)]
      (if waits then s.doneCmd cid .configPending 0 else s.doneCmd cid .success 0)))

end Sys2Proof.Machine
end

