-- ==== Sys2Proof/Machine/Manager.lean ====
section
/-! DEFINITION. The manager commands that are not about instances or configuration: fencing and diagnosis, power, life cycle, reset
counters, the Ramblers, firmware, the fabric tables (09 R228). -/
namespace Sys2Proof.Machine

/-! ## Cores (16 R376 to R379) -/

/-- CORE_FENCE. Of a core that is disabled in `OB_CORE_EN` it is not permitted (DESIGN CHOICE, log 92: the spec gives no outcome). -/
def execCoreFence (cid : Nat) (s : State) : Host.Outcome State Fault Refusal :=
  .next (s.mgrRow cid 0x90 (fun c =>
    let n := c.byte 16
    s.checked c [(16, n < 64), (17, c.zero 17 64)]
      (if s.coreFenced n then s.doneCmd cid .success 0
       else if !s.coreEnabled n then s.doneCmd cid .notPermitted 0
       else if s.configBusy then s.doneCmd cid .configPending 0
       else (s.fenceCore n 5).doneCmd cid .success 0)))

/-- Fence cause recorded for a core. -/
def State.fenceCause (s : State) (n : Nat) : Nat := ((s.health.causes.find? (fun p => p.1 = n)).map Prod.snd).getD 0

/-- A self-test can report this: one of the three results, no failed part where every test passed, and at most 500 ms (16 R379). -/
def diagnosable (result : BitVec 8) (unitFail : BitVec 19) (rfFail : BitVec 4) (l1Fail : BitVec 16) (us : Word) : Bool :=
  decide (1 ≤ result.toNat) && decide (result.toNat ≤ 3) && decide (us.toNat ≤ 500000)
    && (result != 1 || (unitFail = 0 && rfFail = 0 && l1Fail = 0))

/-- CORE_DIAGNOSE: the reset is asserted again after the test, and the result is written. A report that no test makes is none. -/
def execCoreDiagnose (cid : Nat) (result : BitVec 8) (unitFail : BitVec 19) (rfFail : BitVec 4) (l1Fail : BitVec 16) (us : Word) (s : State) :
    Host.Outcome State Fault Refusal :=
  .next (s.mgrRow cid 0x91 (fun c =>
    if !diagnosable result unitFail rfFail l1Fail us then s
    else
    let n := c.byte 16
    let a := c.field 24 8
    let bs := leBytes (result.toNat + s.fenceCause n * 2 ^ 8) 4 ++ leBytes unitFail.toNat 4 ++ leBytes (rfFail.toNat + l1Fail.toNat * 2 ^ 4) 4
      ++ leBytes us.toNat 4 ++ List.replicate 48 0
    s.checked c [(16, n < 64), (17, c.zero 17 24), (24, mgrAddr a), (32, c.zero 32 64)]
      (if !s.coreFenced n then s.doneCmd cid .busy 0
       else s.withMgr c false a 64 (fun s => (s.countReset 11).mgrAnswer c a bs))))

/-! ## Power (15 R355, R357, R367) -/

/-- POWER_SET_CAP: the new cap waits for the next control period, which ends the command. -/
def execPowerSetCap (cid : Nat) (s : State) : Host.Outcome State Fault Refusal :=
  .next (s.mgrRow cid 0x98 (fun c =>
    let w := c.field 16 2
    let det := bit (c.byte 18) 0
    s.checked c [(16, 1500 ≤ w && w ≤ 4000), (18, c.byte 18 ≤ 1 && (!det || w = 4000)), (19, c.zero 19 64)]
      (({ s with pw := { s.pw with newCap := some (w, det, cid) } }).activate cid)))

/-- The effective cap (R355). -/
def State.effCap (s : State) : Nat := match s.pw.limit with
  | some l => min s.pw.cap l
  | none => s.pw.cap

/-- The effective cap has been `old` until now: it is kept for the bound on what is drawn, for 2 ms (15 R354). -/
def State.capChanged (s : State) (old : Nat) : State :=
  if s.effCap = old then s
  else { s with pw := { s.pw with capHist := (s.time, old) :: s.pw.capHist.filter (fun p => decide (s.time < p.1 + 2000000)) } }

/-- `PW_STATUS` (R368). -/
def State.pwStatus (s : State) : Nat :=
  s.pw.div + s.pw.skip * 2 ^ 8 + (if s.pw.limCap then 2 ^ 14 else 0) + (if s.pw.limTherm then 2 ^ 15 else 0)
    + (if s.pw.limAlert then 2 ^ 16 else 0)

/-- The hottest junction of die d. -/
def State.dieTemp (s : State) (d : Nat) : Nat := max (s.tl.cj.getD d 0).toNat (s.tl.bj.getD d 0).toNat

/-- The 64-byte power record. -/
def State.powerRecord (s : State) : List Byte :=
  leBytes (s.pw.cap % 65536 + if s.pw.pdet then 65536 else 0) 4 ++ leBytes (s.effCap % 65536) 4 ++ leBytes s.pwStatus 4
    ++ leBytes s.tl.pIn.toNat 2 ++ leBytes s.tl.pMax.toNat 2 ++ leBytes s.tl.pFixed.toNat 8
    ++ leBytes s.tl.energyIn.toNat 8 ++ leBytes s.tl.unattrib.toNat 8 ++ leBytes s.pw.alertCount.toNat 4
    ++ (List.range 8).flatMap (fun d => leBytes (s.dieTemp d) 1) ++ (List.range 8).flatMap (fun d => leBytes (s.pw.gvar.getD d 0) 1)
    ++ List.replicate 4 0

/-- POWER_QUERY. -/
def execPowerQuery (cid : Nat) (s : State) : Host.Outcome State Fault Refusal :=
  .next (s.mgrRow cid 0x99 (fun c =>
    let a := c.field 24 8
    s.checked c [(16, c.zero 16 24), (24, mgrAddr a), (32, c.zero 32 64)] (s.withMgr c false a 64 (fun s => s.mgrAnswer c a s.powerRecord))))

/-! ## Wipes and measurements (14 R328, R342, R346) -/

/-- The memories that a life-cycle change wipes: as `MODULE_WARM`. Every instance has been destroyed before. -/
def State.wipeMemories (s : State) : State :=
  let core := fun (c : Core) => { Core.reset with held := c.held, slots := c.slots.map Slot.wiped, arrNext := c.arrNext, sbNext := c.sbNext,
                                                  arrIdleSince := c.arrIdleSince, ues := c.ues }
  { s with mem := [], back := [], deadMarks := [], poisonMarks := [], llc := [], poisonMode := 0, reqs := [], bankq := [], hist := [],
           hbmEntries := [], replay := [], fillHold := [], hbm := s.hbm.map (fun k => { k with wq := [], scrubs := [], rows := [] })
           cores := s.cores.map core, fx := { s.fx with groups := [], inbound := [] } }

/-- Destroy every instance under the rules for several dies. -/
def State.destroyAll (s : State) : State := (s.insts.map (fun i => i.id)).foldl (fun s i => s.destroyWhole i) s

/-- Set bits of a field: the thermometer count of `OB_FW_SVN` (14 R332). -/
def svnCount (w : Word64) : Nat := popBits w.toNat 64

/-- The life-cycle state that the fuses give: the highest set bit (14 R332). -/
def fusedState (f : BitVec 3) : BitVec 3 := if f.getLsbD 2 then 4 else if f.getLsbD 1 then 2 else if f.getLsbD 0 then 1 else 0

/-- The active slot of flash. -/
def Flash.activeImage (f : Flash) : FwImage := if f.active then f.slotB else f.slotA

/-- Measurements 1 to 4 and 6 are recorded (R346). Measurement 1, of the boot ROM, never changes. -/
def State.measure (s : State) : State :=
  let img := s.flash.activeImage
  let m3 := s.lc.optDigest.toNat + if s.rs.optDefaulted then 2 ^ 384 else 0
  let m4 := leNat (leBytes s.fuse.grade.toNat 1 ++ leBytes s.fuse.coreEn.toNat 8 ++ leBytes s.fuse.arrayEn.toNat 32
    ++ leBytes s.fuse.stackGib.toNat 1 ++ leBytes s.lc.st.toNat 1 ++ leBytes s.fuse.fwSvn.toNat 8 ++ leBytes s.fuse.ownerKeyHash.toNat 48)
  let m6 := s.lc.version.toNat + s.lc.svn * 2 ^ 32 + (if s.flash.active then 2 ^ 40 else 0) + (if s.lc.fallback then 2 ^ 41 else 0)
  { s with lc := { s.lc with meas := [s.lc.meas.getD 0 0, img.digest.toNat, m3, m4, m6] } }

/-! ## Life cycle (14 R339 to R342) -/

/-- The key that a transition requires: 0 Maeloafort, 1 owner; none where the transition does not exist. -/
def lcKey (cur dst : Nat) : Option Nat :=
  if cur = 0 && dst = 1 then some 0
  else if cur = 1 && dst = 2 then some 1
  else if cur = 2 && dst = 3 then some 1
  else if (cur = 0 || cur = 1) && dst = 4 then some 0
  else if (cur = 2 || cur = 3) && dst = 4 then some 1
  else none

/-- The authorisation carries no reserved encoding and no reserved bit (00 R8, 09 R217). -/
def authLegal (bs : List Byte) : Bool := decide (fld bs 1 1 ≤ 1) && zeroIn bs 2 16

/-- An authorisation is accepted for a transition. -/
def State.authOk (s : State) (dst key : Nat) (bs : List Byte) : Bool :=
  let pub := (bs.drop 0x60).take 96
  let newHash := fld bs 0x30 48
  fld bs 0 1 = dst && fld bs 1 1 = key && fld bs 0x10 16 = s.fuse.deviceId.toNat && fld bs 0x20 16 = s.lc.nonce.toNat
    && (if s.lc.st = 0 && dst = 1 then newHash != 0 else newHash = 0)
    && (if key = 1 then Config.sha384 pub = s.fuse.ownerKeyHash else zeroIn bs 0x60 0xC0)
    && Config.ecdsaOk (if key = 1 then pub else Config.maeloafortKey) (Config.sha384 (bs.take 0xC0)) ((bs.drop 0xC0).take 96)

/-- Step 3 of R342: the fuses are written, or the state is held in `LC_STATE` only. -/
def State.advance (s : State) (dst newHash : Nat) : State :=
  let bit : BitVec 3 := if dst = 1 then 1 else if dst = 2 then 2 else if dst = 4 then 4 else 0
  { s with fuse := { s.fuse with lcFuse := s.fuse.lcFuse ||| bit,
                                 ownerKeyHash := if dst = 1 then BitVec.ofNat 384 newHash else s.fuse.ownerKeyHash }
           lc := { s.lc with st := BitVec.ofNat 3 dst } }.gateTap

/-- LIFECYCLE_ADVANCE. The nonce changes as the command leaves (`State.writeEnd`). -/
def execLifecycleAdvance (cid : Nat) (s : State) : Host.Outcome State Fault Refusal :=
  .next (s.mgrRow cid 0xA0 (fun c =>
    let dst := c.byte 16
    let a := c.field 24 8
    let checks := [(16, decide (dst ≤ 4)), (17, c.zero 17 24), (24, mgrAddr a), (32, decide (c.field 32 4 = 288)), (36, c.zero 36 64)]
    s.checked c checks
      (s.withMgr c true a 288 (fun s =>
         let bs := s.homeBytes a 288
         if !authLegal bs then s.badParam cid 0xFF
         else match lcKey s.lc.st.toNat dst with
         | none => s.doneCmd cid .notPermitted 0
         | some key =>
           if !s.authOk dst key bs then s.doneCmd cid .notPermitted 0
           else if s.configBusy then s.doneCmd cid .configPending 0
           else
             let s := (s.countReset 15).destroyAll.wipeMemories
             ((s.advance dst (fld bs 0x30 48)).measure.drainEvents).doneCmd cid .success 0))))

/-! ## Reset counters (14 R336, R337) -/

/-- RESET_COUNTERS_READ. -/
def execResetCountersRead (cid : Nat) (s : State) : Host.Outcome State Fault Refusal :=
  .next (s.mgrRow cid 0xA1 (fun c =>
    let a := c.field 24 8
    s.checked c [(16, c.zero 16 24), (24, mgrAddr a), (32, c.zero 32 64)]
      (s.withMgr c false a 64 (fun s => s.mgrAnswer c a (s.rs.counts.flatMap (fun n => leBytes n.toNat 4))))))

/-- RESET_COUNTERS_CLEAR. -/
def execResetCountersClear (cid : Nat) (s : State) : Host.Outcome State Fault Refusal :=
  .next (s.mgrRow cid 0xA2 (fun c =>
    let mask := c.field 16 2
    let keep := fun (p : Word × Nat) => if bit mask p.2 then 0 else p.1
    s.checked c [(18, c.zero 18 64)]
      (if s.lc.st = 2 || s.lc.st = 4 then s.doneCmd cid .notPermitted 0
       else ({ s with rs := { s.rs with counts := s.rs.counts.zipIdx.map keep } }).doneCmd cid .success 0)))

/-! ## The Ramblers (11 R274 to R276) -/

/-- The record uses no reserved value. -/
def rambleOk (bs : List Byte) : Bool :=
  let w := fld bs 0x40 4
  bits w 3 0 ≤ 4 && bits w 5 4 ≤ 2 && bits w 7 6 ≤ 2 && (if bits w 5 4 = 2 then bits w 14 8 ≤ 100 else bits w 14 8 = 0)
    && zeroIn bs 0x48 0x80

/-- Run time in 0.1 ms without the closing wipe: `PASSES` times accesses times t. -/
def State.ramblePasses (s : State) (bs : List Byte) : Nat :=
  let w := fld bs 0x40 4
  let big := s.fuse.stackGib = 64
  let t := match bits w 7 6 with
    | 0 => if big then 1864 else 1398
    | 1 => if big then 508 else 381
    | _ => if big then 304 else 228
  bits w 31 16 * (if bits w 5 4 = 0 then 2 else 1) * t

/-- Run time in 0.1 ms with the closing wipe. -/
def State.rambleTime (s : State) (bs : List Byte) : Nat := s.ramblePasses bs + if s.fuse.stackGib = 64 then 304 else 228

/-- A named channel holds data of an instance. -/
def State.channelBusy (s : State) (mask : Nat) : Bool :=
  s.insts.any (fun i => (blocksOf i.extents).any (fun b => (wordKeys (s.placeWord b)).any (fun k => bit mask (32 * (k / 64) + k % 64 / 2))))

/-- A named stack is derated or held. -/
def State.stackHot (s : State) (mask : Nat) : Bool :=
  (List.range 16).any (fun k => bits mask (32 * k + 31) (32 * k) != 0 && (2 : BitVec 3) ≤ (s.stack k).step)

/-- RAMBLER_RUN: `REC` and its contents are checked before `OUT` (09 R217). -/
def execRamblerRun (cid : Nat) (s : State) : Host.Outcome State Fault Refusal :=
  .next (s.mgrRow cid 0xA8 (fun c =>
    let a := c.field 16 8
    let out := c.field 24 8
    s.checked c [(16, mgrAddr a), (24, mgrAddr out), (32, c.zero 32 64)]
      (s.withMgr c true a 128 (fun s =>
        let bs := s.homeBytes a 128
        let mask := fld bs 0 64
        let w := fld bs 0x40 4
        let on := fun (b n : Nat) => (mgrSectors b n).any (fun sec => s.onChannels mask (sec * 32))
        if !rambleOk bs || on a 128 || 9000 < s.rambleTime bs then s.badParam cid 0xFF
        else s.withMgr c false out 16384 (fun s =>
         if on out 16384 then s.badParam cid 0xFF
         else if mask = 0 || bits w 31 16 = 0 then s.doneCmd cid .success 0
         else if s.channelBusy mask || s.stackHot mask then s.doneCmd cid .busy 0
         else
          let r : Rambler :=
            { cid := cid, channels := BitVec.ofNat 512 mask, op := bits w 5 4, pattern := bits w 3 0, seed := BitVec.ofNat 32 (fld bs 0x44 4)
              passes := bits w 31 16, raw := bit w 15, started := s.time, lasts := s.ramblePasses bs,
              inOrder := bits w 7 6 = 2, stopped := 0, found := [] }
          ({ s with rambler := some r }).activate cid)))))

/-- Sectors of a channel that differ from the pattern: as found before it was stopped, or now. -/
def State.foundOn (s : State) (r : Rambler) (ch : Nat) : List Nat :=
  if r.stopped.getLsbD ch then ((r.found.find? (fun p => p.1 = ch)).map Prod.snd).getD [] else s.rambleFinds r ch

/-- Mismatches of a channel: `PASSES` visits to every sector that differs (DESIGN CHOICE, log 94: the spec does not say whether a sector counts
once or in each pass), of a stopped channel at most so many; and those, measured, that DRAM errors made beside them. -/
def State.rambleMisses (s : State) (r : Rambler) (ch : Nat) (m : List Nat) : Nat :=
  let all := r.passes * (s.foundOn r ch).length
  (if r.stopped.getLsbD ch then min all (m.getD 7 0) else all) + m.getD 2 0

/-- The first mismatch of a channel as (pseudo-channel bit, sector index): where no DRAM error added others, the first sector that differs, in
address order, or one of them in a random order; else measured. -/
def State.rambleFirst (s : State) (r : Rambler) (ch : Nat) (m : List Nat) : Nat × Nat :=
  let ds := s.foundOn r ch
  let pick := if r.inOrder then ds.head? else ds[m.getD 4 0 % ds.length]?
  match pick with
  | some sec => if m.getD 2 0 = 0 then (s.pcOf (sec * 32) % 2, s.pcSector sec) else (m.getD 1 0 % 2, m.getD 4 0 % (s.fuse.stackGib.toNat * 2 ^ 19))
  | none => (m.getD 1 0 % 2, m.getD 4 0 % (s.fuse.stackGib.toNat * 2 ^ 19))

/-- A pseudo-channel of a channel has failed. -/
def State.channelFailed (s : State) (ch : Nat) : Bool :=
  let k := s.stack (ch / 32)
  k.pcFail.getLsbD (2 * (ch % 32)) || k.pcFail.getLsbD (2 * (ch % 32) + 1)

/-- One result entry. Measured, in this order after a first value of no meaning: the failing pseudo-channel, mismatches beyond those that the
pattern itself makes, corrected sectors, the first failing sector, bytes (of a stopped channel), time, and how far a stopped channel came. -/
def State.rambleEntry (s : State) (r : Rambler) (ch : Nat) (m : List Nat) : List Byte :=
  let miss := if r.op = 2 then 0 else s.rambleMisses r ch m
  let first := if miss = 0 then (0, 0) else s.rambleFirst r ch m
  let chan := s.fuse.stackGib.toNat * 2 ^ 30 / 32
  let moved := if r.stopped.getLsbD ch then m.getD 5 0 else r.passes * (if r.op = 0 then 2 else 1) * chan
  if s.channelFailed ch then leBytes 3 32
  else
    leBytes (if r.stopped.getLsbD ch then 4 else if miss = 0 then 1 else 2) 1 ++ leBytes first.1 1 ++ [0, 0]
      ++ leBytes (min miss (2 ^ 32 - 1)) 4 ++ leBytes (if r.raw then 0 else min (m.getD 3 0) (2 ^ 32 - 1)) 4
      ++ leBytes first.2 4 ++ leBytes moved 8 ++ leBytes (m.getD 6 0) 8

/-- The 512 entries. -/
def State.rambleTable (s : State) (r : Rambler) (results : List (List Nat)) : List Byte :=
  let named := maskBits 512 r.channels.toNat
  (List.range 512).flatMap (fun ch =>
    if named.contains ch then s.rambleEntry r ch (results.getD (named.idxOf ch) []) else List.replicate 32 0)

/-- The named channels have run for their time, or every one has been stopped. -/
def State.rambleOver (s : State) (r : Rambler) : Bool :=
  decide (r.started + r.lasts * 100000 ≤ s.time) || r.channels &&& ~~~r.stopped = 0

/-- RAMBLER_RUN_END: the channels that were not stopped are wiped, and the results are written. -/
def execRamblerRunEnd (results : List (List Nat)) (s : State) : Host.Outcome State Fault Refusal :=
  .next (s.clockRow (match s.rambler with
  | none => s
  | some r =>
    match s.cmd? r.cid with
    | none => { s with rambler := none }
    | some c =>
      if !s.rambleOver r then s
      else
        let bs := s.rambleTable r results
        (({ s with rambler := none }).wipeChannels (r.channels &&& ~~~r.stopped).toNat).mgrAnswer c (c.field 24 8) bs))

/-! ## Firmware (14 R343 to R345) -/

/-- The header of an image keeps R343. -/
def imageOk (bs : List Byte) (len : Nat) : Bool :=
  let typ := fld bs 2 1
  let body := fld bs 8 4
  160 ≤ len && fld bs 0 2 = 1 && (typ = 1 || typ = 2) && fld bs 3 1 = 0 && bits (fld bs 4 4) 6 0 ≤ 64 && bits (fld bs 4 4) 31 8 = 0
    && (typ = 1 || fld bs 4 1 = 0) && (if typ = 1 then 1 ≤ body && body ≤ 8388608 else body = 524288) && zeroIn bs 0x10 0x40
    && len = 160 + body

/-- Body of an image. -/
def imageBody (bs : List Byte) : List Byte := (bs.drop 64).take (fld bs 8 4)

/-- The signature of an image verifies: under the Maeloafort key, or under the owner key that an option-area image carries. -/
def State.imageSigned (s : State) (bs : List Byte) : Bool :=
  let body := imageBody bs
  let pub := body.drop (body.length - 96)
  let sig := (bs.drop (64 + body.length)).take 96
  let dig := Config.sha384 (bs.take 64 ++ body)
  if fld bs 2 1 = 1 then Config.ecdsaOk Config.maeloafortKey dig sig
  else Config.sha384 pub = s.fuse.ownerKeyHash && Config.ecdsaOk pub dig sig

/-- The image may be staged in this life-cycle state, at this security version. -/
def State.imageAllowed (s : State) (bs : List Byte) : Bool :=
  if fld bs 2 1 = 1 then svnCount s.fuse.fwSvn ≤ bits (fld bs 4 4) 6 0 else s.lc.st != 0 && s.lc.st != 4

/-- The fields of an option area. -/
def optOf (body : List Byte) : OptFields :=
  { capDefault := BitVec.ofNat 16 (fld body 0x40 2), hamperMaxWays := BitVec.ofNat 8 (fld body 0x42 1),
    attribMode := BitVec.ofNat 8 (fld body 0x43 1), arrayRamp := BitVec.ofNat 8 (fld body 0x44 1),
    vfBar2Log2 := BitVec.ofNat 8 (fld body 0x45 1), pdetDefault := BitVec.ofNat 8 (fld body 0x46 1) }

/-- Write a checked image to flash and hold it: firmware to the inactive slot, an option area to the shadow copy. -/
def State.hold (s : State) (bs : List Byte) : State :=
  let body := imageBody bs
  if fld bs 2 1 = 1 then
    let w := fld bs 4 4
    let img : FwImage := { sigOk := true, svn := bits w 6 0, version := BitVec.ofNat 32 (fld bs 12 4), commitSvn := bit w 7,
                           digest := Config.sha384 body }
    let flash := if s.flash.active then { s.flash with slotA := img } else { s.flash with slotB := img }
    { s with flash := flash, lc := { s.lc with heldType := 1, heldImage := some img } }
  else
    { s with flash := { s.flash with shadow := some (optOf body, BitVec.ofNat 16 (fld body 0 2), Config.sha384 body) }
             lc := { s.lc with heldType := 2, heldImage := none } }

/-- What staging an image answers. -/
def State.stageImage (s : State) (bs : List Byte) (len : Nat) : State × Status :=
  if !imageOk bs len then (s, .invalidParam)
  else if !s.imageSigned bs || !s.imageAllowed bs then (s, .notPermitted)
  else (s.hold bs, .success)

/-- FW_STAGE. -/
def execFwStage (cid : Nat) (s : State) : Host.Outcome State Fault Refusal :=
  .next (s.mgrRow cid 0xB0 (fun c =>
    let a := c.field 16 8
    let len := c.field 24 4
    s.checked c [(16, mgrAddr a), (24, len != 0), (28, c.zero 28 64)]
      (s.withMgr c true a len (fun s =>
         let r := s.stageImage (s.homeBytes a (min len 8388768)) len
         r.1.doneCmd cid r.2 (if r.2 = .invalidParam then 0xFF else 0)))))

/-- No image is held. -/
def State.unhold (s : State) : State := { s with lc := { s.lc with heldType := 0, heldImage := none } }

/-- A thermometer code of n bits. -/
def svnCode (n : Nat) : Word64 := BitVec.ofNat 64 (2 ^ n - 1)

/-- The other slot becomes active, and its firmware runs. -/
def State.runSlot (s : State) (img : FwImage) : State :=
  let fuse := if img.commitSvn && svnCount s.fuse.fwSvn < img.svn then { s.fuse with fwSvn := svnCode img.svn } else s.fuse
  let s := { s with flash := { s.flash with active := !s.flash.active }, fuse := fuse,
                    lc := { s.lc with version := img.version, fallback := false } }
  ({ s with lc := { s.lc with svn := svnCount s.fuse.fwSvn } }).measure.unhold

/-- Activate the held image (R345): an option area becomes the one to load next; firmware restarts after every instance is destroyed and
memory is wiped, from the new slot where its signature verifies again. False: the restart failed. -/
def State.activateImage (s : State) : State × Bool :=
  if s.lc.heldType = 2 then
    match s.flash.shadow with
    | some (o, f, d) =>
      (({ s with flash := { s.flash with optArea := o, optFormat := f, optDigest := d, optDigestOk := true, shadow := none } }).unhold, true)
    | none => (s.unhold, true)
  else
    let img := if s.flash.active then s.flash.slotA else s.flash.slotB
    let s := (s.countReset 15).destroyAll.wipeMemories
    if img.sigOk && svnCount s.fuse.fwSvn ≤ img.svn then (s.runSlot img, true) else (s.unhold, false)

/-- FW_ACTIVATE. -/
def execFwActivate (cid : Nat) (s : State) : Host.Outcome State Fault Refusal :=
  .next (s.mgrRow cid 0xB1 (fun c =>
    s.checked c [(16, c.zero 16 64)]
      (if s.lc.heldType = 0 then s.doneCmd cid .invalidParam 0
       else if s.configBusy then s.doneCmd cid .configPending 0
       else
        let r := s.activateImage
        r.1.drainEvents.doneCmd cid (if r.2 then .success else .invalidParam) 0)))

/-! ## Fabric tables (12 R287, 07 R162, R163) -/

/-- A routing entry for a package is legal: no reserved bit, and 0 for this module's own package. -/
def State.routeOk (s : State) (pkg e : Nat) : Bool :=
  !bit e 4 && !bit e 5 && !bit e 6 && !bit e 12 && !bit e 13 && !bit e 14 && !bit e 20 && !bit e 21 && !bit e 22 && !bit e 28 && !bit e 29
    && !bit e 30 && bits e 63 32 = 0 && (!(s.fx.valid && pkg = s.fx.pkgId.toNat) || e = 0)

/-- FABRIC_ROUTE_SET. -/
def execFabricRouteSet (cid : Nat) (s : State) : Host.Outcome State Fault Refusal :=
  .next (s.mgrRow cid 0xC0 (fun c =>
    let a := c.field 16 8
    let p := c.field 24 2
    let n := c.field 26 2
    s.checked c [(16, mgrAddr a), (24, n = 0 || p < 4096), (26, n = 0 || p + n ≤ 4096), (28, c.zero 28 64)]
      (s.withMgr c true a (8 * n) (fun s =>
         let es := (List.range n).map (fun k => (p + k, leNat (s.homeBytes (a + 8 * k) 8)))
         if !es.all (fun e => s.routeOk e.1 e.2) then s.badParam cid 0xFF
         else
          let routes := es.foldl (fun (m : List (Nat × Word64)) e => spSet m e.1 (BitVec.ofNat 64 e.2)) s.fx.routes
          (({ s with fx := { s.fx with routes := routes } }).failUnreachable.drainEvents).doneCmd cid .success 0))))

/-- Members of a descriptor as (package, region). -/
def descMembers (bs : List Byte) : List (Nat × Nat) :=
  (List.range (bits (fld bs 4 4) 12 0)).map (fun k =>
    let e := fld bs (64 + 4 * k) 4
    (bits e 11 0, bits e 15 12))

/-- A group descriptor is valid (R163). -/
def State.descOk (s : State) (bs : List Byte) (len : Nat) : Bool :=
  let g := bits (fld bs 4 4) 12 0
  let rank := bits (fld bs 4 4) 27 16
  let ms := descMembers bs
  let t := fld bs 8 4
  64 + 4 * g ≤ len && bits (fld bs 0 4) 15 12 = 0 && bits (fld bs 0 4) 31 28 = 0 && 1 ≤ g && g ≤ 4096 && bits (fld bs 4 4) 15 13 = 0
    && bits (fld bs 4 4) 31 28 = 0 && rank < g && 1 ≤ t && t ≤ 10000 && zeroIn bs 12 64
    && (List.range g).all (fun k => bits (fld bs (64 + 4 * k) 4) 31 16 = 0)
    && (ms.map (fun m => m.1)).dedup.length = ms.length && (ms.getD rank (4096, 0)).1 = s.fx.pkgId.toNat
    && (s.inst? (bits (fld bs 0 4) 27 16)).isSome

/-- The group of a descriptor, healthy at sequence 0. -/
def descGroup (bs : List Byte) : Group :=
  { id := bits (fld bs 0 4) 11 0, inst := bits (fld bs 0 4) 27 16, rank := bits (fld bs 4 4) 27 16, timeoutMs := fld bs 8 4,
    members := descMembers bs, seq := 0, broken := none, coll := none, held := [], beaconAt := 0 }

/-- FABRIC_GROUP_SET. A `DESC_BYTES` below 64 + 4 × `G` is named as that field (R228; DEDUCED, log 24). -/
def execFabricGroupSet (cid : Nat) (s : State) : Host.Outcome State Fault Refusal :=
  .next (s.mgrRow cid 0xC1 (fun c =>
    let a := c.field 16 8
    let len := c.field 24 4
    s.checked c [(16, mgrAddr a), (24, 64 ≤ len), (28, c.zero 28 64)]
      (s.withMgr c true a len (fun s =>
         let n := bits (leNat (s.homeBytes (a + 4) 4)) 12 0
         let bs := s.homeBytes a (min len (64 + 4 * n))
         let g := descGroup bs
         if 1 ≤ n && n ≤ 4096 && len < 64 + 4 * n then s.badParam cid 24
         else if !s.descOk bs len then s.badParam cid 0xFF
         else if (s.group? g.id).elim false (fun (x : Group) => x.coll.isSome) then s.doneCmd cid .busy 0
         else ({ s with fx := { s.fx with groups := s.fx.groups.filter (fun (x : Group) => x.id != g.id) ++ [g] } }).doneCmd cid .success 0))))

end Sys2Proof.Machine
end

