-- ==== Sys2Proof/Machine/Routes.lean ====
section
/-! DEFINITION. The paths inside the module: bridge links, region links, detours, and what is lost with a failed part of them (01 R15, R16, 16
R380, R381). -/
namespace Sys2Proof.Machine

/-! ## Bridge links (01 R15, 16 R381) -/

/-- The dies that a bridge link joins. -/
def bridgeEnds (l : Nat) : Nat × Nat :=
  if l < 4 then (l, (l + 1) % 4) else if l < 8 then (l, 4 + (l + 1) % 4) else (l - 8, l - 4)

/-- The bridge link between two dies, if there is one. -/
def linkBetween (a b : Nat) : Option Nat := (List.range 12).find? (fun l => bridgeEnds l = (a, b) || bridgeEnds l = (b, a))

/-- A bridge link carries nothing: it is out of service, or a die at one of its ends is held. -/
def State.linkDead (s : State) (l : Nat) : Bool :=
  s.health.bridgeOos.getLsbD l || s.rs.dieHeld.getLsbD (bridgeEnds l).1 || s.rs.dieHeld.getLsbD (bridgeEnds l).2

/-- Column after `k` steps along a row ring: toward increasing or decreasing columns. -/
def ringStep (up : Bool) (col k : Nat) : Nat := if up then (col + k) % 4 else (col + 4 - k % 4) % 4

/-- The shortest path of R16 as dies: along the row ring first, toward increasing columns where bit 11 of the address is 0 and both directions are
equally short, and across the rows last. -/
def directPath (src dst : Nat) (bit11 : Bool) : List Nat :=
  let up := (dst % 4 + 4 - src % 4) % 4
  let steps := min up (4 - up)
  let dir := if up = 2 then !bit11 else decide (up < 2)
  let ring := (List.range (if up = 0 then 1 else steps + 1)).map (fun k => src / 4 * 4 + ringStep dir (src % 4) k)
  if src / 4 = dst / 4 then ring else ring ++ [dst]

/-- Bridge links of a path of dies. -/
def pathLinks : List Nat → List Nat
  | a :: b :: rest => (linkBetween a b).toList ++ pathLinks (b :: rest)
  | _ => []

/-- Every path without a repeated die, of at most `n` links, over links that carry traffic. -/
def State.openPaths (s : State) (dst : Nat) : Nat → List Nat → List (List Nat)
  | 0, path => if path.getLastD 0 = dst then [path] else []
  | n + 1, path =>
    let here := path.getLastD 0
    if here = dst then [path]
    else ((List.range 8).filter (fun d => !path.contains d && (linkBetween here d).elim false (fun l => !s.linkDead l))).flatMap
      (fun d => s.openPaths dst n (path ++ [d]))

/-- The path between two dies: the direct one, or a shortest detour, the first in die order (R16, 16 R381; DESIGN CHOICE, log 74). -/
def State.diePath (s : State) (src dst : Nat) (bit11 : Bool) : List Nat :=
  let direct := directPath src dst bit11
  if (pathLinks direct).all (fun l => !s.linkDead l) then direct
  else
    let ps := s.openPaths dst 5 [src]
    ((List.range 6).findSome? (fun n => ps.find? (fun p => p.length = n + 1))).getD direct

/-- The path between two regions: within a die over its region link, or over a neighbouring die where that link is out of service. -/
def State.regionPath (s : State) (src dst : Nat) (bit11 : Bool) : List Nat :=
  let a := dieOfRegion src
  let b := dieOfRegion dst
  if a = b && src != dst && s.health.rlinkOos.getLsbD a then
    match (List.range 8).find? (fun d => (linkBetween a d).elim false (fun l => !s.linkDead l)) with
    | some d => [a, d, a]
    | none => [a]
  else s.diePath a b bit11

/-! ## What a failure loses (16 R380, R381) -/

/-- A part of the module that fails. -/
inductive Part where
  | stop (region : Nat)
  | bridge (link : Nat)
  | region (die : Nat)
  | die (die : Nat)
deriving DecidableEq, Repr

/-- Traffic from one region to another can cross a part. A part of a die that the path touches can lie on it where the spec does not say which of
the die's ends the path uses (log 74). -/
def State.crosses (s : State) (part : Part) (src dst : Nat) (bit11 : Bool) : Bool :=
  let path := s.regionPath src dst bit11
  match part with
  | .stop r => r = src || r = dst || (path.drop 1).dropLast.contains (dieOfRegion r)
  | .bridge l => (pathLinks path).contains l
  | .region d => path.contains d && (src != dst || 1 < path.length)
  | .die d => (path.drop 1).dropLast.contains d

/-- The region at which a request of a core leaves the mesh: its home, the die of its port, or the anchor die for the host. -/
def State.reqEnd (s : State) (x : Req) : Nat :=
  match x.target with
  | .home => s.homeRegion (x.line * 256)
  | .remote => (s.egress? (paPkg (x.line * 256)) (paLocal (x.line * 256))).elim 0 (fun p => p)
  | .host => 0

/-- A request is on its way between a core and its home. -/
def Req.travels (x : Req) : Bool := match x.phase with
  | .hbm => false
  | .joined _ => false
  | _ => true

/-- Traffic outstanding across a part as it fails can be lost with it: requests of herds by number, and commands that are active on an engine and move data. -/
def State.losePart (s : State) (part : Part) : State :=
  let rids := (s.reqs.filter (fun x => x.travels
    && s.crosses part (regionOfCore x.core) (s.reqEnd x) (bit (x.line * 256) 11))).map (fun x => x.rid)
  let engine := fun (c : Cmd) => (s.queue? c.q).elim 0 (fun q => q.region)
  let cids := (s.cmds.filter (fun c => c.phase = .active && (tenantEngine c.opcode).isSome && c.opcode != 0x10
    && (List.range 16).any (fun r => s.crosses part (engine c) r false || s.crosses part (engine c) r true))).map (fun c => c.cid)
  { s with health := { s.health with atRisk := s.health.atRisk.filter (fun p => decide (s.time ≤ p.2)) ++ (rids ++ cids).map (fun i => (i, s.time + 10000000)) } }

end Sys2Proof.Machine
end

