-- ==== Sys2Proof/Machine/Reset.lean ====
section
/-! DEFINITION. Resets of the module, of a die and of a region, boot, the watchdogs and the recovery of the main PLL (14 R322 to R337, 15
R349, 17 R390 to R396). -/
namespace Sys2Proof.Machine

/-! ## Closing the Blankets (14 R325, R326) -/

/-- A mask with the named bits set. -/
def maskOf (w : Nat) (l : List Nat) : BitVec w := l.foldl (fun (m : BitVec w) k => m ||| (1 <<< k)) 0

/-- An instance is affected by a reset that reaches the regions `rs` (R325). -/
def State.affects (s : State) (rs : List Nat) (i : Inst) : Bool :=
  (List.range 64).any (fun n => rs.contains (regionOfCore n) && (s.core n).slots.any (fun x => x.inst = i.id))
    || i.queues.any (fun q => rs.contains q.region)
    || (blocksOf i.extents).any (fun b => (wordRegions (s.placeWord b)).any (fun r => rs.contains r))

/-- The firmware kills every context of each affected instance. -/
def State.killAffected (s : State) (rs : List Nat) : State :=
  (((s.insts.filter (fun i => s.affects rs i)).map (fun i => i.id)).flatMap (fun i => s.ctxsOf i)).foldl
    (fun s c => s.killWhole c .manager none) s

/-- A local line whose home is in the regions `rs`. -/
def State.homedIn (s : State) (rs : List Nat) (line : Nat) : Bool := rs.contains (s.homeRegion (line * 256))

/-- Fabric requests that wait on a home in the regions are refused with `NOT_READY` (R326, 12 R286). -/
def State.refuseInbound (s : State) (rs : List Nat) : State :=
  let here := fun (i : Inbound) => s.homedIn rs (i.msg.addr.toNat / 256)
  let t := { s with fx := { s.fx with inbound := s.fx.inbound.filter (fun i => !here i) } }
  (s.fx.inbound.filter here).foldl (fun s i => s.nackMsg i.port i.msg 4) t

/-- A Rambler run on a stack in the regions ends with `ADDRESS_FAULT` (R326): its named channels on the other stacks are wiped, as when a run ends (11
R275). -/
def State.endRambler (s : State) (rs : List Nat) : State :=
  match s.rambler with
  | none => s
  | some r =>
    let reset := rs.foldl (fun (m : BitVec 512) k => m ||| stackChannels k) 0
    if r.channels &&& reset != 0 then
      (({ s with rambler := none }).wipeChannels (r.channels &&& ~~~r.stopped &&& ~~~reset).toNat).doneCmd r.cid .addressFault 0
    else s

/-- A stack whose controller is reset keeps its RWS counts and its sticky training state (11 R272, R277). -/
def Stack.held (k : Stack) : Stack :=
  { Stack.reset with pcFail := k.pcFail, dq := k.dq, ca := k.ca, ce := k.ce, ue := k.ue, sticky := k.sticky }

/-- A request is outstanding into the regions: data that has left its home for a core arrives. -/
def State.lostIn (s : State) (rs : List Nat) (x : Req) : Bool :=
  x.target = .home && s.homedIn rs x.line && (match x.phase with
    | .served _ _ _ => x.blocked
    | _ => true)

/-- Close the Blankets of the regions: contexts are killed, requests outstanding into them are answered with an error, nothing of them is ready,
and the controllers' RW fields return (11 R277; the one `HB_CTRL` with any of them: DEDUCED, log 75). -/
def State.closeRegions (s : State) (rs : List Nat) : State :=
  let s := s.killAffected rs
  let s := (s.reqs.filter (s.lostIn rs)).foldl (fun s x => s.downReq x) s
  let s := { s with scrubEn := true, scrubH := 0x0C }
  let s := (s.refuseInbound rs).endRambler rs
  let s := { s with hbmEntries := s.hbmEntries.filter (fun e => !s.homedIn rs e.line),
                    replay := s.replay.filter (fun e => !s.homedIn rs e.line), fillHold := s.fillHold.filter (fun e => !s.homedIn rs e.line),
                    rs := { s.rs with ready := s.rs.ready &&& ~~~(maskOf 16 rs) } }
  rs.foldl (fun s r => s.updStack r Stack.held) s

/-- Cores of the regions are wiped; slots stay assigned and a fenced core stays held (R328). -/
def State.wipeCores (s : State) (rs : List Nat) : State :=
  let wipe := fun (c : Core) => { Core.reset with held := c.held, slots := c.slots.map Slot.wiped, ues := c.ues }
  (rs.flatMap (fun r => [4 * r, 4 * r + 1, 4 * r + 2, 4 * r + 3])).foldl (fun s n => s.updCore n wipe) s

/-- The exit sequence of regions begins: cores and LLC halves are wiped; the stacks train again and are wiped by HBM_READY. -/
def State.openRegions (s : State) (rs : List Nat) : State := rs.foldl (fun s r => s.wipeHalf r) (s.wipeCores rs)

/-- A unit's exit sequence starts now; one that ran for it is replaced. -/
def State.startExit (s : State) (u : ResetUnit) : State :=
  { s with rs := { s.rs with exiting := (u, s.time) :: s.rs.exiting.filter (fun e => decide (e.1 ≠ u)) } }

/-- Exit sequences that a wider or equal entry abandons (R327). -/
def State.abandonExits (s : State) (us : List ResetUnit) : State :=
  { s with rs := { s.rs with exiting := s.rs.exiting.filter (fun e => !us.contains e.1) } }

/-! ## Ports -/

/-- A port whose die is held: its RWS fields stay, and its incarnations, so that the next one differs (12 R295, R302). -/
def Port.held (x : Port) : Port :=
  { Port.reset with en := x.en, rateCap := x.rateCap, crcErr := x.crcErr, replays := x.replays, losses := x.losses, inc := x.inc,
                    sentInc := x.sentInc }

/-- Physical address that an outstanding transaction names. -/
def txnPa (t : Txn) : Nat := t.dst * 2 ^ 42 + t.addr

/-- The ports of held dies: what they buffer is gone, and their outstanding requests meet the Blanket's error response (R326). -/
def State.holdPorts (s : State) (ps : List Nat) : State :=
  let waiting := (ps.flatMap (fun p => (s.port p).outq)).filter (fun o => o.back.elim true (fun b => !ps.contains b.1))
  let s := ps.foldl (fun s p => (s.updPort p Port.held).dropReceived p) s
  let s := ((ps.flatMap s.portTxns).filter (fun t => t.resendAt.isNone)).foldl (fun s t =>
    if s.fx.txns.any (fun u => u.port = t.port && u.num = t.num) then s.failTxn t .addressFault .addressFault (txnPa t) else s) s
  (waiting.foldl State.forwardAgain s).failUnreachable

/-- Ports start their bring-up with a new incarnation (12 R284, R295). -/
def State.startPorts (s : State) (ps : List Nat) : State := ps.foldl (fun s p => s.newInc p) s

/-! ## DIE and REGION (14 R324 to R330) -/

/-- Regions of die d. -/
def regionsOf (d : Nat) : List Nat := [2 * d, 2 * d + 1]

/-- `DIE` reset entry of a die that is not held. -/
def State.dieEnter (s : State) (d : Nat) : State :=
  let s := (((s.losePart (.die d)).closeRegions (regionsOf d)).holdPorts [2 * d, 2 * d + 1]).abandonExits
    [.die d, .region (2 * d), .region (2 * d + 1)]
  { s with rs := { s.rs with dieHeld := s.rs.dieHeld ||| (1 <<< d) } }

/-- `DIE` reset exit: the command processor restarts, ports come up, and the regions that nothing else holds are wiped. Its `CLK_CORE` runs at P7 (15
R352). -/
def State.dieExit (s : State) (d : Nat) : State :=
  let s := { s with rs := { s.rs with dieHeld := s.rs.dieHeld &&& ~~~(1 <<< d : BitVec 8) }, pw := { s.pw with exitP7 := s.pw.exitP7 ||| (1 <<< d) } }
  ((s.openRegions ((regionsOf d).filter (fun r => !s.regionHold r))).startPorts [2 * d, 2 * d + 1]).startExit (.die d)

/-- DIE_RESET_ASSERT. -/
def execDieResetAssert (p : Party) (d : Nat) (s : State) : Host.Outcome State Fault Refusal :=
  .next (if !s.managerWrites p || 8 ≤ d || s.rs.holdDie.getLsbD d then s
    else
      let s := s.countReset 8
      let s := if s.rs.dieHeld.getLsbD d then s else s.dieEnter d
      { s with rs := { s.rs with holdDie := s.rs.holdDie ||| (1 <<< d) } })

/-- DIE_RESET_RELEASE: nothing more happens while the watchdog still holds the die. -/
def execDieResetRelease (p : Party) (d : Nat) (s : State) : Host.Outcome State Fault Refusal :=
  .next (if !s.managerWrites p || !s.rs.holdDie.getLsbD d then s
    else
      let s := { s with rs := { s.rs with holdDie := s.rs.holdDie &&& ~~~(1 <<< d : BitVec 8) } }
      if s.rs.wdHeld.getLsbD d then s else s.dieExit d)

/-- REGION_RESET_ASSERT: a region that its die holds is already closed. -/
def execRegionResetAssert (p : Party) (r : Nat) (s : State) : Host.Outcome State Fault Refusal :=
  .next (if !s.managerWrites p || 16 ≤ r || s.rs.holdRegion.getLsbD r then s
    else
      let s := s.countReset 10
      let s := if s.regionHold r then s else (s.closeRegions [r]).abandonExits [.region r]
      { s with rs := { s.rs with holdRegion := s.rs.holdRegion ||| (1 <<< r), regionHeld := s.rs.regionHeld ||| (1 <<< r) } })

/-- REGION_RESET_RELEASE: no effect on a region that its die or a failed router stop still holds. -/
def execRegionResetRelease (p : Party) (r : Nat) (s : State) : Host.Outcome State Fault Refusal :=
  .next (if !s.managerWrites p || !s.rs.holdRegion.getLsbD r then s
    else
      let b : BitVec 16 := 1 <<< r
      let s := { s with rs := { s.rs with holdRegion := s.rs.holdRegion &&& ~~~b, regionHeld := s.rs.regionHeld &&& ~~~b } }
      if s.regionHold r then s else (s.openRegions [r]).startExit (.region r))

/-- Regions that a unit's exit sequence opens: those that nothing holds, no narrower exit sequence covers, and whose stack is trained. -/
def State.exitRegions (s : State) (u : ResetUnit) : List Nat :=
  let exits := fun v => s.rs.exiting.any (fun e => e.1 = v)
  let own := match u with
    | .module => (List.range 16).filter (fun r => !exits (.die (dieOfRegion r)) && !exits (.region r))
    | .die d => (regionsOf d).filter (fun r => !exits (.region r))
    | .region r => [r]
  own.filter (fun r => !s.regionHold r)

/-- RESET_EXIT_COMPLETE: the wipes have finished, the Blankets open, and ports may become `LIVE` (12 R286). -/
def execResetExitComplete (u : ResetUnit) (s : State) : Host.Outcome State Fault Refusal :=
  .next (
    let rs := s.exitRegions u
    if !s.outOfCold || s.rs.warm || !s.rs.exiting.any (fun e => e.1 = u) || !rs.all (fun r => (s.stack r).trained) then s
    else
      let s := s.abandonExits [u]
      { s with rs := { s.rs with ready := s.rs.ready ||| maskOf 16 rs } })

/-- Firmware runs on the module's processors: it is starting or ready. -/
def State.firmwareUp (s : State) : Bool := s.outOfCold && (s.rs.boot = .starting || s.rs.boot = .ready) && !s.rs.warm

/-- COMMAND_PROCESSOR_WATCHDOG: 1 s without an answer from the command processor of a die that is not held (R324); where it halted on an
uncorrectable error of its memory, a record says so (16 R370, R373). -/
def execCommandProcessorWatchdog (d : Nat) (s : State) (memory : Bool := false) : Host.Outcome State Fault Refusal :=
  .next (if !s.firmwareUp || 8 ≤ d || s.rs.dieHeld.getLsbD d then s
    else
      let s := if memory then s.error 0x0D 2 (0x50 + d) 0 else s
      let s := (s.countReset 9).dieEnter d
      { s with rs := { s.rs with wdHeld := s.rs.wdHeld ||| (1 <<< d), wdSince := s.rs.wdSince.set d s.time } })

/-- COMMAND_PROCESSOR_WATCHDOG_RELEASE, 1 ms later; `RS_HOLD` may hold the die on. -/
def execCommandProcessorWatchdogRelease (d : Nat) (s : State) : Host.Outcome State Fault Refusal :=
  .next (if !s.firmwareUp || !s.rs.wdHeld.getLsbD d || s.time < s.rs.wdSince.getD d 0 + 1000000 then s
    else
      let s := { s with rs := { s.rs with wdHeld := s.rs.wdHeld &&& ~~~(1 <<< d : BitVec 8) } }
      if s.rs.holdDie.getLsbD d then s else s.dieExit d)

/-! ## MODULE_COLD (14 R322, R328; 15 R349, R361) -/

/-- Everything that `MODULE_COLD` reaches returns to its value at `State.reset`. What stays is the backup domain, flash and fuses, the pins, the
host's memory, the PLL, the TAP, a trip, and what the peers of the ports were last sent (12 R301). -/
def State.afterCold (s : State) : State :=
  { State.reset with
    pending := s.pending, outbox := s.outbox, freeSeq := s.freeSeq, nextId := s.nextId, clk := s.clk, fuse := s.fuse, flash := s.flash
    hostMem := s.hostMem, pins := { s.pins with sbAlertN := true }
    rs := { Rs.reset with counts := s.rs.counts, vbatLost := s.rs.vbatLost }
    lc := { Lc.reset with st := fusedState s.fuse.lcFuse, meas := [s.lc.meas.getD 0 0, 0, 0, 0, 0] }
    pw := { Pw.reset with tripped := s.pw.tripped }
    fx := { Fx.reset with ports := s.fx.ports.map (fun (p : Port) => { Port.reset with sentInc := p.sentInc }) }
    health := { fenced := 0, causes := s.health.causes, bridgeOos := 0, rlinkOos := 0, stopFail := 0, atRisk := [], fenceWait := [] }
    side := { dynAddr := none, eid := 0, tap := s.side.tap, console := [], spdm := .idle, activating := false } }.gateTap

/-- Assert `MODULE_COLD` for the cause with a counter index. Where it is already in force, or POR governs, only the registers that name the
cause tell: the one asserted last. -/
def State.enterCold (s : State) (cause : Nat) (pll : Bool) : State :=
  let s := s.countReset cause
  let t := if s.rs.boot = .por || s.rs.boot = .cold then s else s.afterCold.newNonce
  { t with rs := { t.rs with last := BitVec.ofNat 4 cause, pllRelock := pll } }

/-- G_var is stored in flash at each orderly reset (15 R361). -/
def State.storeGvar (s : State) : State :=
  if s.firmwareUp then { s with flash := { s.flash with gvar := some s.pw.gvar } } else s

/-- A low on a reset pin counts: 1 µs or more always does, a low of 100 ns or more may pass the
glitch filter, a shorter one does not (17 R390). -/
def lowCounts (ns : Nat) (counts : Bool) : Bool := decide (1000 ≤ ns) || (counts && 100 ≤ ns)

/-- PERST_N_ASSERT: a falling edge of the pin (14 R337), which has risen before it while another source held the module where it was low. -/
def execPerstNAssert (ns : Nat) (counts : Bool) (s : State) : Host.Outcome State Fault Refusal :=
  .next (if !s.pins.v3p3sb || !lowCounts ns counts then s
    else
      let s := { s with pins := { s.pins with perstN := false } }
      s.storeGvar.enterCold 1 false)

/-- MOD_RST_N_ASSERT. -/
def execModRstNAssert (ns : Nat) (counts : Bool) (s : State) : Host.Outcome State Fault Refusal :=
  .next (if !s.pins.v3p3sb || !lowCounts ns counts then s
    else
      let s := { s with pins := { s.pins with modRstN := false } }
      s.storeGvar.enterCold 2 false)

/-- PACKAGE_CONTROLLER_WATCHDOG: 2 s without service by the package controller's firmware. -/
def execPackageControllerWatchdog (s : State) : Host.Outcome State Fault Refusal :=
  .next (if s.firmwareUp then s.enterCold 4 false else s)

/-- PLL_LOCK_LOSS: the clocks stop, `MODULE_COLD` is asserted under counter 4, and the PLL is restarted. -/
def execPllLockLoss (s : State) : Host.Outcome State Fault Refusal :=
  .next (if !s.clk.pllLocked then s
    else
      let s := { s with clk := { s.clk with pllLocked := false, stopped := true, restarts := 1 } }
      s.enterCold 4 true)

/-- PLL_RESTART_RETRY: the PLL has locked after a restart, or is restarted again. -/
def execPllRestartRetry (locked : Bool) (s : State) : Host.Outcome State Fault Refusal :=
  .next (if s.clk.pllLocked || s.clk.restarts = 0 then s
    else if locked then { s with clk := { s.clk with pllLocked := true } }
    else { s with clk := { s.clk with restarts := s.clk.restarts + 1 } })

/-! ## POR (14 R322, R323; 17 R394 to R398) -/

/-- POR: everything that `MODULE_COLD` reaches, the main PLL and a trip. It counts on each assertion. -/
def execPor (source : PorSource) (s : State) : Host.Outcome State Fault Refusal :=
  .next (
    let pins := match source with
      | .supply48 => { s.pins with v48 := false }
      | .over62 => { s.pins with v48 := false }
      | .standby => { s.pins with v3p3sb := false }
      | .regulator => s.pins
    let s := { s with pins := { pins with modPwrgd := false, thermtripN := true } }
    if s.rs.boot = .por then s
    else
      let t := (s.countReset 0).afterCold.newNonce
      { t with clk := { t.clk with pllLocked := false, stopped := false, restarts := 0 }, pw := { t.pw with tripped := false },
               rs := { t.rs with last := 0, boot := .por } }.gateTap)

/-- POWER_UP: one supply or both come into range (17 R394). Where the backup domain had lost both of its own, it restarts with its counters at 0
(R323). -/
def execPowerUp (v3p3sb vbatHeld : Bool) (s : State) (v48 : Bool := true) : Host.Outcome State Fault Refusal :=
  .next (if s.rs.boot != .por then s
    else
      let lost := v3p3sb && !s.pins.v3p3sb && !vbatHeld
      let rs := if lost then { s.rs with counts := List.replicate 16 0, vbatLost := true } else s.rs
      { s with pins := { s.pins with v48 := s.pins.v48 || v48, v3p3sb := s.pins.v3p3sb || v3p3sb, vbat := vbatHeld }, rs := rs })

/-- POR_RELEASE: every rail is in regulation; the pins, still low or not, govern now. The address straps are read (17 R400). -/
def execPorRelease (s : State) (strap : BitVec 2 := 0) : Host.Outcome State Fault Refusal :=
  .next (if s.rs.boot = .por && s.pins.v48 && s.pins.v3p3sb then
      { s with rs := { s.rs with boot := .cold }, pins := { s.pins with modPwrgd := true, straps := strap } }
    else s)

/-! ## Cold boot (14 R331 to R335) -/

/-- The option fields that the loader applies (R333). -/
def Flash.loaded (f : Flash) : OptFields :=
  if !f.optDigestOk || f.optFormat != 1 then OptFields.defaults
  else
    let o := f.optArea
    let d := OptFields.defaults
    { capDefault := if 1500 ≤ o.capDefault.toNat && o.capDefault.toNat ≤ 4000 then o.capDefault else d.capDefault
      hamperMaxWays := if o.hamperMaxWays.toNat ≤ 20 then o.hamperMaxWays else d.hamperMaxWays
      attribMode := if o.attribMode.toNat ≤ 1 then o.attribMode else d.attribMode
      arrayRamp := if o.arrayRamp.toNat ≤ 8 then o.arrayRamp else d.arrayRamp
      vfBar2Log2 := if 30 ≤ o.vfBar2Log2.toNat && o.vfBar2Log2.toNat ≤ 36 then o.vfBar2Log2 else d.vfBar2Log2
      pdetDefault := if o.pdetDefault.toNat ≤ 1 then o.pdetDefault else d.pdetDefault }

/-- G_var of each die at boot: the stored value plus 5 mV, at most 60, or 40 (15 R361). -/
def Flash.bootGvar (f : Flash) : List Nat := match f.gvar with
  | some g => g.map (fun v => min 60 (v + 5))
  | none => List.replicate 8 40

/-- COLD_BOOT: the last source of `MODULE_COLD` releases it, the PLL locks, the loader applies fuses and options, and the timebase starts. -/
def execColdBoot (s : State) : Host.Outcome State Fault Refusal :=
  .next (if s.rs.boot != .cold || s.pw.tripped || (s.clk.restarts != 0 && !s.clk.pllLocked) then s
    else
      let o := s.flash.loaded
      let bad := !s.flash.optDigestOk || s.flash.optFormat != 1
      let det := o.pdetDefault = 1 && o.capDefault = 4000
      let s := { s with
        time := 0, opt := o, clk := { s.clk with pllLocked := true, stopped := false, restarts := 0, dies := List.replicate 8 DieClk.reset }
        pins := { s.pins with perstN := true, modRstN := true }
        rs := { s.rs with boot := .loaded, optDefaulted := bad }
        lc := { s.lc with st := fusedState s.fuse.lcFuse, optDigest := s.flash.optDigest }
        pw := { s.pw with cap := o.capDefault.toNat, capHist := [(0, 65535)], pdet := det, gvar := s.flash.bootGvar } }.gateTap
      if o.pdetDefault = 1 && !det then s.error 0x11 3 0x71 2 else s)

/-- The fence list is applied before the dies are released (16 R378). -/
def State.applyFences (s : State) : State :=
  let f := if s.flash.fenceListOk then s.flash.fenceList &&& s.fuse.coreEn else 0
  let s := { s with health := { s.health with fenced := f } }
  let s := (maskBits 64 f.toNat).foldl (fun s n => s.updCore n (fun c => { c with held := true })) s
  if s.flash.fenceListOk then s else s.error 0x11 3 0x71 3

/-- The signature of a slot verifies and its security version is not below `OB_FW_SVN` (R335). -/
def State.slotPasses (s : State) (img : FwImage) : Bool := img.sigOk && decide (svnCount s.fuse.fwSvn ≤ img.svn)

/-- Firmware of the active slot starts: measured, the fence list applied, the dies released. -/
def State.startFirmware (s : State) (fallback : Bool) : State :=
  let img := s.flash.activeImage
  let s := ({ s with lc := { s.lc with version := img.version, svn := svnCount s.fuse.fwSvn, fallback := fallback } }).measure
  let s := if fallback then s.error 0x11 3 0x71 1 else s
  let s := s.applyFences
  (({ s with rs := { s.rs with boot := .starting, dieHeld := 0 } }).startPorts (List.range 16)).startExit .module

/-- IMAGE_VERIFIED. Where neither slot passes, the dies stay held in `DIE` reset. -/
def execImageVerified (s : State) : Host.Outcome State Fault Refusal :=
  .next (if s.rs.boot != .loaded || !s.outOfCold then s
    else
      let other := if s.flash.active then s.flash.slotA else s.flash.slotB
      if s.slotPasses s.flash.activeImage then s.startFirmware false
      else if s.slotPasses other then ({ s with flash := { s.flash with active := !s.flash.active } }).startFirmware true
      else { s with rs := { s.rs with boot := .imageFailed, dieHeld := 0xFF } })

/-- FIRMWARE_READY (R334 step 10, 13 R312 step 4). -/
def execFirmwareReady (s : State) : Host.Outcome State Fault Refusal :=
  .next (if s.rs.boot = .starting && s.outOfCold && !s.rs.warm then
      { s with rs := { s.rs with boot := .ready }, host := { s.host with ready := true } }
    else s)

/-! ## MODULE_WARM (14 R324, R328) -/

/-- Entry of `MODULE_WARM`. The memories of the next release are wiped, every instance and group is gone, the endpoint and the `MG_` block are
reset; the applied configuration, routes, package ID, RWS fields, cap, energies, timebase and held image stay. A fence that waited for an instance reset
waits no longer. -/
def State.enterWarm (s : State) (cause : Nat) : State :=
  let core := fun (c : Core) => { Core.reset with held := c.held, ues := c.ues }
  let t := { s with
    mem := [], back := [], deadMarks := [], poisonMarks := [], llc := [], poisonMode := 0, reqs := [], bankq := [], hist := []
    hbmEntries := [], replay := [], fillHold := [], health := { s.health with atRisk := [] }, cores := s.cores.map core, insts := [], cmds := [], mg := Mg.reset, cf := { s.cf with staged := none }
    hbm := s.hbm.map Stack.held, scrubEn := true, scrubH := 0x0C, rambler := none
    fx := { s.fx with ports := s.fx.ports.map Port.held, groups := [], txns := [], inbound := [] }
    host := HostIf.reset
    rs := { s.rs with holdDie := 0, holdRegion := 0, ready := 0, last := BitVec.ofNat 4 cause, boot := .starting, warm := true,
                      exiting := [] }
    pw := { s.pw with newCap := none, limCap := false, limTherm := false, limAlert := !s.pw.alerts.isEmpty,
                      limit := none, overTherm := false, forced := false, holdUntil := none, exitP7 := 0 }
    tl := { s.tl with pIn := 0, pFixed := 0, pMax := 0, hist := [], cj := List.replicate 8 0, bj := List.replicate 8 0, counts := [] }
    events := { s.events with pend := [], lost := 0, rate := [] }
    side := { s.side with spdm := .idle, activating := false } }
  ((t.capChanged s.effCap).setLevel 192).runFences

/-- MODULE_WARM: a write of `WARM` by the manager, or a request of the sideband, which counts even while the reset is in force. -/
def execModuleWarm (source : WarmSource) (s : State) : Host.Outcome State Fault Refusal :=
  .next (
    let cause := if source = .register then 6 else 7
    let heard := match source with
      | .register => s.running
      | .sideband => s.outOfCold && (s.rs.boot = .starting || s.rs.boot = .ready)
    if !heard then s
    else if s.rs.warm then s.countReset cause
    else (s.countReset cause).storeGvar.enterWarm cause)

/-- MODULE_WARM_RELEASE: every block has been held; what `RS_HOLD` held is released with it, and the exit sequence runs. A die that the
watchdog holds, and a region without a router stop, stay. -/
def execModuleWarmRelease (s : State) : Host.Outcome State Fault Refusal :=
  .next (if !s.rs.warm || !s.outOfCold then s
    else
      let s := { s with rs := { s.rs with warm := false, regionHeld := 0, dieHeld := s.rs.wdHeld } }
      (s.startPorts ((List.range 16).filter (fun p => !s.rs.dieHeld.getLsbD (dieOfPort p)))).startExit .module)

end Sys2Proof.Machine
end

