-- ==== Sys2Proof/Machine/Faults.lean ====
section
/-! DEFINITION. Faults inside the module: router stops, internal links, the flits lost with them, a core's checkers (16 R376, R380, R381). -/
namespace Sys2Proof.Machine

/-- Stop `stop` of region r is failed. -/
def State.stopFailed (s : State) (r stop : Nat) : Bool := s.health.stopFail.getLsbD (8 * r + stop)

/-- A second failed stop leaves a block of the region without one. -/
def State.blockCut (s : State) (r stop : Nat) : Bool :=
  4 ≤ stop && [4, 5, 6, 7].any (fun t => t != stop && s.stopFailed r t && Config.stopPair r (min stop t) (max stop t))

/-- ROUTER_STOP_FAILURE: the failure is recorded; a core stop fences its core; a block with no stop left holds its region in reset until
the next `MODULE_COLD`. -/
def execRouterStopFailure (region stop : Nat) (s : State) : Host.Outcome State Fault Refusal :=
  .next (if !s.firmwareUp || 16 ≤ region || 8 ≤ stop || s.stopFailed region stop || s.regionHold region then s
    else
      let s := { s with health := { s.health with stopFail := s.health.stopFail ||| (1 <<< (8 * region + stop)) } }
      let s := (s.losePart (.stop region)).error 0x0B 2 (0x40 + region) stop
      if stop < 4 then s.fenceCore (4 * region + stop) 3
      else if s.blockCut region stop then
        let s := (s.closeRegions [region]).abandonExits [.region region]
        { s with rs := { s.rs with stopHeld := s.rs.stopHeld ||| (1 <<< region) } }
      else s)

/-- LINK_OUT_OF_SERVICE: bridge link 0 to 11, or 12 + d for the region link of die d. -/
def execLinkOutOfService (link : Nat) (s : State) : Host.Outcome State Fault Refusal :=
  .next (if !s.firmwareUp then s
    else if link < 12 then
      if s.health.bridgeOos.getLsbD link then s
      else
        let s := s.losePart (.bridge link)
        ({ s with health := { s.health with bridgeOos := s.health.bridgeOos ||| (1 <<< link) } }).error 0x0C 2 (0x80 + link) 0
    else if link < 20 then
      if s.health.rlinkOos.getLsbD (link - 12) then s
      else
        let s := s.losePart (.region (link - 12))
        ({ s with health := { s.health with rlinkOos := s.health.rlinkOos ||| (1 <<< (link - 12)) } }).error 0x0C 2 (0x58 + (link - 12)) 0
    else s)

/-- INTERNAL_FLIT_LOSS: a request of a herd, or a command, whose flits were lost in a stop or link that failed while they were on their way; it ends
within 10 ms. -/
def execInternalFlitLoss (rid : Nat) (s : State) : Host.Outcome State Fault Refusal :=
  .next (s.clockRow (if !s.health.atRisk.any (fun p => p.1 = rid && decide (s.time ≤ p.2)) then s
    else
      let s := { s with health := { s.health with atRisk := s.health.atRisk.filter (fun p => p.1 != rid) } }
      match s.reqOf rid with
      | some x => s.failReq x .addressFault
      | none => match s.cmd? rid with
        | some c => if c.phase = .active then s.stopCmd rid .timeout (s.elapsedMs c) else s
        | none => s))

/-- CORE_CHECKER_ERROR. -/
def execCoreCheckerError (core : Nat) (s : State) : Host.Outcome State Fault Refusal :=
  .next (if s.firmwareUp && core < 64 then s.fenceCore core 2 else s)

end Sys2Proof.Machine
end

