-- ==== Sys2Proof/Machine/Host.lean ====
section
/-! DEFINITION. The host interface: BAR2, configuration requests, functions, link-side resets, ATS, and what the host answers to the module's
requests (13 R303 to R318). -/
namespace Sys2Proof.Machine

/-! ## BAR2 (R309 to R311) -/

/-- The BARs answer: the link is up and the firmware ready. -/
def State.hostUp (s : State) : Bool := s.running && s.host.linkUp

/-- A request of the host that is well formed: some bytes that do not cross 4 KiB, as PCIe requires. -/
def barShape (o len : Nat) : Bool := 0 < len && o / 4096 = (o + len - 1) / 4096

/-- A new BAR2 operation over the fabric, with its pieces. -/
def State.bar2Send (s : State) (inst fn len : Nat) (pieces : Nat → List (TxnOwner × Nat × Msg × List Byte)) : State :=
  let n := s.fresh
  let ps := pieces n.1
  let b : Bar2Op := { id := n.1, fn := fn, len := len, left := ps.length, got := [] }
  let t := { n.2 with host := { n.2.host with bar2 := n.2.host.bar2 ++ [b] } }
  match t.sendPieces inst ps with
  | .ok u => u
  | .wait => s
  | _ => s.emit (.pcieCa fn)

/-- BAR2_READ: performed after every earlier posted write of the function has been accepted (08 R200; a requester is the function that it names,
DESIGN CHOICE, log 76). -/
def execBar2Read (fn : Nat) (addr : Word64) (len : Nat) (tagged : Bool) (s : State) : Host.Outcome State Fault Refusal :=
  .next (
    let o := addr.toNat
    let s := s.drainPosted
    if !s.host.linkUp || !barShape o len || s.ideDrops fn tagged then s
    else if !s.hostUp || (fn != 0 && !s.vfTakes fn tagged) then s.emit (.pcieUr fn)
    else if s.postedOut fn then s
    else match s.bar2To fn .read o len with
      | .none => s.emit (.pcieUr fn)
      | .line l => s.fetchLine l 0 none false
      | .home i a => s.barHome i a len true (
        if (mgrSectors a len).any (fun sec => s.secPoisoned sec) then s.emit (.pciePoisoned fn)
        else s.emit (.pcieData fn (s.homeBytes a len)))
      | .remote i pa =>
        s.bar2Send i fn len (fun op => (granulesOf pa len).map (fun p =>
          (.bar2 op (p.1 - pa) (p.1 % 32) p.2, p.1, { Msg.to 1 0 with nsect := BitVec.ofNat 7 (secsOf p.1 p.2) }, []))))

/-- BAR2_WRITE: posted; a discarded one posts a record, but for a request that the function does not take at all. Without Relaxed Ordering it is
accepted only after every earlier posted write of the function; a write that has to wait does so in order (08 R200). -/
def execBar2Write (fn : Nat) (addr : Word64) (data : List Byte) (tagged : Bool) (s : State) (relaxed : Bool := false) :
    Host.Outcome State Fault Refusal :=
  .next (
    let o := addr.toNat
    let s := s.drainPosted
    if !barShape o data.length || !s.hostUp || s.ideDrops fn tagged || (fn != 0 && !s.vfTakes fn tagged) then s
    else if !relaxed && s.postedOut fn then s.postLater (.bar2 fn o data)
    else match s.bar2Put fn o data with
      | (t, true) => t
      | (t, false) => t.postLater (.bar2 fn o data))

/-- `AOP` of a PCIe AtomicOp (R311, 03 R81). -/
def atomAop : AtomKind → Nat
  | .fetchAdd => 0
  | .swap => 8
  | .cas => 9

/-- BAR2_ATOMICOP: an `ATOM` of equal size and kind at the home; the completion carries the value before it. -/
def execBar2Atomicop (fn : Nat) (addr : Word64) (kind : AtomKind) (size : Nat) (operand compare : Word64) (tagged : Bool) (s : State) :
    Host.Outcome State Fault Refusal :=
  .next (
    let o := addr.toNat
    let aop := atomAop kind
    let s := s.drainPosted
    if !s.host.linkUp || !(size = 4 || size = 8) || o % size != 0 || s.ideDrops fn tagged then s
    else if !s.hostUp || (fn != 0 && !s.vfTakes fn tagged) then s.emit (.pcieUr fn)
    else if s.postedOut fn then s
    else match s.bar2To fn .write o size with
      | .none => s.emit (.pcieUr fn)
      | .line l => s.fetchLine l 0 none false
      | .home i a => s.barHome i a size true (
        if s.secPoisoned (a / 32) then s.emit (.pciePoisoned fn)
        else
          let old := s.homeBytes a size
          let new := atomNew aop size (leNat old) (operand.toNat % 2 ^ (8 * size)) (compare.toNat % 2 ^ (8 * size))
          (s.homeWrite i a 0 (leBytes new size)).drainEvents.emit (.pcieData fn old))
      | .remote i pa =>
        let acc : LaneAcc := { lane := 0, va := o, pa := pa, size := size, data := operand.toNat % 2 ^ (8 * size), cmp := compare.toNat % 2 ^ (8 * size) }
        let m := { Msg.to 3 0 with nsect := 1, op := BitVec.ofNat 8 (aop + (if size = 8 then 16 else 0)),
                                   firstMask := BitVec.ofNat 32 ((2 ^ size - 1) * 2 ^ (pa % 32)) }
        s.bar2Send i fn size (fun op => [(.bar2 op 0 (pa % 32) size, pa, m, elemPayload aop [acc])]))

/-! ## Configuration space (R304, R312) -/

/-- The function exists on the bus. -/
def State.fnExists (s : State) (fn : Nat) : Bool := fn = 0 || (s.host.vfEn && decide (fn ≤ s.host.numVfs))

/-- Capabilities in configuration space: PCI Express and MSI-X, which the pointer at 0x34 begins (R303). -/
def capsOf : List Nat := [0x10, 0x11]

/-- Extended capabilities of a function, which begin at 0x100: of the PF AER, ACS, ARI, SR-IOV, PTM, Readiness Time Reporting, DOE and IDE, of a VF
ARI, ACS and ATS. No other is there (R303, R304, R313, R315). -/
def extCapsOf (fn : Nat) : List Nat := if fn = 0 then [0x01, 0x0D, 0x0E, 0x10, 0x1F, 0x22, 0x2E, 0x30] else [0x0E, 0x0D, 0x0F]

/-- Where a capability lies: those of a list apart, in its order, from 0x40 on, the first extended one at 0x100. The gaps between them are free
(log 77). -/
def capPlace (fn id : Nat) (ext : Bool) : Nat :=
  let before := (if ext then extCapsOf fn else capsOf).idxOf id
  (if ext then 0x100 else 0x40) + ((List.range before).map (fun k => 0x40 + 4 * (Config.capGap fn (if ext then k else k + 16) % 16))).sum

/-- The capability after one, in its list; 0 after the last. -/
def capNext (fn id : Nat) (ext : Bool) : Nat :=
  match ((if ext then extCapsOf fn else capsOf).dropWhile (fun k => k != id)).drop 1 with
  | k :: _ => capPlace fn k ext
  | [] => 0

/-- What a function's configuration space holds at an offset, where the spec states it: the list of its capabilities (R303), no Immediate Readiness
in the status register, the times of the Readiness Time Reporting capability (R313), of SR-IOV the numbers of R304 and ARI enabled, of ATS the
Invalidate Queue Depth of 32, the Smallest Translation Unit of 4 KiB and Enable (R315). The places and codes are those of PCI Express (PRESUMED, log
77); the other registers hold values that the spec does not give. -/
def State.cfgKnown (s : State) (fn offset : Nat) : Word → Word := fun free =>
  let packed := fun (fs : List (Nat × Nat)) => BitVec.ofNat 32 (packBits fs)
  let pf := fun (id k : Nat) => fn = 0 && offset = capPlace 0 id true + k
  match capsOf.find? (fun k => offset = capPlace fn k false), (extCapsOf fn).find? (fun k => offset = capPlace fn k true) with
  | some k, _ => packed [(k, 8), (capNext fn k false, 8), (bits free.toNat 31 16, 16)]
  | none, some k => packed [(k, 16), (bits free.toNat 19 16, 4), (capNext fn k true, 12)]
  | none, none =>
    if offset = 4 then free &&& 0xFFFEFFFF
    else if offset = 0x34 then packed [(capPlace fn 0x10 false, 8), (bits free.toNat 31 8, 24)]
    else if pf 0x22 4 then packed [((Config.readinessCode 1000).toNat, 12), ((Config.readinessCode 1000).toNat, 12), (0, 7), (1, 1)]
    else if pf 0x22 8 then packed [((Config.readinessCode 100).toNat, 12), (bits free.toNat 23 12, 12)]
    else if pf 0x10 8 then (free &&& 0xFFFFFFEE) ||| (if s.host.vfEn then 0x11 else 0x10)
    else if pf 0x10 12 then packed [(4096, 16), (4096, 16)]
    else if pf 0x10 16 then packed [(s.host.numVfs, 16), (bits free.toNat 31 16, 16)]
    else if pf 0x10 20 then packed [(1, 16), (1, 16)]
    else if fn != 0 && offset = capPlace fn 0x0F true + 4 then
      packed [(0, 5), (bits free.toNat 15 5, 11), (0, 5), (bits free.toNat 30 21, 10), (if (s.fnCfg fn).ats then 1 else 0, 1)]
    else free

/-- What a VF had configured is gone. -/
def State.dropVfs (s : State) : State :=
  { s with host := { s.host with fns := s.host.fns.filter (fun f => f.fn = 0), ats := [] } }

/-- VF_ENABLE: NumVFs 0 to 4,096 is taken while VF Enable is 0; clearing VF Enable removes the VFs. -/
def execVfEnable (numVfs : Nat) (enable : Bool) (s : State) : Host.Outcome State Fault Refusal :=
  .next (if !s.hostUp || 4096 < numVfs then s
    else if enable then
      if s.host.vfEn then s else { s with host := { s.host with numVfs := numVfs, vfEn := true } }
    else
      let t := s.dropVfs
      { t with host := { t.host with numVfs := numVfs, vfEn := false } })

/-- Send the messages of a function that are pending and not masked (R318). -/
def State.sendPending (s : State) (fn : Nat) : State :=
  let c := s.fnCfg fn
  let due := c.pendingBits.filter (fun v => !c.masked.contains v)
  if s.mute fn || !c.msixEn || c.fnMask then s
  else due.foldl (fun s v => s.emit (.msix fn v)) (s.updFn fn (fun c => { c with pendingBits := c.pendingBits.filter (fun v => !due.contains v) }))

/-- Work that waited for the host goes on: records that wait for a host ring, events, commands in progress. -/
def State.hostResume (s : State) (fn : Nat) : State :=
  if fn = 0 then (s.drainHeld .admin s.mg.queue.held).drainEvents
  else
    let qs := (s.inst? (fn - 1)).elim [] (fun i => i.queues)
    let s := qs.foldl (fun s q => s.drainHeld (.tenant (fn - 1) q.num) q.held) s
    ((s.instInFlight (fn - 1)).filter (fun c => c.phase = .active)).foldl (fun s c => s.cmdOn c.cid) s

/-- BUS_MASTER_ENABLE (R314). -/
def execBusMasterEnable (fn : Nat) (on : Bool) (s : State) : Host.Outcome State Fault Refusal :=
  .next (if !s.hostUp || !s.fnExists fn then s
    else
      let s := s.updFn fn (fun c => { c with busMaster := on })
      if on then (s.hostResume fn).sendPending fn else s)

/-- MSI-X vectors of a function (R306, R307). -/
def vectorsOf (fn : Nat) : Nat := if fn = 0 then 2048 else 8

/-- MSIX_UNMASK: one message for a pending bit, which clears. -/
def execMsixUnmask (fn vector : Nat) (s : State) (tagged : Bool := true) : Host.Outcome State Fault Refusal :=
  .next (if !s.hostUp || !s.fnExists fn || vectorsOf fn ≤ vector || s.ideDrops fn tagged || (fn != 0 && !s.vfTakes fn tagged) then s
    else (s.updFn fn (fun c => { c with masked := c.masked.erase vector })).sendPending fn)

/-- The host writes a field of configuration space. A function that stops or starts translating keeps no translation (PRESUMED of ATS, log 21), and
what waited for one goes on untranslated. -/
def State.cfgWrite (s : State) (fn : Nat) : CfgWrite → State
  | .msixEnable on => (s.updFn fn (fun c => { c with msixEn := on })).sendPending fn
  | .functionMask on => (s.updFn fn (fun c => { c with fnMask := on })).sendPending fn
  | .atsEnable on =>
    if fn = 0 then s
    else
      let t := { s with host := { s.host with ats := s.host.ats.filter (fun a => a.inst + 1 != fn) } }
      (t.updFn fn (fun c => { c with ats := on })).hostResume fn

/-- CONFIG_REQUEST. Before the firmware is ready the PF answers with RRS; where no firmware slot passed, from 1 s on with Unsupported
Request (14 R335). -/
def execConfigRequest (fn offset : Nat) (s : State) (write : Option CfgWrite := none) : Host.Outcome State Fault Refusal :=
  .next (s.clockRow (if !s.host.linkUp then s
    else if !s.host.ready then
      if s.rs.boot = .imageFailed && oneSec ≤ s.time then s.emit (.pcieUr fn)
      else if offset = 0 && write.isNone && Config.rrsVisible then s.emit (.cfgValue fn 1)
      else s.emit (.cfgRrs fn)
    else if !s.fnExists fn then s.emit (.pcieUr fn)
    else match write with
      | some w => (s.cfgWrite fn w).emit (.cfgWritten fn)
      | none =>
        if offset = 0 then s.emit (.cfgValue fn (Config.vendorId fn))
        else
          let free := BitVec.ofNat 32 s.free.1
          s.free.2.emit (.cfgValue fn (s.cfgKnown fn offset free))))

/-! ## Link-side resets (R312, R314) -/

/-- `EN` of the admin queue becomes 0: it stops after the running command (09 R231). -/
def State.adminStop (s : State) : State :=
  let s := s.dropWaiting (fun q => q = .admin)
  let q : Queue := if s.mg.queue.st = .disabled then s.mg.queue else { s.mg.queue with st := .quiesced }
  ({ s with mg := { s.mg with en := false, queue := q } }).adminIdle

/-- Requests of the module that wait for the host end with an error of the endpoint's Blanket (14 R326). -/
def State.hostLost (s : State) : State :=
  let s := (s.reqs.filter (fun (x : Req) => x.target = .host)).foldl (fun s x => if (s.reqOf x.rid).isSome then s.failReq x .addressFault else s) s
  (s.portTxns 16).foldl (fun s t =>
    if s.fx.txns.any (fun u => u.port = 16 && u.num = t.num) then s.failTxn t .addressFault .addressFault t.dst else s) s

/-- Every TDI that is locked or runs enters `ERROR` (R320). -/
def State.allTdiError (s : State) : State := (s.insts.map (fun i => i.id)).foldl (fun s i => s.tdiError i) s

/-- HOT_RESET (also Link Disable and DL_Down): the endpoint alone is reset, and instances, HBM and fabric keep running. -/
def execHotReset (s : State) : Host.Outcome State Fault Refusal :=
  .next (s.clockRow (if !s.host.linkUp || !s.pins.perstN then s
    else
      let s := (s.countReset 14).allTdiError.hostLost
      let fails := s.host.bar2.foldl (fun s b => s.bar2Drop b.id) s
      ({ fails with host := { HostIf.reset with ready := fails.host.ready } }).adminStop))

/-- PF_FLR. -/
def execPfFlr (s : State) : Host.Outcome State Fault Refusal :=
  .next (if !s.hostUp then s
    else
      let s := s.allTdiError
      ({ s with host := { s.host with fns := [], ats := [], vfEn := false, numVfs := 0 } }).adminStop)

/-- VF_FLR: a reset of the whole instance (10 R239), and the function's own registers. -/
def execVfFlr (vf : Nat) (s : State) : Host.Outcome State Fault Refusal :=
  .next (if !s.hostUp || vf = 0 || !s.fnExists vf then s
    else
      let go := fun (s : State) =>
        { s with host := { s.host with fns := s.host.fns.filter (fun f => f.fn != vf), ats := s.host.ats.filter (fun a => a.inst + 1 != vf) } }
      if (s.inst? (vf - 1)).isSome then s.withRings s (vf - 1) (fun s => go (s.resetWhole (vf - 1))) else go s)

/-- PCIE_LINK_UP: the link trains independently of the firmware; below x16 or 128 GT/s it posts a record (R303). -/
def execPcieLinkUp (width rate : Nat) (s : State) : Host.Outcome State Fault Refusal :=
  .next (if !s.outOfCold || s.rs.warm || s.host.linkUp || !([4, 8, 16].contains width && [16, 32, 64, 128].contains rate) then s
    else
      let s := { s with host := { s.host with linkUp := true, width := width, rate := rate } }
      if width = 16 && rate = 128 then s else s.error 0x0F 3 0x70 1)

/-! ## ATS (R315, R316) -/

/-- ATS_TRANSLATION_COMPLETION: the translation is kept, and commands and records that waited for it go on. -/
def execAtsTranslationCompletion (inst page : Nat) (readable writable : Bool) (s : State) (at_ : Nat := 0) : Host.Outcome State Fault Refusal :=
  .next (if !s.hostUp || (s.inst? inst).isNone || !(s.fnCfg (inst + 1)).ats then s
    else
      let rest := s.host.ats.filter (fun t => !(t.inst = inst && t.page = page))
      let s := { s with host := { s.host with ats := { inst := inst, page := page, at_ := at_, readable := readable, writable := writable } :: rest } }
      let s := ((s.inst? inst).elim [] (fun i => i.queues)).foldl (fun s q => s.drainHeld (.tenant inst q.num) q.held) s
      ((s.instInFlight inst).filter (fun c => c.phase = .active)).foldl (fun s c => s.cmdOn c.cid) s)

/-- An access of an instance to a host page has not completed at the host. -/
def State.hostPageBusy (s : State) (inst page : Nat) : Bool :=
  s.reqs.any (fun (x : Req) => x.target = .host && x.inst = inst && x.lanes.any (fun l => l.pa / 4096 = page))
    || s.fx.txns.any (fun t => t.port = 16 && s.ownerInst t.owner = some inst && t.addr / 4096 = page)

/-- INVALIDATE_REQUEST: answered once every access under the translation has completed at the host. -/
def execInvalidateRequest (vf page : Nat) (s : State) : Host.Outcome State Fault Refusal :=
  .next (if !s.hostUp || vf = 0 || s.hostPageBusy (vf - 1) page then s
    else
      let s := { s with host := { s.host with ats := s.host.ats.filter (fun t => !(t.inst + 1 = vf && t.page = page)) } }
      s.emit (.invalidateDone vf page))

/-! ## What the host answers (R315, 03 R82, 08 R183) -/

/-- A host AtomicOp has been performed: the host's memory holds its result. -/
def State.hostAtomDone (s : State) (a aop size old op cmp : Nat) : State :=
  { s with hostMem := writeBytes s.hostMem a (leBytes (atomNew aop size old op cmp) size) }

/-- A completion for a request of a thread. -/
def State.hostReqDone (s : State) (x : Req) (reply : HostReply) (data : List Byte) : State :=
  let l := x.lanes.headD { lane := 0, va := 0, pa := 0, size := 4, data := 0, cmp := 0 }
  if reply != .ok then s.failReq x .addressFault
  else
    let s := match x.kind with
      | .atomic aop size => s.hostAtomDone l.pa aop size (leNat data) l.data l.cmp
      | _ => s
    s.reqData x l.pa data

/-- A completion for a request of a command. -/
def State.hostTxnDone (s : State) (t : Txn) (reply : HostReply) (data : List Byte) : State :=
  if reply != .ok then s.failTxn t .addressFault .addressFault t.dst
  else
    let s := s.endTxn t.port t.num
    match t.owner with
    | .cmd cid => match s.cmd? cid with
      | none => s
      | some c =>
        let s := if c.opcode = 3 then s.hostAtomDone t.addr 0 8 (leNat data) (c.field 24 8) 0 else s
        s.cmdResponse cid 0 false false (List.replicate (c.field 16 8 % 32) 0 ++ data)
    | .dma cid parts => s.dmaResponse cid 0 parts false false data
    | .ring q => s.ringData q t.num (some data)
    | _ => s

/-- PCIE_COMPLETION of the module's request `rid`; or the host's rejection of an MSI-X message, which is not sent again and posts a record (R318;
that this row stands for it too is the model's choice, log 18). -/
def execPcieCompletion (rid : Nat) (reply : HostReply) (data : List Byte) (s : State) (message : Bool := false) :
    Host.Outcome State Fault Refusal :=
  .next (if !s.hostUp then s
    else if message then (if reply = .ok then s else s.error 0x0F 3 0x70 2)
    else match s.reqs.find? (fun (x : Req) => x.rid = rid && x.target = .host) with
    | some x => s.hostReqDone x reply data
    | none => match s.fx.txns.find? (fun t => t.port = 16 && t.num = rid) with
      | some t => s.hostTxnDone t reply data
      | none => s)

end Sys2Proof.Machine
end

