-- ==== Sys2Proof/Machine/HostSec.lean ====
section
/-! DEFINITION. IDE streams, TDISP and SPDM (13 R319 to R321, 14 R338, R346). -/
namespace Sys2Proof.Machine

/-- Streams: 0 the Link stream, 1 to 64 the Selective ones. -/
def ideStreams : Nat := 65

/-- IDE_KM, in a secured SPDM session on the DOE mailbox: keys of a stream are programmed and the stream is Secure, or they are refreshed without
stopping its traffic. -/
def execIdeKm (stream : Nat) (refresh : Bool) (s : State) : Host.Outcome State Fault Refusal :=
  .next (if !s.hostUp || s.host.doe != .secured || ideStreams ≤ stream then s
    else if refresh then (if s.host.keys.contains stream then s.emit (.ideReady stream) else s)
    else
      let t := { s with host := { s.host with keys := insertNat s.host.keys stream, ide := s.host.ide.set stream .secure } }
      t.emit (.ideReady stream))

/-- IDE_INTEGRITY_FAILURE: the stream becomes Insecure, a record is posted, and every TDI bound to it enters `ERROR`. -/
def execIdeIntegrityFailure (stream : Nat) (s : State) : Host.Outcome State Fault Refusal :=
  .next (s.clockRow (if !s.host.linkUp || s.host.ide.getD stream .insecure != .secure then s
    else
      let s := { s with host := { s.host with ide := s.host.ide.set stream .insecure, keys := s.host.keys.erase stream } }
      let s := s.error 0x0F 3 0x70 3
      ((s.insts.filter (fun i => i.tdiStream = stream)).map (fun i => i.id)).foldl (fun s i => s.tdiError i) s))

/-- Code of a TDI state. -/
def TdiState.code : TdiState → Nat
  | .unlocked => 0
  | .locked => 1
  | .run => 2
  | .error => 3

/-- The state that a TDISP request is answered with. -/
def State.tdiAnswer (s : State) (vf : Nat) : State := s.emit (.tdispState vf ((s.inst? (vf - 1)).elim 0 (fun i => i.tdi.code)))

/-- A TDISP request reaches the TDI of an enabled VF that serves an instance. -/
def State.tdiRow (s : State) (vf : Nat) (go : Inst → State) : State :=
  if !s.hostUp || vf = 0 || !s.fnExists vf then s
  else match s.inst? (vf - 1) with
    | none => s
    | some i => (go i).tdiAnswer vf

/-- The interface report of a VF: each range of its BARs as the BAR's number, its offset and its bytes (R320). -/
def State.interfaceReport (s : State) : List (Nat × Nat × Nat) :=
  (List.range 4).map (fun k => (0, 0x10000 * k, 0x10000)) ++ [(2, 0, 2 ^ s.opt.vfBar2Log2.toNat)]

/-- TDI_LOCK: from `CONFIG_UNLOCKED`, in `DEPLOYED` only. -/
def execTdiLock (vf stream : Nat) (s : State) : Host.Outcome State Fault Refusal :=
  .next (s.tdiRow vf (fun i =>
    if i.tdi = .unlocked && s.lc.st = 2 && stream < ideStreams then s.updInst i.id (fun i => { i with tdi := .locked, tdiStream := stream })
    else s))

/-- TDI_START: from `CONFIG_LOCKED` to `RUN`. -/
def execTdiStart (vf : Nat) (s : State) : Host.Outcome State Fault Refusal :=
  .next (s.tdiRow vf (fun i => if i.tdi = .locked then s.updInst i.id (fun i => { i with tdi := .run }) else s))

/-- STOP_INTERFACE: the whole instance is reset, and the TDI is unlocked. -/
def execStopInterface (vf : Nat) (s : State) : Host.Outcome State Fault Refusal :=
  .next (s.tdiRow vf (fun i =>
    if i.tdi = .unlocked then s
    else s.withRings s i.id (fun s => (s.resetWhole i.id).updInst i.id (fun i => { i with tdi := .unlocked, tdiStream := 0 }))))

/-- The measurements that SPDM reports: 1 to 6 in order, the fifth read live (14 R346). -/
def State.measurements (s : State) : List Byte :=
  let m := fun k => s.lc.meas.getD k 0
  leBytes (m 0) 48 ++ leBytes (m 1) 48 ++ leBytes (m 2) 49 ++ leBytes (m 3) 99
    ++ s.rs.counts.flatMap (fun n => leBytes n.toNat 4) ++ [if s.rs.vbatLost then 1 else 0] ++ leBytes (m 4) 6

/-- Largest data object of the DOE mailbox. -/
def doeMax : Nat := 65536

/-- Answer to DOE Discovery of an index: vendor, type and next index. The mailbox serves the types 0 DOE Discovery, 1 CMA/SPDM and 2 Secured
CMA/SPDM (R321; layout: log 102). -/
def doeDiscovery (index : Nat) : List Byte :=
  if index = 0 then [1, 0, 0, 1] else if index = 1 then [1, 0, 1, 2] else if index = 2 then [1, 0, 2, 0] else [0xFF, 0xFF, 0xFF, 0]

/-- PRESUMED (log 102). `VERSION`: SPDM 1.2 and 1.3 (R321). -/
def spdmVersions : List Byte := [0x10, 0x04, 0, 0, 0, 2, 0x00, 0x12, 0x00, 0x13]

/-- PRESUMED (log 102). `ALGORITHMS`: ECDSA P-384, SHA-384, ECDHE on P-384, AES-256-GCM (R321). -/
def spdmAlgorithms (version : Byte) : List Byte :=
  [version, 0x63, 2, 0, 44, 0, 1, 0] ++ leBytes 4 4 ++ leBytes 0x80 4 ++ leBytes 2 4 ++ leBytes 0 12 ++ [0, 0, 0, 0]
    ++ [2, 0x20, 0x10, 0] ++ [3, 0x20, 2, 0]

/-- The session of a path after a request: `GET_VERSION` ends it, `KEY_EXCHANGE`, then `FINISH` within it, make it secured, and `END_SESSION` ends it
(log 102). -/
def Spdm.next (now : Spdm) (code : Nat) (secured accepted : Bool) : Spdm :=
  match now, secured with
  | .idle, false => if code = 0xE4 && accepted then .handshake else .idle
  | .handshake, true => if code = 0xE5 && accepted then .secured else .handshake
  | .secured, true => if code = 0xEC then .idle else .secured
  | now, false => if code = 0x84 then .idle else now
  | .idle, true => .idle

/-- The session of the DOE mailbox or of the sideband; the two are independent (R321, 17 R399). -/
def State.spdmOf (s : State) (doe : Bool) : Spdm := if doe then s.host.doe else s.side.spdm

/-- See `State.spdmOf`. -/
def State.setSpdm (s : State) (doe : Bool) (x : Spdm) : State :=
  if doe then { s with host := { s.host with doe := x } } else { s with side := { s.side with spdm := x } }

/-- What the responder answers: the versions, an error to another version, the algorithms, or what SPDM fixes (log 15, log 102). -/
def State.spdmReply (s : State) (path fresh : Nat) (request : List Byte) : List Byte :=
  let version := request.getD 0 0
  let code := (request.getD 1 0).toNat
  if path ≤ 1 && code = 0x84 then spdmVersions
  else if version != 0x12 && version != 0x13 then [0x10, 0x7F, 0x41, 0]
  else if path ≤ 1 && code = 0xE3 then spdmAlgorithms version
  else Config.spdmAnswer path fresh request s.measurements

/-- A path of SPDM_REQUEST is served: the DOE mailbox from the time the firmware is ready, the sideband while firmware runs (R321, 17 R399). -/
def State.spdmUp (s : State) (path : Nat) (request : List Byte) : Bool :=
  if path = 1 || path = 4 then s.firmwareUp else path ≤ 3 && s.hostUp && request.length ≤ doeMax

/-- SPDM_REQUEST. Paths: 0 SPDM on the DOE mailbox, 1 SPDM on the sideband, 2 DOE Discovery, 3 and 4 a message within the session of path 0 or 1;
without a session such a message is discarded. -/
def execSpdmRequest (path : Nat) (request : List Byte) (s : State) : Host.Outcome State Fault Refusal :=
  .next (
    let doe := path = 0 || path = 3
    let secured := 3 ≤ path
    if !s.spdmUp path request then s
    else if path = 2 then s.emit (.spdm 2 (doeDiscovery (request.getD 0 0).toNat))
    else if secured && s.spdmOf doe = .idle then s
    else
      let r := s.free
      let next := (s.spdmOf doe).next (request.getD 1 0).toNat secured (Config.spdmAccepts r.1 request)
      (r.2.setSpdm doe next).emit (.spdm path (s.spdmReply path r.1 request)))

end Sys2Proof.Machine
end

