-- ==== Sys2Proof/Machine/Registers.lean ====
section
/-! DEFINITION. The register blocks of PF BAR0 and VF BAR0: what every register reads, and the writes to fields that have no behaviour of
their own (00 R7 to R10, 13 R306 to R308 and the register tables of the other chapters). -/
namespace Sys2Proof.Machine

/-- The 32-bit half of a 64-bit value that an offset names. -/
def half64 (v off : Nat) : Nat := if off % 8 < 4 then v % 2 ^ 32 else v / 2 ^ 32 % 2 ^ 32

/-- A flag at bit `k`. -/
def flagAt (b : Bool) (k : Nat) : Nat := if b then 2 ^ k else 0

/-! ## Reading -/

/-- Code of a queue state (09 R205). -/
def QState.code : QState → Nat
  | .disabled => 0
  | .running => 1
  | .halted => 2
  | .faulted => 3
  | .quiesced => 4
  | .resetting => 5
  | .ringFault => 6

/-- The registers of a doorbell block; the doorbells read 0 (09 R205). -/
def Queue.readWord (q : Queue) (o : Nat) : Nat :=
  if o = 0x10 then q.sqHead
  else if o = 0x14 then q.st.code + flagAt q.cqFull 3 + flagAt q.dbErr 4
  else 0

/-- `MG_` (09 R231). -/
def State.readMg (s : State) (o : Nat) : Nat :=
  if o < 8 then half64 (s.mg.sqAddr.toNat * 4096) o
  else if o < 16 then half64 (s.mg.cqAddr.toNat * 4096) o
  else if o = 0x10 then s.mg.sqLog2.toNat + s.mg.cqLog2.toNat * 2 ^ 5 + flagAt s.mg.en 10 + s.mg.vector.toNat * 2 ^ 16
  else if o = 0x18 then s.mg.wdMs.toNat
  else if 0x40 ≤ o && o < 0x80 then s.mg.queue.readWord (o - 0x40)
  else 0

/-- Slots of a core in the pool, as a mask (10 R256). -/
def State.slotMask (s : State) (n : Nat) : Nat :=
  if !s.coreEnabled n || s.coreFenced n then 0
  else (((List.range 64).filter (fun k => !(s.core n).slots.any (fun x => x.num = k))).map (fun k => 2 ^ k)).sum

/-- Live cores and arrays (16 R386). -/
def State.liveCores (s : State) : List Nat := (List.range 64).filter (fun n => s.coreEnabled n && !s.coreFenced n)
/-- Number of live arrays. -/
def State.liveArrays (s : State) : Nat := (s.liveCores.map (fun n => (s.arraysOf n).length)).sum

/-- `GRADE_EFF`: the highest ordering code whose minimums the live resources meet (00 R1, 16 R386). -/
def State.gradeEff (s : State) : Nat :=
  let c := s.liveCores.length
  let a := s.liveArrays
  let g := s.fuse.stackGib.toNat
  if 64 ≤ c && 256 ≤ a && 64 ≤ g then 1 else if 60 ≤ c && 232 ≤ a && 64 ≤ g then 2 else if 56 ≤ c && 208 ≤ a && 48 ≤ g then 3 else 0xF

/-- `IN_LINK_OOS`: links that failed, and the link ends of dies that are held (16 R381, R387). -/
def State.linkOos (s : State) : Nat :=
  let held := fun d => s.rs.dieHeld.getLsbD d
  ((List.range 12).map (fun l => flagAt (s.health.bridgeOos.getLsbD l || held (bridgeEnds l).1 || held (bridgeEnds l).2) l)).sum
    + ((List.range 8).map (fun d => flagAt (s.health.rlinkOos.getLsbD d || held d) (12 + d))).sum

/-- `IN_HALF` of region r (10 R256). -/
def State.halfWord (s : State) (r : Nat) : Nat :=
  let h := (s.region r).h
  h + (maskBits 20 (s.hamperHeld r).toNat).length * 2 ^ 5 + s.privHeld r * 2 ^ 10 + (23 - h - s.privHeld r) * 2 ^ 15
    + (256 - s.channelsHeld r) / 8 * 2 ^ 20

/-- `IN_` (10 R256, 16 R387). -/
def State.readIn (s : State) (o : Nat) : Nat :=
  if o < 8 then
    let slots := ((List.range 64).map (fun n => (maskBits 64 (s.slotMask n)).length)).sum
    half64 (s.insts.length + slots * 2 ^ 13 + (16384 - (s.insts.map (fun i => i.queues.length)).sum) * 2 ^ 32) o
  else if o = 8 then s.hbmBytes / hbmUnit - unionUnits (s.insts.flatMap (fun i => i.extents))
  else if o = 0x10 || o = 0x14 then half64 s.health.fenced.toNat o
  else if o = 0x18 then s.gradeEff + s.liveCores.length * 2 ^ 4 + s.liveArrays * 2 ^ 11
  else if o = 0x1C then s.linkOos
  else if 0x20 ≤ o && o < 0x30 then bits s.health.stopFail.toNat (8 * (o - 0x20) + 31) (8 * (o - 0x20))
  else if 0x40 ≤ o && o < 0x80 then s.halfWord ((o - 0x40) / 4)
  else if 0x100 ≤ o && o < 0x300 then half64 (s.slotMask ((o - 0x100) / 8)) o
  else 0

/-- `CF_` (10 R255). -/
def State.readCf (s : State) (o : Nat) : Nat :=
  if o = 0 then s.cf.token.toNat
  else if o = 4 then s.cf.pendingRegions.toNat + flagAt s.cf.staged.isSome 16
  else if o = 8 then s.cf.stall.toNat
  else 0

/-- `HB_` (11 R277). -/
def State.readHb (s : State) (o : Nat) : Nat :=
  let k := s.stack (o / 0x40)
  let f := o % 0x40
  if o = 0x400 then flagAt s.scrubEn 0 + s.scrubH.toNat * 2 ^ 4
  else if 0x400 ≤ o then 0
  else if f = 0 then
    let ms := if k.step = 3 then min ((s.time - k.heldSince) / 1000000) 0xFFFF else 0
    k.tempC.toNat + k.step.toNat * 2 ^ 8 + flagAt k.trained 11 + flagAt (k.pcFail != 0) 12 + ms * 2 ^ 16
  else if f = 8 || f = 0xC then half64 k.pcFail.toNat f
  else if f = 0x10 then k.dq.toNat + k.ca.toNat * 2 ^ 8
  else if f = 0x14 then k.ce.toNat
  else if f = 0x18 then k.ue.toNat
  else 0

/-- A port block of `FX_`; the incarnation of a port whose die is held reads 0 (12 R302). -/
def State.readPort (s : State) (p f : Nat) : Nat :=
  let x := s.port p
  if f = 0 then flagAt x.en 0 + flagAt x.rateCap 1
  else if f = 4 then x.st.code + flagAt x.training 2 + flagAt x.width2 3 + flagAt x.half 4 + x.spareFor.toNat * 2 ^ 5 + x.peerPkg.toNat * 2 ^ 8
    + flagAt x.peerValid 20 + flagAt x.peerReady 21 + x.peerPort.toNat * 2 ^ 22
  else if f = 8 then (if s.rs.dieHeld.getLsbD (dieOfPort p) then 0 else x.inc.toNat)
  else if f = 0xC then x.peerInc.toNat
  else if f = 0x10 then x.crcErr.toNat
  else if f = 0x14 then x.replays.toNat
  else if f = 0x18 then x.losses.toNat
  else 0

/-- `FX_` (12 R302). -/
def State.readFx (s : State) (o : Nat) : Nat :=
  if o = 0 then s.fx.pkgId.toNat + flagAt s.fx.valid 31
  else if o = 4 then s.fx.txnTimeout.toNat
  else if 0x100 ≤ o && o < 0x500 then s.readPort ((o - 0x100) / 0x40) ((o - 0x100) % 0x40)
  else 0

/-- `PW_` (15 R368). -/
def State.readPw (s : State) (o : Nat) : Nat :=
  if o = 0 then s.preqRead
  else if o = 4 then s.pw.cap % 65536 + flagAt s.pw.pdet 16
  else if o = 8 then s.pwStatus
  else if o = 0xC then s.effCap % 65536
  else if o = 0x10 then s.pw.alertCount.toNat
  else if 0x40 ≤ o && o < 0x60 then s.pw.gvar.getD ((o - 0x40) / 4) 0 + 45 * 2 ^ 8
  else 0

/-- `TL_` (15 R369). -/
def State.readTl (s : State) (o : Nat) : Nat :=
  if o = 0 then s.tl.pIn.toNat + s.tl.pFixed.toNat * 2 ^ 16
  else if o = 4 then s.tl.pMax.toNat
  else if o = 8 || o = 0xC then half64 s.tl.energyIn.toNat o
  else if o = 0x10 || o = 0x14 then half64 s.tl.unattrib.toNat o
  else if 0x40 ≤ o && o < 0x60 then (s.tl.cj.getD ((o - 0x40) / 4) 0).toNat + (s.tl.bj.getD ((o - 0x40) / 4) 0).toNat * 2 ^ 8
  else if 0x80 ≤ o && o < 0xC0 then half64 (s.tl.eDie.getD ((o - 0x80) / 8) 0).toNat o
  else 0

/-- `RS_` (14 R347). `WARM` is write-only. -/
def State.readRs (s : State) (o : Nat) : Nat :=
  if o = 4 then s.rs.holdDie.toNat + s.rs.holdRegion.toNat * 2 ^ 8
  else if o = 8 then s.rs.dieHeld.toNat + ((List.range 16).map (fun r => flagAt (s.regionHold r) (8 + r))).sum
  else if o = 0xC then s.rs.ready.toNat
  else if o = 0x10 then s.rs.last.toNat + flagAt s.rs.vbatLost 4
  else if o = 0x14 then flagAt s.rs.optDefaulted 0 + flagAt s.rs.pllRelock 1
  else if 0x40 ≤ o && o < 0x80 then (s.rs.counts.getD ((o - 0x40) / 4) 0).toNat
  else 0

/-- `LC_` (14 R347). -/
def State.readLc (s : State) (o : Nat) : Nat :=
  if o = 0 then s.lc.st.toNat + flagAt (s.fuse.ownerKeyHash != 0) 3
  else if 0x10 ≤ o && o < 0x20 then bits s.fuse.deviceId.toNat (8 * (o - 0x10) + 31) (8 * (o - 0x10))
  else if 0x20 ≤ o && o < 0x30 then bits s.lc.nonce.toNat (8 * (o - 0x20) + 31) (8 * (o - 0x20))
  else if o = 0x30 then
    flagAt (s.lc.heldType != 0) 0 + s.lc.heldType.toNat * 2 + flagAt s.flash.active 3 + flagAt s.lc.fallback 4 + s.lc.svn * 2 ^ 5
  else if o = 0x34 then s.lc.version.toNat
  else 0

/-- The MSI-X table of a function, and its pending bit array (13 R306, R307, R318). -/
def State.readMsix (s : State) (fn : Nat) (pba : Bool) (o : Nat) : Nat :=
  let c := s.fnCfg fn
  if pba then
    (((List.range 32).filter (fun k => 8 * o + k < vectorsOf fn && c.pendingBits.contains (8 * o + k))).map (fun k => 2 ^ k)).sum
  else if vectorsOf fn ≤ o / 16 then 0
  else if o / 4 % 4 = 3 then flagAt (c.masked.contains (o / 16)) 0
  else (spGet c.table (o / 4)).toNat

/-- Herds of a context on all cores. -/
def State.liveHerds (s : State) (c : CtxRef) : Nat :=
  (s.cores.map (fun k => (k.herds.filter (fun h => h.inst = c.inst && h.ctx = c.ctx)).length)).sum

/-- A `CX_` block; one of a context that does not exist reads 0 (02 R57, 13 R306). -/
def State.readCx (s : State) (c : CtxRef) (f : Nat) : Nat :=
  match s.ctx? c with
  | none => 0
  | some x =>
    if f = 0 then flagAt x.deadchk 0 + flagAt x.wdEn 1
    else if f = 4 then x.wdPeriod.toNat
    else if f = 8 then s.ctxState c + s.liveHerds c * 2 ^ 3 + c.inst * 2 ^ 17
    else if f = 0x10 then x.cause.toNat + x.fCore.toNat * 2 ^ 4 + x.fHerd.toNat * 2 ^ 10 + x.fLane.toNat * 2 ^ 17 + flagAt x.fLaneValid 22
    else if f = 0x18 || f = 0x1C then half64 x.faultPc.toNat f
    else if f = 0x20 || f = 0x24 then half64 x.faultAddr.toNat f
    else if f = 0x28 then x.faultCount.toNat
    else if f = 0x2C then x.deadReread.toNat
    else 0

/-- A word of PF BAR0 (13 R306). -/
def State.readPf (s : State) (off : Nat) : Nat :=
  let o := off % 0x10000
  if 0x1000000 ≤ off then
    let x := off - 0x1000000
    s.readCx { inst := x / 0x1000, ctx := x % 0x1000 / 0x40 } (x % 0x40)
  else match off / 0x10000 with
    | 0 => s.readMg o
    | 1 => s.readIn o
    | 2 => s.readCf o
    | 3 => s.readHb o
    | 4 => s.readFx o
    | 5 => s.readPw o
    | 6 => s.readTl o
    | 7 => s.readRs o
    | 8 => s.readLc o
    | 9 => s.readMsix 0 false o
    | 10 => s.readMsix 0 true o
    | _ => 0

/-- A word of the BAR0 of VF `vf` (13 R307). -/
def State.readVf (s : State) (vf off : Nat) : Nat :=
  let o := off % 0x10000
  match off / 0x10000 with
  | 0 => if 0x1000 ≤ o then 0 else ((s.queue? (.tenant (vf - 1) (o / 0x40))).elim 0 (fun q => q.readWord (o % 0x40)))
  | 1 => if 0x1000 ≤ o then 0 else s.readCx { inst := vf - 1, ctx := o / 0x40 } (o % 0x40)
  | 2 => s.readMsix vf false o
  | 3 => s.readMsix vf true o
  | _ => 0

/-- Bytes of the BAR0 that a party reaches: a VF's, or else the PF's. -/
def bar0Bytes : Party → Nat
  | .manager => 0x2000000
  | .tenant _ => 0x40000
  | .untagged _ => 0x40000
  | .other => 0x2000000

/-- A BAR0 access of 4 or 8 aligned bytes within the window (13 R308). -/
def bar0Shape (p : Party) (off size : Nat) : Bool := (size = 4 || size = 8) && off % size = 0 && off + size ≤ bar0Bytes p

/-- What a word reads for a party; one without access reads 0 (00 R10). -/
def State.readWord (s : State) (p : Party) (off : Nat) : Nat :=
  match p with
  | .manager => s.readPf off
  | .tenant vf => s.readVf vf off
  | .untagged vf => s.readVf vf off
  | .other => 0

/-- What a read of BAR0 returns: none where it completes with Unsupported Request, also of a VF that takes no request, else its value, the lower
word first (13 R308, R320). -/
def State.readReg (s : State) (p : Party) (off size : Nat) : Option Nat :=
  if !s.running || !bar0Shape p off size || !s.partyUp p then none
  else some (s.readWord p off + if size = 8 then s.readWord p (off + 4) * 2 ^ 32 else 0)

/-! ## Writing fields without behaviour of their own -/

/-- A write of the low or high word of a ring address. -/
def putAddr (a : BitVec 52) (high : Bool) (v : Nat) : BitVec 52 :=
  if high then BitVec.ofNat 52 (a.toNat % 2 ^ 20 + v * 2 ^ 20) else BitVec.ofNat 52 (a.toNat / 2 ^ 20 * 2 ^ 20 + v / 4096)

/-- `MG_` (09 R231): with `EN` = 1 nothing but `EN` changes. `EN` itself has its own commands. -/
def State.writeMg (s : State) (o v : Nat) : State :=
  let mg := s.mg
  let addr := o < 16 && !mg.en
  let high := o % 8 = 4
  if addr && o < 8 then { s with mg := { mg with sqAddr := putAddr mg.sqAddr high v } }
  else if addr then { s with mg := { mg with cqAddr := putAddr mg.cqAddr high v } }
  else if o = 0x10 && !mg.en && !bit v 10 then
    { s with mg := { mg with sqLog2 := BitVec.ofNat 5 v, cqLog2 := BitVec.ofNat 5 (v / 2 ^ 5), vector := BitVec.ofNat 11 (v / 2 ^ 16) } }
  else if o = 0x18 && 10 ≤ v && v ≤ 60000 then { s with mg := { mg with wdMs := BitVec.ofNat 32 v } }
  else s

/-- `HB_` (11 R277): the counts are read and write (00 R9); a scrub period outside its range keeps the field. -/
def State.writeHb (s : State) (o v : Nat) : State :=
  let h := bits v 11 4
  if o = 0x400 then { s with scrubEn := bit v 0, scrubH := if 1 ≤ h && h ≤ 48 then BitVec.ofNat 8 h else s.scrubH }
  else if o < 0x400 && o % 0x40 = 0x14 then s.updStack (o / 0x40) (fun k => { k with ce := BitVec.ofNat 32 v })
  else if o < 0x400 && o % 0x40 = 0x18 then s.updStack (o / 0x40) (fun k => { k with ue := BitVec.ofNat 32 v })
  else s

/-- `FX_` (12 R302): before the lock the package ID; the transaction timeout; `RATE_CAP`; the counts. -/
def State.writeFx (s : State) (o v : Nat) : State :=
  let p := (o - 0x100) / 0x40
  let f := (o - 0x100) % 0x40
  if o = 0 then (if s.fx.valid || bit v 31 then s else { s with fx := { s.fx with pkgId := BitVec.ofNat 12 v } })
  else if o = 4 then
    (if 1 ≤ v % 65536 && v % 65536 ≤ 1000 then { s with fx := { s.fx with txnTimeout := BitVec.ofNat 16 v } } else s)
  else if o < 0x100 || 0x500 ≤ o then s
  else if f = 0 then s.updPort p (fun x => { x with rateCap := bit v 1 })
  else if f = 0x10 then s.updPort p (fun x => { x with crcErr := BitVec.ofNat 32 v })
  else if f = 0x14 then s.updPort p (fun x => { x with replays := BitVec.ofNat 32 v })
  else if f = 0x18 then s.updPort p (fun x => { x with losses := BitVec.ofNat 32 v })
  else s

/-- The clock runs below the requested P-state for one of the reasons of 15 R356: outstanding commands are marked. -/
def State.noteCapped (s : State) : State :=
  if s.belowPreq then s.markCapped else s

/-- A write of `PREQ`: the clock never runs above it, so a slower one slows it at once (15 R356); what holds it below then shows (15 R368). -/
def State.writePreq (s : State) (p : BitVec 3) : State :=
  let t := { s with pw := { s.pw with preq := p, rise := s.pw.rise.map (fun (r : Nat × Nat) => (max r.1 (pstateDiv p.toNat), r.2)) } }
  let t := if t.level < t.preqLevel then t.setLevel t.preqLevel else t
  let below := decide (t.preqLevel < t.level)
  ({ t with pw := { t.pw with limCap := t.pw.limCap && below, limTherm := (t.pw.limTherm || t.pw.forced) && below } }).noteCapped

/-- `PW_` (15 R357, R368). -/
def State.writePw (s : State) (o v : Nat) : State :=
  if o = 0 && !s.pw.pdet then s.writePreq (BitVec.ofNat 3 v)
  else if o = 0x10 then { s with pw := { s.pw with alertCount := BitVec.ofNat 32 v } }
  else s

/-- `RS_` (14 R347): `VBAT_LOST` is cleared by writing 1. -/
def State.writeRs (s : State) (o v : Nat) : State :=
  if o = 0x10 && bit v 4 then { s with rs := { s.rs with vbatLost := false } } else s

/-- The MSI-X table (13 R318): masking a vector, or its other words. Unmasking has its own command. -/
def State.writeMsix (s : State) (fn o v : Nat) : State :=
  if vectorsOf fn ≤ o / 16 then s
  else if o / 4 % 4 = 3 then (if bit v 0 then s.updFn fn (fun c => { c with masked := insertNat c.masked (o / 16) }) else s)
  else s.updFn fn (fun c => { c with table := spSet c.table (o / 4) (BitVec.ofNat 32 v) })

/-- A word written by a party. -/
def State.writeWord (s : State) (p : Party) (off v : Nat) : State :=
  let o := off % 0x10000
  match p with
  | .manager =>
    if 0xB0000 ≤ off then s
    else match off / 0x10000 with
      | 0 => s.writeMg o v
      | 3 => s.writeHb o v
      | 4 => s.writeFx o v
      | 5 => s.writePw o v
      | 7 => s.writeRs o v
      | 9 => s.writeMsix 0 o v
      | _ => s
  | .tenant vf => if off / 0x10000 = 2 then s.writeMsix vf o v else s
  | .untagged vf => if off / 0x10000 = 2 then s.writeMsix vf o v else s
  | .other => s

/-- REGISTER_WRITE: 4 or 8 aligned bytes, the lower word first; any other write is discarded (13 R308). -/
def execRegisterWrite (p : Party) (offset size : Nat) (value : Word64) (s : State) : Host.Outcome State Fault Refusal :=
  .next (if !s.running || !bar0Shape p offset size || !s.partyUp p || s.partyDrops p then s
    else
      let s := s.writeWord p offset (value.toNat % 2 ^ 32)
      if size = 8 then s.writeWord p (offset + 4) (value.toNat / 2 ^ 32) else s)

/-! ## The admin queue (09 R231) -/

/-- The admin queue as `MG_` describes it, empty, with phase 1. -/
def Mg.freshQueue (m : Mg) : Queue :=
  { Queue.disabled with
    sqAddr := BitVec.ofNat 64 (m.sqAddr.toNat * 4096), cqAddr := BitVec.ofNat 64 (m.cqAddr.toNat * 4096), sqLog2 := m.sqLog2.toNat
    cqLog2 := m.cqLog2.toNat, vector := m.vector.toNat, st := .running }

/-- ADMIN_QUEUE_ENABLE: a write of `MG_ADMIN_CFG` with `EN` = 1 while it was 0, and both sizes 6 to 16. Pending events are written now. -/
def execAdminQueueEnable (p : Party) (cfg : Word) (s : State) : Host.Outcome State Fault Refusal :=
  .next (
    let v := cfg.toNat
    let a := bits v 4 0
    let b := bits v 9 5
    if !s.managerWrites p || s.mg.en || !bit v 10 || a < 6 || 16 < a || b < 6 || 16 < b then s
    else
      let m := { s.mg with sqLog2 := BitVec.ofNat 5 a, cqLog2 := BitVec.ofNat 5 b, vector := BitVec.ofNat 11 (v / 2 ^ 16), en := true }
      ({ s with mg := { m with queue := m.freshQueue } }).drainEvents)

/-- ADMIN_QUEUE_DISABLE. -/
def execAdminQueueDisable (p : Party) (s : State) : Host.Outcome State Fault Refusal :=
  .next (if s.managerWrites p && s.mg.en then s.adminStop else s)

end Sys2Proof.Machine
end

