-- ==== Sys2Proof/Machine/Sideband.lean ====
section
/-! DEFINITION. The sideband (I3C, MCTP, PLDM), the debug console, the presence pin and the test access port (17 R389, R399 to R404, 14 R338, R344, R345). -/
namespace Sys2Proof.Machine

/-! ## I3C and MCTP (17 R399, R400) -/

/-- The I3C target answers: out of POR and `MODULE_COLD`, with its clocks on. -/
def State.sidebandUp (s : State) : Bool := s.outOfCold

/-- The static address (R400), as the straps were at the last POR. -/
def State.staticAddress (s : State) : Nat := 0x50 + s.pins.straps.toNat

/-- ENTDAA: the target takes a dynamic address while it has none, by `ENTDAA` or by `SETDASA` to its static address, which is given; held in
reset it does not acknowledge. -/
def execEntdaa (static_ : Option (BitVec 7)) (address : BitVec 7) (s : State) : Host.Outcome State Fault Refusal :=
  .next (if !s.sidebandUp then s.emit .i3cNack
    else if s.side.dynAddr.isSome || static_.elim false (fun a => a.toNat != s.staticAddress) then s
    else ({ s with side := { s.side with dynAddr := some address } }).emit (.i3cAddress address.toNat))

/-- The endpoint ID that a control request assigns: Set Endpoint ID (command 1), operation set or force, an ID 8 to 254. -/
def eidOf (request : List Byte) : Option (BitVec 8) :=
  let b := fun k => (request.getD k 0).toNat
  if b 1 = 1 && b 2 ≤ 1 && 8 ≤ b 3 && b 3 ≤ 254 then some (request.getD 3 0) else none

/-- The MCTP message types that are served: all of R399 while firmware runs, and MCTP control and PLDM alone where the boot ROM serves (R402). -/
def State.mctpTypes (s : State) : List Byte := if s.rs.boot = .imageFailed then [0, 1] else [0, 1, 5, 6]

/-- The PLDM types that a query of PLDM Type 0 names (R399, R402). -/
def State.pldmTypes (s : State) : List Nat := if s.rs.boot = .imageFailed then [5] else [0, 2, 5]

/-- What a control request is answered with: the message types to a query of them (command 5; PRESUMED, log 102), else what DSP0236 fixes. -/
def State.mctpReply (s : State) (request : List Byte) : List Byte :=
  if request.getD 1 0 = 5 then [request.getD 0 0 &&& 0x7F, 5, 0, BitVec.ofNat 8 s.mctpTypes.length] ++ s.mctpTypes
  else Config.mctpAnswer s.side.eid request

/-- MCTP_CONTROL. -/
def execMctpControl (request : List Byte) (s : State) : Host.Outcome State Fault Refusal :=
  .next (if !s.sidebandUp then s
    else
      let s := match eidOf request with
        | some e => { s with side := { s.side with eid := e } }
        | none => s
      s.emit (.mctp (s.mctpReply request)))

/-! ## PLDM platform monitoring (17 R401, R402) -/

/-- Firmware or its reset answers PLDM Type 2; `MODULE_WARM` does not reach the target. -/
def State.pldmUp (s : State) : Bool := s.sidebandUp && (s.rs.boot = .starting || s.rs.boot = .ready)

/-- Reading of a sensor; the two coolant sensors measure what no other state holds. -/
def State.sensor (s : State) (id fresh : Nat) : Option Nat :=
  if id = 1 then some s.tl.pIn.toNat
  else if id = 2 then some s.pw.cap
  else if 3 ≤ id && id ≤ 10 then some (s.tl.cj.getD (id - 3) 0).toNat
  else if 11 ≤ id && id ≤ 26 then some (s.stack (id - 11)).tempC.toNat
  else if id = 27 || id = 28 then some fresh
  else if id = 29 then some s.lc.st.toNat
  else if id = 30 then some s.gradeEff
  else none

/-- PLDM_GET_SENSOR. -/
def execPldmGetSensor (id : Nat) (s : State) : Host.Outcome State Fault Refusal :=
  .next (if !s.pldmUp then s
    else match s.sensor id s.free.1 with
      | some v => (if id = 27 || id = 28 then s.free.2 else s).emit (.pldmSensor id v)
      | none => s)

/-- PLDM_SET_EFFECTER: the reset that it names, exactly as from its other sources (R402, 14 R327). -/
def execPldmSetEffecter (state : Nat) (s : State) : Host.Outcome State Fault Refusal :=
  .next (if !s.pldmUp then s
    else if state = 2 then s.storeGvar.enterCold 3 false
    else if state = 3 then (if s.rs.warm then s.countReset 7 else (s.countReset 7).storeGvar.enterWarm 7)
    else s)

/-- PLDM_EVENT_FETCH: every pending event is handed over, and `SB_ALERT_N` is released. -/
def execPldmEventFetch (s : State) : Host.Outcome State Fault Refusal :=
  .next (if !s.pldmUp then s
    else
      let t := { s with events := { s.events with side := [] }, pins := { s.pins with sbAlertN := true } }
      t.emit (.pldmEvents s.events.side))

/-! ## PLDM firmware update (17 R402, 14 R344, R345) -/

/-- Firmware, or the boot ROM where no slot passed, answers PLDM Type 5. -/
def State.updateUp (s : State) : Bool := (s.firmwareUp || (s.sidebandUp && s.rs.boot = .imageFailed))

/-- REQUEST_UPDATE: the rules of `FW_STAGE`. -/
def execRequestUpdate (image : List Byte) (s : State) : Host.Outcome State Fault Refusal :=
  .next (if !s.updateUp then s
    else
      let r := s.stageImage image image.length
      r.1.emit (.pldmStatus r.2.code))

/-- An activation where the boot ROM found no slot: the held firmware becomes active and boots through a `MODULE_COLD` under counter 15. -/
def State.bootUpdate (s : State) : State :=
  let img := if s.flash.active then s.flash.slotA else s.flash.slotB
  if s.slotPasses img then ((s.runSlot img).enterCold 15 false).emit (.pldmStatus 0)
  else s.unhold.emit (.pldmStatus Status.invalidParam.code)

/-- The held image is activated under the rules of `FW_ACTIVATE`. -/
def State.sideActivate (s : State) : State :=
    if s.lc.heldType = 0 then s.emit (.pldmStatus Status.invalidParam.code)
    else if s.rs.boot = .imageFailed && s.lc.heldType = 1 then s.bootUpdate
    else if s.configBusy then s.emit (.pldmStatus Status.configPending.code)
    else
      let r := s.activateImage
      r.1.drainEvents.emit (.pldmStatus (if r.2 then 0 else Status.invalidParam.code))

/-- An activation that waits is performed once no admin command runs (R402, log 104). -/
def State.activateHeld (s : State) : State :=
  if s.side.activating && s.updateUp && (s.inFlight .admin).isEmpty then
    ({ s with side := { s.side with activating := false } } : State).sideActivate
  else s

/-- ACTIVATE_FIRMWARE: where an admin command runs, the activation waits until it completes. -/
def execActivateFirmware (s : State) : Host.Outcome State Fault Refusal :=
  .next (if s.updateUp then ({ s with side := { s.side with activating := true } } : State).activateHeld else s)

/-! ## Test access port (17 R403) -/

/-- `IDCODE`. -/
def idcode : Nat := 0x17C09E4B

/-- TAP_INSTRUCTION: the TAP runs from the standby supply. -/
def execTapInstruction (op : TapInstr) (s : State) : Host.Outcome State Fault Refusal :=
  .next (if !s.pins.v3p3sb then s
    else
      let t := { s with side := { s.side with tap := s.tapLoads op } }
      if op = .idcode then t.emit (.tapData idcode) else t)

/-- TAP_RESET: `IDCODE` is selected, and nothing else changes. -/
def execTapReset (s : State) : Host.Outcome State Fault Refusal :=
  .next (if !s.pins.v3p3sb then s else { s with side := { s.side with tap := .idcode } })

/-! ## Presence, debug console (17 R389, R404, 14 R338) -/

/-- `MOD_PRSNT_N`: tied to ground, so low with and without any supply (17 R389). -/
def modPrsntN : Bool := false

/-- The firmware console runs on `DBG_UART`: the firmware is up and the life-cycle state permits it. -/
def State.consoleOn (s : State) : Bool := s.firmwareUp && s.lc.st != 2

/-- Level of `DBG_UART_TX`: the console's output, else idle high (log 78). -/
def State.dbgTx (s : State) : Bool := if s.consoleOn then Config.consoleTx s.time s.side.console else true

/-- A byte arrives on `DBG_UART_RX` (115,200 baud, 8 data bits, no parity, 1 stop bit): the console takes it; without a console it is
ignored. No row of the table drives the pin (log 78). -/
def State.uartReceive (s : State) (b : Byte) : State :=
  if s.consoleOn then { s with side := { s.side with console := s.side.console ++ [b] } } else s

end Sys2Proof.Machine
end

