-- ==== Sys2Proof/Machine/Power.lean ====
section
/-! DEFINITION. The governor, power alerts, thermal limits, the guardband and energy metering (15 R350 to R369, 10 R258). -/
namespace Sys2Proof.Machine

/-! ## Clock settings (15 R350 to R357) -/

/-- Highest core voltage in mV and highest leakage of a compute die in W at each P-state, beside its D (R350). -/
def pstates : List (Nat × Nat × Nat) :=
  [(64, 860, 50), (68, 835, 47), (72, 810, 45), (76, 790, 42), (80, 770, 40), (96, 720, 35), (128, 660, 28), (192, 600, 25)]

/-- The row of a P-state in that table. -/
def pstate (p : Nat) : Nat × Nat × Nat := pstates.getD p (192, 600, 25)

/-- What the P-states give by their number, at a divider D, in thousandths: linear in D between the neighbouring P-states (R351). -/
def pstateAt (column : Nat → Nat) (d : Nat) : Nat :=
  match (List.range 7).find? (fun p => decide (pstateDiv p ≤ d) && decide (d ≤ pstateDiv (p + 1))) with
  | some p =>
    let a := pstateDiv p
    let b := pstateDiv (p + 1)
    1000 * (column p * (b - d) + column (p + 1) * (d - a)) / (b - a)
  | none => 0

/-- Voltage set for die d at a P-state, in mV: its measured need, 45 mV and G_var (R360). At a G_var of 40 mV it is at most that of R350 (log 101). -/
def State.dieMv (s : State) (d p : Nat) : Nat := min (Config.dieNeed d p) ((pstate p).2.1 - 85) + 45 + s.pw.gvar.getD d 0

/-- Voltage of die d at a divider D, in µV (R351). -/
def State.dieUv (s : State) (d div : Nat) : Nat := pstateAt (s.dieMv d) div

/-- Highest power of one compute die at a setting, in mW: leakage, and 265 W x (f / 1.6 GHz) x (V / 0.810 V)^2 for the cycles that run (R350,
R351, R354). -/
def dieMw (level : Nat) : Nat :=
  let d := max 64 (min level 192)
  let v := pstateAt (fun p => (pstate p).2.1) d
  pstateAt (fun p => (pstate p).2.2) d + 265000 * 72 * v ^ 2 / (d * 810000 ^ 2) * (64 - (level - 192)) / 64

/-- Highest input power of the eight compute dies at a setting, in mW (R350). -/
def computeMw (level : Nat) : Nat := 8 * dieMw level * 11044 / 10000

/-- A power alert or its hold is in force (R359). -/
def State.alertHeld (s : State) : Bool := !s.pw.alerts.isEmpty || s.pw.holdUntil.isSome

/-- The compute thermal limit is what makes the effective cap (R355). -/
def State.thermalBinds (s : State) : Bool := match s.pw.limit with
  | some l => decide (l < s.pw.cap)
  | none => false

/-- The slowest of what asks: the requested P-state, the budget, P7 while an alert or forced P7 holds. In determinism mode the load asks for
nothing (R357). -/
def State.wantLevel (s : State) (need : Nat) : Nat :=
  let budget := if s.pw.pdet && !s.thermalBinds then 0 else need
  max (max s.preqLevel budget) (if s.alertHeld || s.pw.forced then 192 else 0)

/-- Slow down by as many steps as needed, speed up by at most 4 (R353). -/
def nextLevel (cur want : Nat) : Nat := if cur ≤ want then want else max want (cur - 4)

/-- Time in ns until the voltage of every die that runs has risen from where it is to a setting's, at 10 mV per µs (R352). -/
def State.slewNs (s : State) (n : Nat) : Nat :=
  (((List.range 8).filter (fun d => !s.rs.dieHeld.getLsbD d)).map (fun d => (s.dieUv d (min n 192) - s.dieUv d s.pw.vdiv + 9) / 10)).foldl max 0

/-- The governor's move to a setting: the frequency first where it falls, and where it rises the voltage first, then the frequency (R352). -/
def State.govern (s : State) (n : Nat) : State :=
  let wait := s.slewNs n
  if s.level ≤ n || wait = 0 then s.setLevel n
  else { s with pw := { s.pw with vdiv := min n 192, rise := some (n, s.time + wait) } }

/-- The carve-out of a measured fixed-clock load, in W; the load is at most 1,142 W (R353). -/
def carveOut (load : Nat) : Nat := min load 1142 * 11044 / 10000

/-- DESIGN CHOICE (log 79): the fastest setting at which compute dies that took `c` W of input at setting `cur` stay within a budget: their
power moves with the highest power of R350. -/
def fitLevel (cur c budget : Nat) : Nat :=
  ((List.range' 64 192).find? (fun n => decide (c * computeMw n ≤ budget * computeMw cur))).getD 255

/-- Input powers measured in the last 1 ms. -/
def State.lastMs (s : State) : List Nat := ((s.tl.hist.filter (fun p => decide (s.time < p.1 + 1000000))).map (fun p => p.2.1))

/-- The highest effective cap that was in force at some time in the last `win` ns. -/
def State.capWithin (s : State) (win : Nat) : Nat :=
  ((s.pw.capHist.filter (fun p => decide (s.time < p.1 + win))).map Prod.snd).foldl max s.effCap

/-- What the input power of a period comes to (log 79): at most what every consumer can draw at the setting that ran; over the 100 µs at most
110 %, and over 1 ms at most 100 %, of the highest cap that was in force then or in the 1 ms before (R354). -/
def State.drawn (s : State) (pIn pFixed : Nat) : Nat :=
  let p := min pIn (carveOut pFixed + computeMw s.level / 1000)
  let p := min p (s.capWithin 1100000 * 110 / 100)
  min p ((s.lastMs.length + 1) * s.capWithin 2000000 - s.lastMs.sum)

/-- A new cap comes into force, and its command completes (R355). -/
def State.applyCap (s : State) : State :=
  match s.pw.newCap with
  | none => s
  | some (w, det, cid) => (({ s with pw := { s.pw with cap := w, pdet := det, newCap := none } }).capChanged s.effCap).doneCmd cid .success 0

/-- Power and energy readings of one period, whose input power is `p` (R366, R369). -/
def State.meter (s : State) (p pFixed uj : Nat) (dieMj : List Nat) : State :=
  let avg := (p + s.lastMs.sum) / (s.lastMs.length + 1)
  let hist := (s.time, p, avg) :: s.tl.hist.filter (fun p => decide (s.time < p.1 + oneSec))
  let total := s.tl.uj + uj
  let inMj := satInc64 s.tl.energyIn (total / 1000)
  { s with tl := { s.tl with
      pIn := BitVec.ofNat 16 avg, pFixed := BitVec.ofNat 16 (carveOut pFixed), hist := hist
      pMax := BitVec.ofNat 16 ((hist.map (fun p => p.2.2)).foldl max 0), energyIn := inMj, uj := total % 1000
      eDie := s.tl.eDie.zipIdx.map (fun e => satInc64 e.1 (dieMj.getD e.2 0)), unattrib := BitVec.ofNat 64 (inMj.toNat - s.tl.charged / 1000000) } }

/-- Steps 3 and 4 of R353: the setting that the load of a period needs under the effective cap, never faster than the firmware's own choice from
the loads it measured. -/
def State.needLevel (s : State) (p pFixed div skip : Nat) : Nat :=
  max (fitLevel s.level (p - carveOut pFixed) (s.effCap - carveOut pFixed)) (clockLevel div skip)

/-- The setting after a period: in an alert or its hold the clock only slows, so that `SKIP` keeps its value (R353, R359). -/
def State.periodLevel (s : State) (need : Nat) : Nat :=
  if s.alertHeld then max s.level (s.wantLevel need) else nextLevel s.level (s.wantLevel need)

/-- Dies whose exit sequence has ended return to the module's setting (R352). -/
def State.endP7 (s : State) : State :=
  let exits := fun d => s.rs.exiting.any (fun e => e.1 = .die d || e.1 = .module)
  { s with pw := { s.pw with exitP7 := s.pw.exitP7 &&& maskOf 8 ((List.range 8).filter exits) } }

/-- CONTROL_PERIOD: input power and fixed-clock load of the period, and the firmware's choice of setting. An activation that waited on the
sideband goes on with it (log 104). -/
def execControlPeriod (pIn pFixed div skip uj : Nat) (dieMj : List Nat) (s : State) : Host.Outcome State Fault Refusal :=
  .next (if !s.firmwareUp then s
    else
      let p := s.drawn pIn pFixed
      let s := (s.meter p pFixed uj dieMj).applyCap
      let need := s.needLevel p pFixed div skip
      let below := decide (s.preqLevel < need) && (!s.pw.pdet || s.thermalBinds)
      let s := s.endP7.govern (s.periodLevel need)
      let s := { s with pw := { s.pw with
        limCap := below && !s.thermalBinds, limTherm := (s.pw.forced && s.preqLevel < 192) || (below && s.thermalBinds), limAlert := s.alertHeld } }
      s.noteCapped.activateHeld)

/-! ## Power alerts (15 R359) -/

/-- P7 at once, and the voltage after it; `SKIP` keeps its value. -/
def State.forceP7 (s : State) : State := { s with pw := { s.pw with div := 192, vdiv := 192, rise := none } }

/-- `DETAIL` of event 0x06 (09 R226). -/
def alertDetail (source : AlertSource) (count : Nat) : Nat :=
  match source with
  | .pin => 1 + 0xFF * 2 ^ 8 + count * 2 ^ 16
  | .regulator d => 2 + (d % 256) * 2 ^ 8 + count * 2 ^ 16

/-- PWR_ALERT_N: the pin low for 200 ns, or a regulator's alert; in POR and `MODULE_COLD` it has no effect. -/
def execPwrAlertN (source : AlertSource) (ns : Nat) (s : State) : Host.Outcome State Fault Refusal :=
  .next (if !s.outOfCold || s.pw.alerts.contains source || (source = AlertSource.pin && ns < 200) then s
    else
      let s := { s with pins := { s.pins with pwrAlertN := if source = AlertSource.pin then false else s.pins.pwrAlertN }
                        pw := { s.pw with alerts := source :: s.pw.alerts, alertCount := satInc s.pw.alertCount 1, limAlert := true } }
      (s.forceP7.noteCapped).event 0x06 (alertDetail source s.pw.alertCount.toNat))

/-- POWER_ALERT_END: the 1 ms hold begins when the last source ends. -/
def execPowerAlertEnd (source : AlertSource) (s : State) : Host.Outcome State Fault Refusal :=
  .next (s.clockRow (if !s.pw.alerts.contains source then s
    else
      let rest := s.pw.alerts.filter (fun a => a != source)
      { s with pins := { s.pins with pwrAlertN := if source = AlertSource.pin then true else s.pins.pwrAlertN }
               pw := { s.pw with alerts := rest, holdUntil := if rest.isEmpty then some (s.time + 1000000) else s.pw.holdUntil } }))

/-- POWER_ALERT_HOLD_END. -/
def execPowerAlertHoldEnd (s : State) : Host.Outcome State Fault Refusal :=
  .next (s.clockRow (match s.pw.holdUntil with
  | some t => if s.pw.alerts.isEmpty && t ≤ s.time then { s with pw := { s.pw with holdUntil := none, limAlert := false } } else s
  | none => s))

/-! ## Thermal limits (15 R364, R365) -/

/-- Hottest reading of any die. -/
def hottest (readings : List (Nat × Nat)) : Nat := (readings.map (fun p => max p.1 p.2)).foldl max 0

/-- State of the limits as event 0x05 codes it. -/
def thermCode (limited forced : Bool) : Nat := if forced then 2 else if limited then 1 else 0

/-- The thermal limit after a reading: 2 % below the measured input when it is entered, 2 % less each period above 100 °C. -/
def State.limitAfter (s : State) (t : Nat) : Option Nat :=
  if !s.pw.overTherm && 100 < t then some ((s.tl.hist.headD (0, 0, 0)).2.1 * 98 / 100)
  else if s.pw.overTherm && 100 < t then s.pw.limit.map (fun l => l * 98 / 100)
  else s.pw.limit

/-- What the firmware does on a reading (R364). -/
def State.thermAct (s : State) (readings : List (Nat × Nat)) (t : Nat) : State :=
      let die := ((List.range 8).find? (fun d => (readings.getD d (0, 0)).1 = t || (readings.getD d (0, 0)).2 = t)).getD 0
      let hot := decide (100 < t) || (s.pw.overTherm && 97 < t)
      let forced := decide (105 < t) || (s.pw.forced && 100 < t)
      let old := thermCode s.pw.overTherm s.pw.forced
      let new := thermCode hot forced
      let byte := fun (f : Nat × Nat → Nat) => (List.range 8).map (fun d => BitVec.ofNat 8 (f (readings.getD d (0, 0))))
      let cap := s.effCap
      let s := { s with tl := { s.tl with cj := byte Prod.fst, bj := byte Prod.snd }
                        pw := { s.pw with overTherm := hot, forced := forced, limit := s.limitAfter t
                                          limTherm := s.pw.limTherm || (forced && s.preqLevel < 192) } }
      let s := s.capChanged cap
      let s := if forced then s.forceP7.noteCapped else s
      if new = old then s
        else s.event 0x05 (0x10 + die + new * 2 ^ 8 + (if old < new then 2 ^ 12 else 0) + (t % 256) * 2 ^ 16)

/-- THERMAL_SAMPLE: compute and base junction of each die. The package controller's sensors trip the module whether or not firmware runs. -/
def execThermalSample (readings : List (Nat × Nat)) (s : State) : Host.Outcome State Fault Refusal :=
  .next (if !s.outOfCold then s
    else
      let t := hottest readings
      let s := if s.firmwareUp then s.thermAct readings t else s
      if 118 < t then s.thermTrip else s)

/-- THERMAL_LIMIT_RAISE: 1 % of `CAP_W` per 1 ms after the limit has been left, until it no longer binds. -/
def execThermalLimitRaise (s : State) : Host.Outcome State Fault Refusal :=
  .next (match s.pw.limit with
  | some l =>
    if s.pw.overTherm || !s.firmwareUp then s
    else
      let n := l + s.pw.cap / 100
      ({ s with pw := { s.pw with limit := if s.pw.cap ≤ n then none else some n } }).capChanged s.effCap
  | none => s)

/-! ## Guardband (15 R361, 16 R376) -/

/-- MARGIN_MEASURE: a shortfall raises G_var by itself plus 5 mV, at most to 60 mV; above 40 mV a record is posted; a need above 60 mV fences the
die's core with the least margin. -/
def execMarginMeasure (die : Nat) (spareMv : Int) (weakest : Nat) (s : State) : Host.Outcome State Fault Refusal :=
  .next (if !s.firmwareUp || 8 ≤ die || s.rs.dieHeld.getLsbD die then s
    else if 5 ≤ spareMv then s
    else
      let s := { s with pw := { s.pw with gvarSpare := s.pw.gvarSpare.set die s.time } }
      if 0 ≤ spareMv then s
      else
        let need := s.pw.gvar.getD die 0 + (-spareMv).toNat
        let new := min 60 (need + 5)
        let s := { s with pw := { s.pw with gvar := s.pw.gvar.set die new } }
        let s := if 40 < new then s.error 0x12 3 (0x50 + die) new else s
        if 60 < need && dieOfCore weakest = die then s.fenceCore weakest 4 else s)

/-- GVAR_TRIM: 1 mV less after 24 h in which every measurement showed 5 mV to spare, never below 10 mV. -/
def execGvarTrim (die : Nat) (s : State) : Host.Outcome State Fault Refusal :=
  .next (
    let g := s.pw.gvar.getD die 0
    if s.firmwareUp && die < 8 && s.pw.gvarSpare.getD die 0 + dayNs ≤ s.time && 10 < g then
      { s with pw := { s.pw with gvar := s.pw.gvar.set die (g - 1), gvarSpare := s.pw.gvarSpare.set die s.time } }
    else s)

/-- GVAR_STORE. -/
def execGvarStore (s : State) : Host.Outcome State Fault Refusal := .next s.storeGvar

/-! ## Energy attribution (10 R258, 15 R366) -/

/-- Number of the counted events that `pick` picks. -/
def eventSum (counts : List Count) (pick : Count → Bool) : Nat := ((counts.filter pick).map Count.n).sum

/-- Charge of the activity model, in nJ: the instance's events times the energies calibrated at test. -/
def activityCharge (counts : List Count) (i : Nat) : Nat :=
  ((counts.filter (fun c => c.owner = i + 1)).map (fun c => c.n * Config.eventEnergy c.kind)).sum

/-- Charge from the partition counters, in nJ: of each partition's energy the part of its events that are the instance's; the part of management
traffic, and a partition without events, charge no instance. -/
def partitionCharge (nj : List Nat) (counts : List Count) (i : Nat) : Nat :=
  (nj.zipIdx.map (fun e =>
    e.1 * eventSum counts (fun c => c.owner = i + 1 && c.part = e.2) / eventSum counts (fun c => c.part = e.2))).sum

/-- Energies of the partitions, within what is left of the metered energy. -/
def njWithin (left : Nat) : List Nat → List Nat
  | [] => []
  | n :: rest => min n left :: njWithin (left - n) rest

/-- Metered input energy that no instance has been charged, in nJ. -/
def Tl.leftNj (t : Tl) : Nat := t.energyIn.toNat * 1000000 + t.uj * 1000 - t.charged

/-- Charge of an instance in the mode that `OB_ATTRIB_MODE` gives. -/
def State.chargeOf (s : State) (nj : List Nat) (i : Nat) : Nat :=
  if s.opt.attribMode = 0 then activityCharge s.tl.counts i else partitionCharge (njWithin s.tl.leftNj nj) s.tl.counts i

/-- An instance's counter after a charge. -/
def Inst.charge (i : Inst) (nj : Nat) : Inst :=
  { i with energyMj := satInc64 i.energyMj ((i.energyNj + nj) / 1000000), energyNj := (i.energyNj + nj) % 1000000 }

/-- ENERGY_ATTRIBUTION: the energy measured in each partition from `first` on, in nJ; the events counted since the last one are charged. -/
def execEnergyAttribution (s : State) (nj : List Nat := []) (first : Nat := 0) : Host.Outcome State Fault Refusal :=
  .next (if !s.firmwareUp then s
    else
      let nj := List.replicate first 0 ++ nj
      let sum := (s.insts.map (fun i => s.chargeOf nj i.id)).sum
      { s with insts := s.insts.map (fun i => i.charge (s.chargeOf nj i.id)),
               tl := { s.tl with charged := s.tl.charged + sum, counts := []
                                 unattrib := BitVec.ofNat 64 (s.tl.energyIn.toNat - (s.tl.charged + sum) / 1000000) } })

end Sys2Proof.Machine
end

