-- ==== Sys2Proof/Machine/Completion.lean ====
section
/-! DEFINITION. Commands that take time end on their engine (09 R209, R214), and the command watchdog (09 R229). -/
namespace Sys2Proof.Machine

/-- The firmware that serves the command's queue runs. -/
def State.cmdServed (s : State) (c : Cmd) : Bool := s.running && (s.queue? c.q).elim false (fun x => s.served c.q x)

/-- A DMA command ends once nothing of it is left and every earlier one of its queue has completed (08 R192, R194). -/
def State.completeDma (s : State) (cid : Nat) : State :=
  match s.cmd? cid with
  | none => s
  | some c =>
    if c.phase = .active && s.quiet c && (s.earlier c).all (fun d => !isDmaOp d.opcode) then s.doneCmd cid .success 0 else s

/-- The last steps of an active command that has nothing left to wait for: by engine, then the manager commands that take time. -/
def State.completeActive (s : State) (c : Cmd) : State :=
  match tenantEngine c.opcode with
  | some .dma => (if c.opcode = 0x18 || c.opcode = 0x19 || c.opcode = 0x1A then s.pump c.cid else s).completeDma c.cid
  | some .cache => if s.quiet c then s.doneCmd c.cid .success 0 else s
  | some .collective => s.finishColl c
  | some .speculation => match s.cmdCtx c with
    | some x => (s.finishSpec x c).doneCmd c.cid .success 0
    | none => s
  | some _ => s
  | none =>
    let i := c.field 16 2
    if c.opcode = 0x82 then
      if (s.instInFlight i).isEmpty then (s.updInst i (fun x => { x with st := .quiesced })).doneCmd c.cid .success 0 else s
    else if c.opcode = 0x83 && c.herdRan then s.withRings s i (fun s => ((s.resetEnd i).drainEvents).doneCmd c.cid .success 0)
    else if c.opcode = 0x81 && c.herdRan then ((s.destroyEnd i).drainEvents).doneCmd c.cid .success 0
    else s

/-- COMMAND_COMPLETION: the command's record is written or carried. A command of a context that is being killed ends with the kill
(02 R55). -/
def execCommandCompletion (cid : Nat) (s : State) : Host.Outcome State Fault Refusal :=
  .next (s.clockRow (match s.cmd? cid with
  | none => s
  | some c =>
    if !s.cmdServed c then s
    else match c.phase with
      | .ended _ _ => s.finishCmd cid
      | .active => if s.engineRuns c.q then s.completeActive c else s
      | _ => s))

/-- Commands that the watchdog covers: DMA, cache, speculation, `SIGNAL` and the manager commands that R230 bounds by 1 s alone. -/
def watchdogCovers (op : Nat) : Bool :=
  isDmaOp op || op = 0x28 || op = 0x29 || (0x30 ≤ op && op ≤ 0x32) || op = 3
    || (isManagerOp op && !([0x81, 0x83, 0xA0, 0xB1].contains op))

/-- Time that a command has waited for descriptors, which the watchdog does not measure (R229). -/
def State.descriptorWait (s : State) (c : Cmd) : Nat :=
  c.unmeasured + if isDmaOp c.opcode && c.mark != 0 then s.time - c.mark else 0

/-- The command has begun and its time from `START_TIME` has passed. -/
def State.overdue (s : State) (c : Cmd) : Bool :=
  (c.phase = .begun || c.phase = .active) && decide (c.start + c.wdMs * 1000000 + s.descriptorWait c ≤ s.time)

/-- What the watchdog leaves of a manager command: a cap not yet in force stays out; a Rambler run stops, and its channels take their closing
wipe (log 32). -/
def State.leaveManager (s : State) (c : Cmd) : State :=
  if c.opcode = 0x98 then { s with pw := { s.pw with newCap := none } }
  else match s.rambler with
    | some r => if r.cid = c.cid then ({ s with rambler := none }).wipeChannels (r.channels &&& ~~~r.stopped).toNat else s
    | none => s

/-- COMMAND_WATCHDOG: `TIMEOUT`; what was not sent is never performed (08 R197). -/
def execCommandWatchdog (cid : Nat) (s : State) : Host.Outcome State Fault Refusal :=
  .next (s.clockRow (match s.cmd? cid with
  | none => s
  | some c =>
    if s.cmdServed c && watchdogCovers c.opcode && s.overdue c then
      (s.leaveManager c).stopCmd cid .timeout (s.elapsedMs c)
    else s))

end Sys2Proof.Machine
end

