-- ==== Sys2Proof/Machine/Context.lean ====
section
/-! DEFINITION. Context kill and the context watchdog (02 R55, R58). -/
namespace Sys2Proof.Machine

/-- CONTEXT_KILL: steps 1 to 4 of R55, for a context that has faulted. -/
def execContextKill (c : CtxRef) (s : State) : Host.Outcome State Fault Refusal := .next (s.clockRow (s.killCtx c))

/-- CONTEXT_KILL_COMPLETE: steps 5 and 6 of R55. -/
def execContextKillComplete (c : CtxRef) (s : State) : Host.Outcome State Fault Refusal := .next (s.clockRow (s.killComplete c))

/-- Start of a kernel's first herd (02 R58). -/
def kernelStart (d : Cmd) : Option Nat := if d.herdRan then some d.mark else none

/-- CONTEXT_WATCHDOG: a kernel that runs longer than `WD_PERIOD_MS` while `WD_EN` is 1, without the time it waited for residency on a core,
faults its context with `WATCHDOG`; the kill follows. While it still waits nothing is counted. -/
def execContextWatchdog (cid : Nat) (s : State) : Host.Outcome State Fault Refusal :=
  .next (s.clockRow (match s.cmd? cid with
  | none => s
  | some d =>
    match s.qCtx d.q, kernelStart d with
    | some c, some t =>
      match s.ctx? c with
      | none => s
      | some x =>
        if d.opcode = 0x10 && d.phase = .active && x.wdEn && x.st != 3 && x.st != 4 && d.cores.isEmpty && t + d.unmeasured + x.wdPeriod.toNat * 1000000 ≤ s.time then
          s.bareFault c .watchdog none
        else s
    | _, _ => s))

end Sys2Proof.Machine
end

