-- ==== Sys2Proof/Machine/Dispatch.lean ====
section
/-! DEFINITION. The meaning of every command: one arm per constructor of `Instr`. -/
namespace Sys2Proof.Machine

/-- The effect of a command on everything but the queue of waiting commands. -/
def exec (i : Instr) (s : State) : Host.Outcome State Fault Refusal :=
  match i with
  | .instructionFetch h stale => Sys2Proof.Machine.execInstructionFetch h stale s
  | .mov h f => Sys2Proof.Machine.execMov h f s
  | .add h f => Sys2Proof.Machine.execAdd h f s
  | .sub h f => Sys2Proof.Machine.execSub h f s
  | .min h f => Sys2Proof.Machine.execMin h f s
  | .max h f => Sys2Proof.Machine.execMax h f s
  | .and h f => Sys2Proof.Machine.execAnd h f s
  | .or h f => Sys2Proof.Machine.execOr h f s
  | .xor h f => Sys2Proof.Machine.execXor h f s
  | .shl h f => Sys2Proof.Machine.execShl h f s
  | .shr h f => Sys2Proof.Machine.execShr h f s
  | .pick h f => Sys2Proof.Machine.execPick h f s
  | .cnt1 h f => Sys2Proof.Machine.execCnt1 h f s
  | .lzc h f => Sys2Proof.Machine.execLzc h f s
  | .bmux h f => Sys2Proof.Machine.execBmux h f s
  | .rdsr h f => Sys2Proof.Machine.execRdsr h f s
  | .andn h f => Sys2Proof.Machine.execAndn h f s
  | .bfx h f => Sys2Proof.Machine.execBfx h f s
  | .bfi h f => Sys2Proof.Machine.execBfi h f s
  | .fadd h f => Sys2Proof.Machine.execFadd h f s
  | .fmul h f => Sys2Proof.Machine.execFmul h f s
  | .fma h f => Sys2Proof.Machine.execFma h f s
  | .fmin h f => Sys2Proof.Machine.execFmin h f s
  | .fmax h f => Sys2Proof.Machine.execFmax h f s
  | .mullo h f => Sys2Proof.Machine.execMullo h f s
  | .mulhi h f => Sys2Proof.Machine.execMulhi h f s
  | .madlo h f => Sys2Proof.Machine.execMadlo h f s
  | .conv h f => Sys2Proof.Machine.execConv h f s
  | .recip h f => Sys2Proof.Machine.execRecip h f s
  | .rsqrt h f => Sys2Proof.Machine.execRsqrt h f s
  | .sqrt h f => Sys2Proof.Machine.execSqrt h f s
  | .exp2 h f => Sys2Proof.Machine.execExp2 h f s
  | .log2 h f => Sys2Proof.Machine.execLog2 h f s
  | .sin h f => Sys2Proof.Machine.execSin h f s
  | .cos h f => Sys2Proof.Machine.execCos h f s
  | .tanh h f => Sys2Proof.Machine.execTanh h f s
  | .cmpi h f => Sys2Proof.Machine.execCmpi h f s
  | .cmpf h f => Sys2Proof.Machine.execCmpf h f s
  | .cmpv h f => Sys2Proof.Machine.execCmpv h f s
  | .first h f => Sys2Proof.Machine.execFirst h f s
  | .anyp h f => Sys2Proof.Machine.execAnyp h f s
  | .allp h f => Sys2Proof.Machine.execAllp h f s
  | .lmask h f => Sys2Proof.Machine.execLmask h f s
  | .lget h f => Sys2Proof.Machine.execLget h f s
  | .lrot h f => Sys2Proof.Machine.execLrot h f s
  | .lswz h f => Sys2Proof.Machine.execLswz h f s
  | .hsum h f => Sys2Proof.Machine.execHsum h f s
  | .hmin h f => Sys2Proof.Machine.execHmin h f s
  | .hmax h f => Sys2Proof.Machine.execHmax h f s
  | .ld h f err => Sys2Proof.Machine.execLd h f err s
  | .st h f => Sys2Proof.Machine.execSt h f s
  | .atom h f => Sys2Proof.Machine.execAtom h f s
  | .stAdd h f => Sys2Proof.Machine.execStAdd h f s
  | .bra h f => Sys2Proof.Machine.execBra h f s
  | .call h f => Sys2Proof.Machine.execCall h f s
  | .ret h f => Sys2Proof.Machine.execRet h f s
  | .exit h f => Sys2Proof.Machine.execExit h f s
  | .trap h f => Sys2Proof.Machine.execTrap h f s
  | .nop h f => Sys2Proof.Machine.execNop h f s
  | .fence h f => Sys2Proof.Machine.execFence h f s
  | .bar h f => Sys2Proof.Machine.execBar h f s
  | .hsync h f => Sys2Proof.Machine.execHsync h f s
  | .mxIssue h f => Sys2Proof.Machine.execMxIssue h f s
  | .sbIssue h f => Sys2Proof.Machine.execSbIssue h f s
  | .mxWait h f => Sys2Proof.Machine.execMxWait h f s
  | .contextKill c => Sys2Proof.Machine.execContextKill c s
  | .contextKillComplete c => Sys2Proof.Machine.execContextKillComplete c s
  | .contextWatchdog cid => Sys2Proof.Machine.execContextWatchdog cid s
  | .commandBegin q => Sys2Proof.Machine.execCommandBegin q s
  | .commandCompletion cid => Sys2Proof.Machine.execCommandCompletion cid s
  | .commandWatchdog cid => Sys2Proof.Machine.execCommandWatchdog cid s
  | .sqTail p q value => Sys2Proof.Machine.execSqTail p q value s
  | .cqHead p q value => Sys2Proof.Machine.execCqHead p q value s
  | .resume p q value => Sys2Proof.Machine.execResume p q value s
  | .nolzinNop cid => Sys2Proof.Machine.execNolzinNop cid s
  | .nolzinFence cid => Sys2Proof.Machine.execNolzinFence cid s
  | .signal cid => Sys2Proof.Machine.execSignal cid s
  | .wait cid => Sys2Proof.Machine.execWait cid s
  | .waitPoll cid => Sys2Proof.Machine.execWaitPoll cid s
  | .waitTimeout cid => Sys2Proof.Machine.execWaitTimeout cid s
  | .launch cid => Sys2Proof.Machine.execLaunch cid s
  | .launchSlotTake cid core => Sys2Proof.Machine.execLaunchSlotTake cid core s
  | .residencyStall cid core => Sys2Proof.Machine.execResidencyStall cid core s
  | .herdStart sl => Sys2Proof.Machine.execHerdStart sl s
  | .kernelComplete sl => Sys2Proof.Machine.execKernelComplete sl s
  | .elandOpStart core => Sys2Proof.Machine.execElandOpStart core s
  | .elandOpComplete core err => Sys2Proof.Machine.execElandOpComplete core err s
  | .springbokOpStart core => Sys2Proof.Machine.execSpringbokOpStart core s
  | .springbokOpComplete core err => Sys2Proof.Machine.execSpringbokOpComplete core err s
  | .dmaCopy cid => Sys2Proof.Machine.execDmaCopy cid s
  | .dmaFill cid => Sys2Proof.Machine.execDmaFill cid s
  | .dmaCopyStrided cid => Sys2Proof.Machine.execDmaCopyStrided cid s
  | .hamperPin cid => Sys2Proof.Machine.execHamperPin cid s
  | .hamperUnpin cid => Sys2Proof.Machine.execHamperUnpin cid s
  | .prefetch cid => Sys2Proof.Machine.execPrefetch cid s
  | .discard cid => Sys2Proof.Machine.execDiscard cid s
  | .specBegin cid => Sys2Proof.Machine.execSpecBegin cid s
  | .specCommit cid => Sys2Proof.Machine.execSpecCommit cid s
  | .specAbort cid => Sys2Proof.Machine.execSpecAbort cid s
  | .collAllreduce cid => Sys2Proof.Machine.execCollAllreduce cid s
  | .collReduceScatter cid => Sys2Proof.Machine.execCollReduceScatter cid s
  | .collAllgather cid => Sys2Proof.Machine.execCollAllgather cid s
  | .collBroadcast cid => Sys2Proof.Machine.execCollBroadcast cid s
  | .collBarrier cid => Sys2Proof.Machine.execCollBarrier cid s
  | .collectiveTimeout cid => Sys2Proof.Machine.execCollectiveTimeout cid s
  | .heldFullResend port txn => Sys2Proof.Machine.execHeldFullResend port txn s
  | .instanceCreate cid => Sys2Proof.Machine.execInstanceCreate cid s
  | .instanceDestroy cid => Sys2Proof.Machine.execInstanceDestroy cid s
  | .instanceQuiesce cid => Sys2Proof.Machine.execInstanceQuiesce cid s
  | .quiesceTimeout cid => Sys2Proof.Machine.execQuiesceTimeout cid s
  | .instanceReset cid => Sys2Proof.Machine.execInstanceReset cid s
  | .instanceResetDrainEnd cid => Sys2Proof.Machine.execInstanceResetDrainEnd cid s
  | .instanceResetContext cid => Sys2Proof.Machine.execInstanceResetContext cid s
  | .instanceQuery cid => Sys2Proof.Machine.execInstanceQuery cid s
  | .configStage cid => Sys2Proof.Machine.execConfigStage cid s
  | .configApply cid => Sys2Proof.Machine.execConfigApply cid s
  | .configEpochBoundary region => Sys2Proof.Machine.execConfigEpochBoundary region s
  | .configStatus cid => Sys2Proof.Machine.execConfigStatus cid s
  | .coreFence cid => Sys2Proof.Machine.execCoreFence cid s
  | .coreDiagnose cid result unitFail rfFail l1Fail us => Sys2Proof.Machine.execCoreDiagnose cid result unitFail rfFail l1Fail us s
  | .powerSetCap cid => Sys2Proof.Machine.execPowerSetCap cid s
  | .powerQuery cid => Sys2Proof.Machine.execPowerQuery cid s
  | .lifecycleAdvance cid => Sys2Proof.Machine.execLifecycleAdvance cid s
  | .resetCountersRead cid => Sys2Proof.Machine.execResetCountersRead cid s
  | .resetCountersClear cid => Sys2Proof.Machine.execResetCountersClear cid s
  | .ramblerRun cid => Sys2Proof.Machine.execRamblerRun cid s
  | .ramblerRunEnd results => Sys2Proof.Machine.execRamblerRunEnd results s
  | .fwStage cid => Sys2Proof.Machine.execFwStage cid s
  | .fwActivate cid => Sys2Proof.Machine.execFwActivate cid s
  | .fabricRouteSet cid => Sys2Proof.Machine.execFabricRouteSet cid s
  | .fabricGroupSet cid => Sys2Proof.Machine.execFabricGroupSet cid s
  | .bankAccess rid choice err => Sys2Proof.Machine.execBankAccess rid choice err s
  | .addRequest rid choice err => Sys2Proof.Machine.execAddRequest rid choice err s
  | .deadDeclaration rid => Sys2Proof.Machine.execDeadDeclaration rid s
  | .hbmReadComplete line choice ecc => Sys2Proof.Machine.execHbmReadComplete line choice ecc s
  | .fillArrival core line victims => Sys2Proof.Machine.execFillArrival core line victims s
  | .landingCreditReturn core => Sys2Proof.Machine.execLandingCreditReturn core s
  | .hbmRequestAging line => Sys2Proof.Machine.execHbmRequestAging line s
  | .perBankRefresh stack pc bank => Sys2Proof.Machine.execPerBankRefresh stack pc bank s
  | .patrolScrub stack sector ecc => Sys2Proof.Machine.execPatrolScrub stack sector ecc s
  | .hbmTempRead stack tempC => Sys2Proof.Machine.execHbmTempRead stack tempC s
  | .thermalHoldExpiry cid => Sys2Proof.Machine.execThermalHoldExpiry cid s
  | .hbmReady stack reused pcFail dq ca => Sys2Proof.Machine.execHbmReady stack reused pcFail dq ca s
  | .flitReceive port flit => Sys2Proof.Machine.execFlitReceive port flit s
  | .fastRetrain port => Sys2Proof.Machine.execFastRetrain port s
  | .fastRetrainComplete port ok spareFor => Sys2Proof.Machine.execFastRetrainComplete port ok spareFor s
  | .heartbeat port b => Sys2Proof.Machine.execHeartbeat port b s
  | .heartbeatSend port => Sys2Proof.Machine.execHeartbeatSend port s
  | .heartbeatLoss port => Sys2Proof.Machine.execHeartbeatLoss port s
  | .portSignalDetect port lanes => Sys2Proof.Machine.execPortSignalDetect port lanes s
  | .portTrainingComplete port goodFull goodHalf => Sys2Proof.Machine.execPortTrainingComplete port goodFull goodHalf s
  | .portTrainingRestart port => Sys2Proof.Machine.execPortTrainingRestart port s
  | .rd port m => Sys2Proof.Machine.execRd port m s
  | .wr port m data => Sys2Proof.Machine.execWr port m data s
  | .fabricAtom port m data => Sys2Proof.Machine.execFabricAtom port m data s
  | .fabricAdd port m data => Sys2Proof.Machine.execFabricAdd port m data s
  | .dead port m => Sys2Proof.Machine.execDead port m s
  | .collData port m c data => Sys2Proof.Machine.execCollData port m c data s
  | .collArrive port m c => Sys2Proof.Machine.execCollArrive port m c s
  | .rdRsp port m data => Sys2Proof.Machine.execRdRsp port m data s
  | .ack port m => Sys2Proof.Machine.execAck port m s
  | .nack port m => Sys2Proof.Machine.execNack port m s
  | .pending port m => Sys2Proof.Machine.execPending port m s
  | .pendingTimer port srcPkg txn => Sys2Proof.Machine.execPendingTimer port srcPkg txn s
  | .txnTimeout port txn => Sys2Proof.Machine.execTxnTimeout port txn s
  | .progressHold port m seq rank => Sys2Proof.Machine.execProgressHold port m seq rank s
  | .progressHoldBeacon region => Sys2Proof.Machine.execProgressHoldBeacon region s
  | .peerAbort port m seq rank => Sys2Proof.Machine.execPeerAbort port m seq rank s
  | .routerStopFailure region stop => Sys2Proof.Machine.execRouterStopFailure region stop s
  | .linkOutOfService link => Sys2Proof.Machine.execLinkOutOfService link s
  | .internalFlitLoss rid => Sys2Proof.Machine.execInternalFlitLoss rid s
  | .bar2Read fn addr len tagged => Sys2Proof.Machine.execBar2Read fn addr len tagged s
  | .bar2Write fn addr data tagged relaxed => Sys2Proof.Machine.execBar2Write fn addr data tagged s relaxed
  | .bar2Atomicop fn addr kind size operand compare tagged => Sys2Proof.Machine.execBar2Atomicop fn addr kind size operand compare tagged s
  | .registerWrite p offset size value => Sys2Proof.Machine.execRegisterWrite p offset size value s
  | .configRequest fn offset write => Sys2Proof.Machine.execConfigRequest fn offset s write
  | .vfEnable numVfs enable => Sys2Proof.Machine.execVfEnable numVfs enable s
  | .busMasterEnable fn on => Sys2Proof.Machine.execBusMasterEnable fn on s
  | .msixUnmask fn vector tagged => Sys2Proof.Machine.execMsixUnmask fn vector s tagged
  | .hotReset => Sys2Proof.Machine.execHotReset s
  | .pfFlr => Sys2Proof.Machine.execPfFlr s
  | .vfFlr vf => Sys2Proof.Machine.execVfFlr vf s
  | .atsTranslationCompletion inst page readable writable at_ => Sys2Proof.Machine.execAtsTranslationCompletion inst page readable writable s at_
  | .invalidateRequest vf page => Sys2Proof.Machine.execInvalidateRequest vf page s
  | .ideKm stream refresh => Sys2Proof.Machine.execIdeKm stream refresh s
  | .ideIntegrityFailure stream => Sys2Proof.Machine.execIdeIntegrityFailure stream s
  | .tdiLock vf stream => Sys2Proof.Machine.execTdiLock vf stream s
  | .tdiStart vf => Sys2Proof.Machine.execTdiStart vf s
  | .stopInterface vf => Sys2Proof.Machine.execStopInterface vf s
  | .spdmRequest path request => Sys2Proof.Machine.execSpdmRequest path request s
  | .mctpControl request => Sys2Proof.Machine.execMctpControl request s
  | .pldmGetSensor id => Sys2Proof.Machine.execPldmGetSensor id s
  | .pldmSetEffecter state => Sys2Proof.Machine.execPldmSetEffecter state s
  | .pldmEventFetch => Sys2Proof.Machine.execPldmEventFetch s
  | .requestUpdate image => Sys2Proof.Machine.execRequestUpdate image s
  | .activateFirmware => Sys2Proof.Machine.execActivateFirmware s
  | .entdaa static_ address => Sys2Proof.Machine.execEntdaa static_ address s
  | .tapInstruction op => Sys2Proof.Machine.execTapInstruction op s
  | .tapReset => Sys2Proof.Machine.execTapReset s
  | .powerUp v3p3sb vbatHeld v48 => Sys2Proof.Machine.execPowerUp v3p3sb vbatHeld s v48
  | .porRelease strap => Sys2Proof.Machine.execPorRelease s strap
  | .por source => Sys2Proof.Machine.execPor source s
  | .perstNAssert ns counts => Sys2Proof.Machine.execPerstNAssert ns counts s
  | .modRstNAssert ns counts => Sys2Proof.Machine.execModRstNAssert ns counts s
  | .coldBoot => Sys2Proof.Machine.execColdBoot s
  | .imageVerified => Sys2Proof.Machine.execImageVerified s
  | .firmwareReady => Sys2Proof.Machine.execFirmwareReady s
  | .moduleWarm source => Sys2Proof.Machine.execModuleWarm source s
  | .moduleWarmRelease => Sys2Proof.Machine.execModuleWarmRelease s
  | .dieResetAssert p d => Sys2Proof.Machine.execDieResetAssert p d s
  | .dieResetRelease p d => Sys2Proof.Machine.execDieResetRelease p d s
  | .regionResetAssert p r => Sys2Proof.Machine.execRegionResetAssert p r s
  | .regionResetRelease p r => Sys2Proof.Machine.execRegionResetRelease p r s
  | .resetExitComplete u => Sys2Proof.Machine.execResetExitComplete u s
  | .commandProcessorWatchdog d memory => Sys2Proof.Machine.execCommandProcessorWatchdog d s memory
  | .packageControllerWatchdog => Sys2Proof.Machine.execPackageControllerWatchdog s
  | .pllLockLoss => Sys2Proof.Machine.execPllLockLoss s
  | .pllRestartRetry locked => Sys2Proof.Machine.execPllRestartRetry locked s
  | .adminQueueEnable p cfg => Sys2Proof.Machine.execAdminQueueEnable p cfg s
  | .adminQueueDisable p => Sys2Proof.Machine.execAdminQueueDisable p s
  | .pkgIdSet p id => Sys2Proof.Machine.execPkgIdSet p id s
  | .portEnable p port => Sys2Proof.Machine.execPortEnable p port s
  | .portDisable p port => Sys2Proof.Machine.execPortDisable p port s
  | .controlPeriod pIn pFixed div skip uj dieMj => Sys2Proof.Machine.execControlPeriod pIn pFixed div skip uj dieMj s
  | .pwrAlertN source ns => Sys2Proof.Machine.execPwrAlertN source ns s
  | .powerAlertHoldEnd => Sys2Proof.Machine.execPowerAlertHoldEnd s
  | .thermalSample readings => Sys2Proof.Machine.execThermalSample readings s
  | .thermalLimitRaise => Sys2Proof.Machine.execThermalLimitRaise s
  | .marginMeasure die spareMv weakest => Sys2Proof.Machine.execMarginMeasure die spareMv weakest s
  | .gvarTrim die => Sys2Proof.Machine.execGvarTrim die s
  | .gvarStore => Sys2Proof.Machine.execGvarStore s
  | .energyAttribution nj first => Sys2Proof.Machine.execEnergyAttribution s nj first
  | .commandProcessorWatchdogRelease d => Sys2Proof.Machine.execCommandProcessorWatchdogRelease d s
  | .powerAlertEnd source => Sys2Proof.Machine.execPowerAlertEnd source s
  | .pcieLinkUp width rate => Sys2Proof.Machine.execPcieLinkUp width rate s
  | .pcieCompletion rid reply data message => Sys2Proof.Machine.execPcieCompletion rid reply data s message
  | .coreCheckerError core => Sys2Proof.Machine.execCoreCheckerError core s

end Sys2Proof.Machine
end

