-- ==== Sys2Proof/Machine/Step.lean ====
section
/-! DEFINITION. One step of the block: the command at the front of the queue, or one cycle of `SYS_REFCLK` where none
waits. -/
namespace Sys2Proof.Machine

/-- The 100 MHz reference clock advances the timebase by 10 ns (15 R348) while no command waits. DESIGN CHOICE (log 4):
nothing but the clocks moves by itself; every timed event of the spec is a command. -/
def State.idle (s : State) : State := s.tick

/-- Take the command at the front of the queue and run it with the queue's rest; on an empty queue the block idles. -/
def step (s : State) : Host.Outcome State Fault Refusal :=
  match s.pending with
  | [] => .next s.idle
  | c :: rest => exec c { s with pending := rest }

/-- `s` with the command that a word spells at the front of its queue; `s` itself where the word spells none. -/
def State.withFetchWord (s : State) (nbits w : Nat) : State :=
  match decodeTableWord nbits w with
  | some c => { s with pending := c :: s.pending }
  | none => s

end Sys2Proof.Machine
end

