-- ==== Sys2Proof/Safety.lean ====
section
/-! DEFINITION. The terms that the statements use: canonical memories, a herd that is ready to issue, what a register result leaves, the
shape of every instruction with register fields, a command that is ready to perform. -/
namespace Sys2Proof

/-- The three memories are in canonical form: addresses strictly rising, no byte that an unlisted address reads as. -/
def memoriesWf (s : Machine.State) : Bool := s.mem.wf && s.back.wf && s.hostMem.wf

end Sys2Proof

namespace Sys2Proof.Claims
open Sys2Proof.Machine

/-- Herd `h` at `r` can issue an instruction of shape `sh`: it is not held, some lane acts, the encoding is legal, and no register of it is
still being written. -/
abbrev ready (s : State) (r : HerdRef) (f : Fields) (sh : Shape) (h : Herd) : Prop :=
  s.issuing? r = some h ∧ h.acting f ≠ 0#32 ∧ sh.legal h.nreg = true ∧ s.hazard r sh = false

/-- `ready` for an instruction that accesses memory: the address pipeline is not another herd's, no acquire is outstanding, and where it stores,
no release fence holds it. -/
abbrev readyMem (s : State) (r : HerdRef) (f : Fields) (sh : Shape) (stores : Bool) (h : Herd) : Prop :=
  ready s r f sh h ∧ s.pipeFree r = true ∧ h.acquire = none ∧ (stores = true → s.releasesDone h = true)

/-- The state in which a memory instruction goes on: the address pipeline is not held by its own herd. -/
abbrev entered (s : State) (r : HerdRef) : State := s.freePipes r.core (fun p => p = r.pos)

/-- An address lies in an executable page of a herd's instance: in memory, or in the host's. -/
def executable (s : State) (r : HerdRef) (h : Herd) (a : Word64) : Prop :=
  (∃ pa w, s.herdXlat r h .fetch a.toNat = .device pa w) ∨ ∃ p, s.herdXlat r h .fetch a.toNat = .host p

/-- Both register files of a herd are canonical. -/
abbrev filesWf (h : Herd) : Prop := spWf h.regs = true ∧ spWf h.uregs = true

/-- `g` is `h` with the result `v` in the use `u`, in the lanes of `act` or once for the herd where `u` is uniform; vz drops it; every
other register, and everything else of the herd, is as before. -/
def wrote (h g : Herd) (u : Use) (act : LaneMask) (v : Nat → Nat) : Prop :=
  (u.uni = false → u.r ≠ 255 → ∀ l, act.getLsbD l = true → g.read u l = v l % 2 ^ (32 * min u.span (255 - u.r))) ∧
  (u.uni = true → g.read u 0 = v (lowLane act) % 2 ^ (32 * u.span)) ∧
  (∀ n l, l < 32 → ¬ (u.uni = false ∧ u.r ≠ 255 ∧ act.getLsbD l = true ∧ u.r ≤ n ∧ n < u.r + u.span ∧ n ≠ 255) →
    spGet g.regs (32 * n + l) = spGet h.regs (32 * n + l)) ∧
  (∀ n, ¬ (u.uni = true ∧ u.r ≤ n ∧ n < u.r + u.span) → spGet g.uregs n = spGet h.uregs n) ∧
  g = { h with regs := g.regs, uregs := g.uregs }

/-- An instruction that is ready writes `v` to its destination `d`, goes on at the next instruction, and changes nothing else. -/
def laneResult (i : HerdRef → Fields → Instr) (sh : Fields → Shape) (d : Fields → Use)
    (v : HerdRef → Fields → Herd → LaneMask → Nat → Nat) : Prop :=
  ∀ (s : State) (r : HerdRef) (f : Fields) (h : Herd), ready s r f (sh f) h → filesWf h →
    ∃ g : Herd, exec (i r f) s = .next (s.updHerd r (fun _ => g.next)) ∧ wrote h g (d f) (h.acting f) (v r f h (h.acting f))

/-- `laneResult` of an arithmetic function of form `a`: `op` gives a lane's result from the word, the herd, the lane, the type and the
sources. -/
def aluResult (i : HerdRef → Fields → Instr) (a : AluForm) (op : Fields → Herd → Nat → Nat → Nat → Nat → Nat → Nat) : Prop :=
  laneResult i a.shape (fun f => useD f (typeSpan (a.type f)))
    (fun _ f h _ l => op f h l (a.type f) (a.vals f h l).1 (a.vals f h l).2.1 (a.vals f h l).2.2)

/-- Element-wise result of an arithmetic function. -/
def elemResult (i : HerdRef → Fields → Instr) (a : AluForm) (op : Fields → Nat → Nat → Nat → Nat → Nat) : Prop :=
  aluResult i a (fun f _ _ t x y z => mapElems t (op f t) x y z)

/-- A compare or vote writes only its predicate, and only in the acting lanes: `p l` there, the old value in every other lane; p7 drops it. -/
def predResult (i : HerdRef → Fields → Instr) (sh : Fields → Shape) (p : Fields → Herd → LaneMask → Nat → Bool) : Prop :=
  ∀ (s : State) (r : HerdRef) (f : Fields) (h : Herd), ready s r f (sh f) h → h.preds.length = 7 →
    ∃ g : Herd, exec (i r f) s = .next (s.updHerd r (fun _ => g.next)) ∧
      (f.dst.toNat < 7 → ∀ l, l < 32 →
        (g.pred f.dst.toNat).getLsbD l = if (h.acting f).getLsbD l then p f h (h.acting f) l else (h.pred f.dst.toNat).getLsbD l) ∧
      (∀ n, n ≠ f.dst.toNat → g.pred n = h.pred n) ∧ g = { h with preds := g.preds }

/-- Shape of `FENCE`. -/
def fenceShape (f : Fields) : Shape :=
  { ok := !f.form && unused f.dst && unused f.sa && unused f.sb && lowBits f 7 5 != 0 && lowBits f 7 5 != 7 && lowBits f 1 0 != 3
      && lowBits f 25 8 = 0 && lowBits f 4 2 = 0, src := [], dst := [] }

/-- Shape of `BAR`. -/
def barShape (f : Fields) : Shape :=
  { ok := !f.form && unused f.dst && unused f.sa && unused f.sb && lowBits f 13 0 = 0, src := [], dst := [] }

/-- Shape of `MX.WAIT`. -/
def mxWaitShape (f : Fields) : Shape :=
  { ok := !f.form && unused f.dst && unused f.sa && unused f.sb && lowBits f 25 16 = 0, src := [], dst := [] }

/-- Shape of `CALL`. -/
def callShape (f : Fields) : Shape := { ok := !f.form && f.low = 0, src := [], dst := [] }

/-- Shape of `CMPV`. -/
def cmpvShape (f : Fields) : Shape :=
  { ok := (cmpShape [0, 1, 2, 3, 4, 5] f).ok && cmpMerge f = 0, src := (cmpShape [0, 1, 2, 3, 4, 5] f).src
    dst := [useD f (typeSpan (fTYPE f))] }

/-- The herd, the fields and the shape of an instruction that issues by 02 R34, R38 and 03 R63; `BRA` is apart, since its guard chooses
lanes and does not silence them. -/
def shapeOf : Instr → Option (HerdRef × Fields × Shape)
  | .mov r f => some (r, f, (intForm [0] 1 true).shape f)
  | .add r f | .sub r f | .min r f | .max r f => some (r, f, (intForm addTypes 2 true).shape f)
  | .and r f | .or r f | .xor r f | .shl r f | .andn r f => some (r, f, (intForm [0, 2] 2 true).shape f)
  | .shr r f => some (r, f, (intForm [0, 1, 2, 3] 2 true).shape f)
  | .pick r f => some (r, f, ({ intForm [0, 2] 2 false with xmask := 7 } : AluForm).shape f)
  | .cnt1 r f | .lzc r f => some (r, f, (intForm [0, 2] 1 false).shape f)
  | .bmux r f => some (r, f, (intForm [0, 2] 3 false).shape f)
  | .rdsr r f => some (r, f, rdsrShape f)
  | .bfx r f => some (r, f, ({ intForm [0, 1] 2 false with xmask := 31 } : AluForm).shape f)
  | .bfi r f => some (r, f, ({ intForm [0] 3 false with xmask := 31 } : AluForm).shape f)
  | .fadd r f | .fmul r f => some (r, f, (fltForm 2 1 true).shape f)
  | .fma r f => some (r, f, (fltForm 3 3 true).shape f)
  | .fmin r f | .fmax r f => some (r, f, (fltForm 2 1 false).shape f)
  | .mullo r f | .mulhi r f => some (r, f, (mulForm 2 1).shape f)
  | .madlo r f => some (r, f, (mulForm 3 3).shape f)
  | .conv r f => some (r, f, convShape f)
  | .recip r f | .sqrt r f => some (r, f, transShape f true)
  | .rsqrt r f | .exp2 r f | .log2 r f | .sin r f | .cos r f | .tanh r f => some (r, f, transShape f false)
  | .cmpi r f => some (r, f, cmpPredShape [0, 1, 2, 3] f)
  | .cmpf r f => some (r, f, cmpPredShape [4, 5] f)
  | .cmpv r f => some (r, f, cmpvShape f)
  | .first r f => some (r, f, votePredShape false f)
  | .anyp r f | .allp r f => some (r, f, votePredShape true f)
  | .lmask r f => some (r, f, lmaskShape f)
  | .lget r f | .lrot r f | .lswz r f => some (r, f, moveShape f)
  | .hsum r f | .hmin r f | .hmax r f => some (r, f, reduceShape f)
  | .ld r f _ => some (r, f, ldShape f)
  | .st r f => some (r, f, stShape f)
  | .atom r f => some (r, f, atomShape f)
  | .stAdd r f => some (r, f, stAddShape f)
  | .call r f => some (r, f, callShape f)
  | .ret r f | .exit r f | .trap r f | .nop r f | .hsync r f => some (r, f, ctrlShape f)
  | .fence r f => some (r, f, fenceShape f)
  | .bar r f => some (r, f, barShape f)
  | .mxIssue r f | .sbIssue r f => some (r, f, mxShape f)
  | .mxWait r f => some (r, f, mxWaitShape f)
  | _ => none

/-- A manager command of opcode `op` has begun at a module that runs. -/
abbrev mgrBegun (s : State) (cid op : Nat) (c : Cmd) : Prop := s.begun? cid op = some c ∧ s.running = true

/-- A range that a manager command may use: backed, outside every grant, no part of it waits for an earlier access, a held stack or a line from
HBM, and, where it is read, none is poisoned. -/
abbrev mgrUsable (s : State) (reads : Bool) (a len : Nat) : Prop :=
  s.mgrBad a len = none ∧
    (mgrSectors a len).any (fun sec => s.behindHbm (sec * 32) || s.inboundAt sec || (!reads && s.allocHeld none (sec / 8) 0)) = false ∧
    s.mgrMissing reads a len = [] ∧ (reads = true → (mgrSectors a len).find? (fun sec => s.secPoisoned sec) = none)

/-- The row that runs a request at its bank. -/
def bankRowOf : ReqKind → Option (Nat → Nat → LlcErr → Instr)
  | .read | .operand _ | .write | .atomic _ _ => some .bankAccess
  | .add _ _ => some .addRequest
  | .declare _ => some (fun rid _ _ => .deadDeclaration rid)
  | .fetch => none

/-- A request queued for a home of this module that is out of reset, next on its path and not yet at its bank. -/
abbrev bankComes (s : State) (rid : Nat) (x : Req) : Prop :=
  s.queued? rid = some x ∧ s.running = true ∧ s.homeUp x.line = true ∧ s.bankq.contains rid = false ∧ s.pathClear x = true

/-- The state in which a request comes to its bank: its launch uses the HBM of its home, and the SRAM has met `err`. -/
abbrev bankTakes (s : State) (x : Req) (err : LlcErr) : State := (s.useKernel x).llcErr x err

/-- A request arrives at a bank whose queue is empty: it is the one of its number, no earlier request of its path, of another module to its
sectors, or its group's limit of entries holds it. -/
abbrev bankArrives (s : State) (rid : Nat) (x : Req) (err : LlcErr) : Prop :=
  bankComes s rid x ∧ x ∈ (bankTakes s x err).reqs ∧ (∀ y ∈ (bankTakes s x err).reqs, y.rid = rid → y = x) ∧
    (bankTakes s x err).bankq.contains rid = false ∧ (bankTakes s x err).bankQueue x.line = [] ∧ (bankTakes s x err).pathClear x = true ∧
    (bankTakes s x err).ingressHeld x = false ∧ x.sectors.any (fun sec => (bankTakes s x err).inboundAt sec) = false

/-- The state in which a bank takes a request that arrives: the bank's queue holds it. -/
abbrev atBank (s : State) (x : Req) (err : LlcErr) : State :=
  { bankTakes s x err with bankq := (bankTakes s x err).bankq ++ [x.rid] }

/-- A request that its bank performs as it arrives: neither it nor an earlier request to its sectors waits for HBM, and it waits for no way that
a held stack keeps. -/
abbrev bankReady (s : State) (rid choice : Nat) (x : Req) (err : LlcErr) : Prop :=
  bankArrives s rid x err ∧ (atBank s x err).reqMisses x = false ∧ (atBank s x err).behindMiss x = false ∧ (atBank s x err).reqHeld x choice = false

/-- The state in which the bank performs it: the access of the half counts. -/
abbrev banked (s : State) (x : Req) (err : LlcErr) : State := (atBank s x err).countLlc (some x.inst) (x.line * 256)

/-- What a bank does after the request that arrived: it serves what is left of its queue, and what other modules wait for goes on. -/
abbrev bankRest (s : State) (x : Req) (choice : Nat) : State := (s.bankDrain x.line choice 32).resume

/-- The state in which a message that a port takes is acted on: it has left its receive buffer. -/
abbrev taken (s : State) (port : Nat) (m : Msg) (data : List Byte) : State := s.freeRx port (msgPool m) (msgFlits data)

/-- A message that a port takes: the port is `LIVE`, the header is legal, the destination is this module. -/
abbrev heard (s : State) (port : Nat) (m : Msg) : Prop :=
  s.outOfCold = true ∧ port < 16 ∧ (s.port port).st = .live ∧ msgLegal m = true ∧ m.dstPkg = s.fx.pkgId

/-- The requests that arrive from other modules: type, command, and whether a payload comes with it. -/
def fabricRequestRows : List (BitVec 8 × (Nat → Msg → List Byte → Instr) × Bool) :=
  [(1, fun p m _ => .rd p m, false), (2, .wr, true), (3, .fabricAtom, true), (4, .fabricAdd, true), (5, fun p m _ => .dead p m, false)]

end Sys2Proof.Claims
end

