-- ==== Sys2Proof/Certificates/Slice0/Obligations.lean ====
section
/-! DEFINITION. The statements for the provers. Each holds for every state and every operand that meets its hypotheses; Tests/Slice0 has a
witness for each. -/
section
open Sys2Proof Sys2Proof.Machine Sys2Proof.Claims

/-! ## The machine -/

/-- A step runs the command at the front of the queue, on the queue's rest. On an empty queue the block idles: one cycle of the 100 MHz
reference passes, with the `CLK_CORE` of each die that runs as its setting divides it; a faster setting is made once the voltage has risen
for it; a die that is held, and every die while the clocks are stopped, stands. Nothing else changes. The model's choice (log 4). -/
def Obligations.StepRunsFront : Prop :=
  (
  ∀ (c : Instr) (rest : List Instr) (s : State), s.pending = c :: rest → step s = exec c { s with pending := rest }) ∧
  (
  ∀ s : State, s.pending = [] → ∃ (c : Clk) (p : Pw), step s = .next { s with time := s.time + 10, clk := c, pw := p } ∧
    (s.clk.stopped = true ∨ s.pw.tripped = true → c = s.clk ∧ p = s.pw) ∧
    (s.clk.stopped = false → s.pw.tripped = false →
      (∀ n due, s.pw.rise = some (n, due) → due ≤ s.time + 10 →
        p = { s.pw with div := min n 192, skip := n - 192, vdiv := min n 192, rise := none }) ∧
      ((∀ n due, s.pw.rise = some (n, due) → s.time + 10 < due) →
        p = s.pw ∧ c = { s.clk with dies := c.dies } ∧ c.dies.length = s.clk.dies.length ∧
        ∀ d, d < s.clk.dies.length →
          (s.rs.dieHeld.getLsbD d = true → c.dies.getD d DieClk.reset = s.dieClk d) ∧
          (s.rs.dieHeld.getLsbD d = false → ∀ D skip n x y, s.dieSetting d = (D, skip) → 64 ≤ D → s.dieClk d = x →
            c.dies.getD d DieClk.reset = y → n = (x.phase + 1152) / D →
            y.phase = (x.phase + 1152) % D ∧ x.cycles ≤ y.cycles ∧ y.cycles ≤ x.cycles + n ∧
            (skip = 0 → x.pos < 64 → y.cycles = x.cycles + n)))))

/-- What reset leaves where the spec gives a value: the configuration block, a stack's block, the fabric block, the management block, the
reset block (`READY` 0 and every count 0), the power block. The state after reset has canonical memories. -/
def Obligations.ResetValues : Prop :=
  (
  State.reset.cf.token = 0 ∧ State.reset.cf.stall = 0x7D0 ∧ State.reset.hbm = List.replicate 16 Stack.reset ∧
  State.reset.scrubEn = true ∧ State.reset.scrubH = 0x0C ∧ State.reset.fx.valid = false ∧ State.reset.fx.pkgId = 0 ∧
  State.reset.fx.txnTimeout = 10 ∧ (∀ p, p < 16 → (State.reset.port p).en = true ∧ (State.reset.port p).rateCap = false) ∧
  State.reset.mg.sqLog2 = 6 ∧ State.reset.mg.cqLog2 = 6 ∧ State.reset.mg.en = false ∧ State.reset.mg.vector = 0 ∧
  State.reset.mg.wdMs = 0x7D0 ∧ State.reset.rs.ready = 0 ∧ State.reset.rs.counts = List.replicate 16 0 ∧
  State.reset.pw.preq = 0 ∧ State.reset.health.fenced = 0 ∧ State.reset.pending = []) ∧
  (memoriesWf State.reset = true)

/-- The three memories keep their canonical form over every step, from any state that has it. -/
def Obligations.StepKeepsMemories : Prop := ∀ s s' : State, memoriesWf s = true → step s = .next s' → memoriesWf s' = true

/-- Every instruction's word decodes to that instruction, with every field at every value that its class admits (bit 5 of `FUNC` is its
own only in classes 0x0 and 0x1; what a load meets in SRAM is no part of the word); and a word that decodes is the word of what it decodes
to. -/
def Obligations.DecodeEncodeAgree : Prop :=
  (∀ (i : Instr) (h : HerdRef) (c fn : Nat) (f : Fields), i.opcode = some (h, c, fn, f) → (c ≤ 1 ∨ f.form = false) →
    (∀ h f e, i = .ld h f e → e = .none) → ∃ w, encodeWord i = some w ∧ decodeWord h w = some i) ∧
  (∀ (h : HerdRef) (w : Word64) (i : Instr), decodeWord h w = some i → encodeWord i = some w)

/-! ## Memory and registers -/

/-- A byte written is read back, and every other byte is as before, in a memory in canonical form, which it keeps. Writing what an
unlisted address reads as removes the entry: two canonical memories that read the same everywhere are equal. -/
def Obligations.MemoryLaws : Prop :=
  (
  ∀ (m : Memory) (a : Nat) (bs : List Byte), m.wf = true →
    (writeBytes m a bs).wf = true ∧ readBytes (writeBytes m a bs) a bs.length = bs ∧
    (∀ b, b < a ∨ a + bs.length ≤ b → spGet (writeBytes m a bs) b = spGet m b)) ∧
  (
  ∀ m n : Memory, m.wf = true → n.wf = true → (∀ a, spGet m a = spGet n a) → m = n)

/-- A register result reaches its register in the acting lanes, or once where it is uniform; vz drops it; nothing else changes. vz reads 0
in every lane, alone or as the last register of a longer use, and drops what is written there; p7 reads true. -/
def Obligations.RegisterLaws : Prop :=
  (
  ∀ (h : Herd) (u : Use) (act : LaneMask) (v : Nat → Nat), filesWf h →
    wrote h (h.writeLanes u act v) u act v ∧ filesWf (h.writeLanes u act v)) ∧
  (
  ∀ (h : Herd) (u : Use) (span l v : Nat), h.read { uni := false, r := 255, span := span } l = 0 ∧ h.pred 7 = BitVec.allOnes 32 ∧
    (u.uni = false → u.r + u.span = 256 → h.read u l < 2 ^ (32 * (255 - u.r))) ∧ h.setReg false 255 l (BitVec.ofNat 32 v) = h)

/-! ## Instructions of a herd -/

/-- An instruction of a herd that may issue: with no acting lane it only goes on to the next instruction; with one, an encoding that is
not legal faults the context with `ILLEGAL_INSTR`, naming the lowest acting lane; a register that is still being written holds it. A herd
whose context is being killed or dead, or that waits at a barrier, does not issue. A fetch from an executable page of this module, whose
sector is in its half, takes the word at the program counter, or with `stale` one that the place has held while the kernel ran: where it
names an instruction, that is the herd's next instruction, and its issue is counted. -/
def Obligations.IssueRules : Prop :=
  (
  ∀ (i : Instr) (s : State) (r : HerdRef) (f : Fields) (sh : Shape) (h : Herd),
    shapeOf i = some (r, f, sh) → s.issuing? r = some h →
      (h.acting f = 0#32 → exec i s = .next (s.updHerd r Herd.next)) ∧
      (h.acting f ≠ 0#32 → sh.legal h.nreg = false → exec i s = .next (s.herdFault r h .illegalInstr (lowLane (h.acting f)) 0)) ∧
      (h.acting f ≠ 0#32 → sh.legal h.nreg = true → s.hazard r sh = true → exec i s = .next s)) ∧
  (
  ∀ (i : Instr) (s : State) (r : HerdRef) (f : Fields) (sh : Shape),
    (shapeOf i = some (r, f, sh) ∨ i = .bra r f) → s.issuing? r = none → exec i s = .next s) ∧
  (
  ∀ (s : State) (r : HerdRef) (h : Herd) (pa : Nat) (w stale : Bool) (i : Instr),
    s.issuing? r = some h → h.fetched = none → (s.herdReqs r).all (fun q => q.kind != .fetch) = true →
    s.herdXlat r h .fetch h.pc.toNat = .device pa w → s.isLocal pa = true → s.secMissing (paLocal pa / 32) = false →
    s.secPoisoned (paLocal pa / 32) = false →
    decodeWord r (s.newChoice.fetchWord r h stale (paLocal pa)) = some i →
    exec (.instructionFetch r stale) s =
      .next ((s.newChoice.newChoice.updHerd r (fun x => { x with fetched := some (s.newChoice.fetchWord r h stale (paLocal pa)) })).countEvent
        (some h.inst) 4 r.core 1) ∧
    (stale = false → s.newChoice.fetchWord r h stale (paLocal pa) = BitVec.ofNat 64 (leNat (s.homeBytes (paLocal pa) 8))))

/-- Results of the integer and logic class: wrapping sums and differences, minima and maxima by the sign of the type, bit-wise operations,
shifts by the operand modulo the width, bit counts, bit-wise choice, field extract and insert, the choice by a predicate. `RDSR` writes
the status register that `SA` names: lane, herd position, core, active mask, timebase, and the `CLK_CORE` cycles of its die that have run
since the kernel started. -/
def Obligations.IntegerResults : Prop :=
  (
  aluResult .mov (intForm [0] 1 true) (fun _ _ _ _ a _ _ => a) ∧
  elemResult .add (intForm addTypes 2 true) (fun _ t x y _ => (x + y) % 2 ^ elemBits t) ∧
  elemResult .sub (intForm addTypes 2 true) (fun _ t x y _ => (x + (2 ^ elemBits t - y % 2 ^ elemBits t)) % 2 ^ elemBits t) ∧
  elemResult .min (intForm addTypes 2 true) (fun _ t x y _ => if intVal t y < intVal t x then y else x) ∧
  elemResult .max (intForm addTypes 2 true) (fun _ t x y _ => if intVal t x < intVal t y then y else x) ∧
  aluResult .and (intForm [0, 2] 2 true) (fun _ _ _ _ a b _ => a &&& b) ∧
  aluResult .or (intForm [0, 2] 2 true) (fun _ _ _ _ a b _ => a ||| b) ∧
  aluResult .xor (intForm [0, 2] 2 true) (fun _ _ _ _ a b _ => a ^^^ b) ∧
  aluResult .andn (intForm [0, 2] 2 true) (fun _ _ _ t a b _ => a &&& (2 ^ elemBits t - 1 - b)) ∧
  aluResult .shl (intForm [0, 2] 2 true) (fun _ _ _ t a b _ => a * 2 ^ (b % elemBits t) % 2 ^ elemBits t) ∧
  aluResult .shr (intForm [0, 1, 2, 3] 2 true) (fun _ _ _ t a b _ => shrElem t a b) ∧
  aluResult .cnt1 (intForm [0, 2] 1 false) (fun _ _ _ t a _ _ => countOnes (elemBits t) a) ∧
  aluResult .lzc (intForm [0, 2] 1 false) (fun _ _ _ t a _ _ => leadZeros (elemBits t) a) ∧
  aluResult .bmux (intForm [0, 2] 3 false) (fun _ _ _ t a b c => (a &&& c) ||| (b &&& (2 ^ elemBits t - 1 - c))) ∧
  aluResult .bfx { intForm [0, 1] 2 false with xmask := 31 } (fun f _ _ t a b _ => bfx t a b (fXMOD f % 32 + 1)) ∧
  aluResult .bfi { intForm [0] 3 false with xmask := 31 } (fun f _ _ _ a b c => bfi a b c (fXMOD f % 32 + 1)) ∧
  aluResult .pick { intForm [0, 2] 2 false with xmask := 7 }
    (fun f h l _ a b _ => if (h.pred (fXMOD f % 8)).getLsbD l then a else b)) ∧
  (
  ∀ (s : State) (r : HerdRef) (f : Fields) (h : Herd), ready s r f (rdsrShape f) h → filesWf h →
    ∃ g : Herd, exec (.rdsr r f) s = .next (s.updHerd r (fun _ => g.next)) ∧
      wrote h g (useD f (srSpan f.sa.toNat)) (h.acting f) (fun l =>
        if f.sa = 0 then l else if f.sa = 1 then r.pos else if f.sa = 2 then r.core else if f.sa = 3 then (h.acting f).toNat
        else if f.sa = 4 then s.time % 2 ^ 64
        else ((s.dieClk (dieOfCore r.core)).cycles - ((s.slot? { core := r.core, slot := h.slot }).bind (fun x => x.kernel)).elim 0 (fun k => k.startCycles)) % 2 ^ 64))

/-- Results of the floating and multiply class: one operation on each element, operands negated by `XMOD`, rounded once. -/
def Obligations.FloatResults : Prop :=
  elemResult .fadd (fltForm 2 1 true) (fun f t => fltElem f t (fun x y _ => x.add (fRM f) y)) ∧
  elemResult .fmul (fltForm 2 1 true) (fun f t => fltElem f t (fun x y _ => x.mul y)) ∧
  elemResult .fma (fltForm 3 3 true) (fun f t => fltElem f t (fun x y z => (x.mul y).add (fRM f) z)) ∧
  elemResult .fmin (fltForm 2 1 false) (fun f t => fltElem f t (fun x y _ => x.pick false y)) ∧
  elemResult .fmax (fltForm 2 1 false) (fun f t => fltElem f t (fun x y _ => x.pick true y)) ∧
  aluResult .mullo (mulForm 2 1) (fun f _ _ t a b _ => low32 (mulVal f t 0 a * intVal t b)) ∧
  aluResult .mulhi (mulForm 2 1) (fun f _ _ t a b _ => low32 (mulVal f t 0 a * intVal t b / 2 ^ 32)) ∧
  aluResult .madlo (mulForm 3 3) (fun f _ _ t a b c => low32 (mulVal f t 0 a * intVal t b + mulVal f t 1 c))

/-- Results of the conversion and transcendental class. Where the rule gives an error bound only, the result is the implementation's own
within it (log 8), and `RM` is not used. -/
def Obligations.ConversionResults : Prop :=
  laneResult .conv convShape (fun f => useD f (convSpan f (convDst f))) (fun _ f h _ l =>
    packElems (elemBits (convDst f)) ((List.range (convCount f)).map (fun i =>
      convElem (fRM f) (convSat f) (fTYPE f) (convDst f)
        (elem (h.read (useA f (convSpan f (fTYPE f))) l) (elemBits (fTYPE f)) i)))) ∧
  laneResult .recip (fun f => transShape f true) (fun f => useD f 1) (fun _ f h _ l =>
    fmtF32.encode (fRM f) false (fmtF32.decode (h.read (useA f 1) l)).recip) ∧
  laneResult .sqrt (fun f => transShape f true) (fun f => useD f 1) (fun _ f h _ l =>
    fmtF32.encode (fRM f) false (fmtF32.decode (h.read (useA f 1) l)).sqrt) ∧
  (∀ p ∈ [(Instr.rsqrt, 2), (Instr.exp2, 4), (Instr.log2, 5), (Instr.sin, 6), (Instr.cos, 7), (Instr.tanh, 8)],
    laneResult p.1 (fun f => transShape f false) (fun f => useD f 1) (fun _ f h _ l =>
      (transcendental p.2 (BitVec.ofNat 32 (h.read (useA f 1) l))).toNat))

/-- Results of the compare and vote functions. Results of `CMPV` and of the herd-wide functions: the mask of voting lanes, values moved
between lanes (the source lane need not act), and reductions over the acting lanes. -/
def Obligations.PredicateAndHerdWideResults : Prop :=
  (
  predResult .cmpi (cmpPredShape [0, 1, 2, 3]) (fun f h _ l =>
    mergePred (cmpMerge f) (cmpLane f h l) ((h.pred f.dst.toNat).getLsbD l)) ∧
  predResult .cmpf (cmpPredShape [4, 5]) (fun f h _ l =>
    mergePred (cmpMerge f) (cmpLane f h l) ((h.pred f.dst.toNat).getLsbD l)) ∧
  predResult .first (votePredShape false) (fun _ _ act l => decide (l = lowLane act)) ∧
  predResult .anyp (votePredShape true) (fun f h act _ => h.pred f.sa.toNat &&& act != 0#32) ∧
  predResult .allp (votePredShape true) (fun f h act _ => h.pred f.sa.toNat &&& act == act)) ∧
  (
  laneResult .cmpv cmpvShape (fun f => useD f (typeSpan (fTYPE f))) (fun _ f h _ l =>
    if cmpLane f h l then 2 ^ (32 * typeSpan (fTYPE f)) - 1 else 0) ∧
  laneResult .lmask lmaskShape (fun f => useD f 1) (fun _ f h act _ => (h.pred f.sa.toNat &&& act).toNat) ∧
  laneResult .lget moveShape (fun f => useD f 1) (fun _ f h _ l => h.read (wideA f) (h.read (wideB f) l % 32)) ∧
  laneResult .lrot moveShape (fun f => useD f 1) (fun _ f h _ l => h.read (wideA f) ((l + h.read (wideB f) l) % 32)) ∧
  laneResult .lswz moveShape (fun f => useD f 1) (fun _ f h _ l => h.read (wideA f) (l ^^^ (h.read (wideB f) l % 32))) ∧
  (∀ p ∈ [(Instr.hsum, addElem), (Instr.hmin, minElem), (Instr.hmax, maxElem)],
    laneResult p.1 reduceShape (fun f => useD f 1) (fun _ f h act _ =>
      let vs := (laneList act).map (fun l => h.read (wideA f) l)
      vs.tail.foldl (p.2 (fTYPE f)) (vs.headD 0))))

/-- `BRA`: the lanes whose guard holds go to `TARGET`. Where all agree, the herd goes one way and the stack stays; where they disagree,
the fall-through lanes run first and one entry keeps the reconvergence point, the full mask and the taken lanes; a 65th entry is
`ILLEGAL_INSTR`. `TARGET`, and `RECONV` where the lanes diverge, lie in executable pages, or the branch faults with what the translation
meets: with the lower of two causes where both do. The program counter and the lane that are recorded are the model's choice (log 25). A
divergence runs both sides and joins: the fall-through lanes at the reconvergence point give way to the taken lanes, and these, there in
turn, to the full mask less the lanes that have exited. -/
def Obligations.BranchRules : Prop :=
  (
  ∀ (s : State) (r : HerdRef) (f : Fields) (h : Herd) (tgt rec : Word64),
    s.issuing? r = some h → h.active ≠ 0#32 → f.form = false → lowBits f 1 0 = 0 →
    tgt = h.pc + BitVec.ofInt 64 (8 * signed (fTarget f) 24) → rec = h.pc + BitVec.ofInt 64 (8 * signed (fReconv f) 24) →
      (h.acting f = 0#32 → executable s r h tgt → exec (.bra r f) s = .next (s.newChoice.updHerd r Herd.next)) ∧
      (h.acting f = h.active → executable s r h tgt →
        exec (.bra r f) s = .next (s.newChoice.updHerd r (fun x => x.goto tgt x.active))) ∧
      (h.acting f ≠ 0#32 → h.acting f ≠ h.active → h.stack.length < 64 → executable s r h tgt → executable s r h rec →
        exec (.bra r f) s = .next (s.newChoice.updHerd r (fun x =>
          { x with stack := .diverge rec x.active (h.acting f) tgt false :: x.stack }.goto (x.pc + 8) (x.active &&& ~~~(h.acting f))))) ∧
      (∀ c, (s.herdXlat r h .fetch tgt.toNat).cause = some c →
        h.acting f = 0#32 ∨ h.acting f = h.active ∨ (h.stack.length < 64 ∧ executable s r h rec) →
        exec (.bra r f) s = .next (s.herdFault r h c (lowLane h.active) tgt.toNat)) ∧
      (∀ c, (s.herdXlat r h .fetch rec.toNat).cause = some c → executable s r h tgt →
        h.acting f ≠ 0#32 → h.acting f ≠ h.active → h.stack.length < 64 →
        exec (.bra r f) s = .next (s.herdFault r h c (lowLane h.active) rec.toNat)) ∧
      (∀ c d, (s.herdXlat r h .fetch tgt.toNat).cause = some c → (s.herdXlat r h .fetch rec.toNat).cause = some d →
        h.acting f ≠ 0#32 → h.acting f ≠ h.active → h.stack.length < 64 →
        exec (.bra r f) s = .next (if c.code ≤ d.code then s.herdFault r h c (lowLane h.active) tgt.toNat
          else s.herdFault r h d (lowLane h.active) rec.toNat)) ∧
      (h.acting f ≠ 0#32 → h.acting f ≠ h.active → 64 ≤ h.stack.length →
        exec (.bra r f) s = .next (s.herdFault r h .illegalInstr (lowLane h.active) 0))) ∧
  (
  ∀ (exited mask taken : LaneMask) (reconv target pc : Word64) (act : LaneMask) (rest : List StackEntry),
    (act ≠ 0#32 → pc ≠ reconv → settle exited (.diverge reconv mask taken target false :: rest) pc act =
      (pc, act, .diverge reconv mask taken target false :: rest)) ∧
    (taken &&& ~~~exited ≠ 0#32 → target ≠ reconv → settle exited (.diverge reconv mask taken target false :: rest) reconv act =
      (target, taken &&& ~~~exited, .diverge reconv mask taken target true :: rest)) ∧
    (settle exited (.diverge reconv mask taken target true :: rest) reconv act = settle exited rest reconv (mask &&& ~~~exited)) ∧
    (settle exited [] pc act = (pc, act, [])))

/-- `CALL`, `RET`, `EXIT`, `NOP`, `HSYNC` and `TRAP` of a herd that is ready. The last lane's `EXIT` ends the herd: it leaves its
position, and no other herd of its core changes. -/
def Obligations.ControlRules : Prop :=
  (
  (∀ s r f h, ready s r f (callShape f) h → h.stack.length < 64 →
    executable s r h (h.pc + BitVec.ofInt 64 (8 * signed (fTarget f) 24)) →
    exec (.call r f) s = .next (s.newChoice.updHerd r (fun x =>
      { x with stack := .call (x.pc + 8) x.active :: x.stack }.goto (x.pc + BitVec.ofInt 64 (8 * signed (fTarget f) 24)) (h.acting f)))) ∧
  (∀ s r f h ret mask rest, ready s r f (ctrlShape f) h → h.stack = .call ret mask :: rest →
    exec (.ret r f) s = .next (s.updHerd r (fun x => { x with stack := rest }.goto ret (mask &&& ~~~x.exited)))) ∧
  (∀ s r f h, ready s r f (ctrlShape f) h →
    exec (.exit r f) s = .next (s.putHerd r
      ({ h with exited := h.exited ||| h.acting f }.goto (h.pc + 8) (h.active &&& ~~~(h.acting f))))) ∧
  (∀ s r f h, ready s r f (ctrlShape f) h → exec (.nop r f) s = .next (s.updHerd r (fun _ => h.next))) ∧
  (∀ s r f h, ready s r f (ctrlShape f) h → h.active = ~~~h.exited → exec (.hsync r f) s = .next (s.updHerd r Herd.next)) ∧
  (∀ s r f h, ready s r f (ctrlShape f) h → h.active ≠ ~~~h.exited →
    exec (.hsync r f) s = .next (s.herdFault r h .illegalInstr (lowLane (h.acting f)) 0)) ∧
  (∀ s r f h, ready s r f (ctrlShape f) h → exec (.trap r f) s = .next (s.herdFault r h .trap (lowLane (h.acting f)) 0))) ∧
  (
  ∀ (s : State) (r : HerdRef) (f : Fields) (h : Herd), ready s r f (ctrlShape f) h →
    h.acting f = h.active → h.stack = [] →
    ∃ t, exec (.exit r f) s = .next t ∧ t.herd? r = none ∧
      (∀ p, p ≠ r.pos → t.herd? { core := r.core, pos := p } = s.herd? { core := r.core, pos := p }) ∧
      t.mem = s.mem ∧ t.back = s.back ∧ t.insts = s.insts)

/-- A fence goes on once every access that it covers has reached the point of its scope (for an acquire fence: once every load has
returned), and holds the herd till then; a full or acquire fence at `CORE` or wider then empties the slot's L1. A release fence at
`PACKAGE` may let the herd go on before, and then holds its later stores until what it covers has reached its point (the model's choice,
log 59). `BAR` with `COUNT` 0 is a full fence at `CORE`; any other counts an arrival. -/
def Obligations.FenceAndBarrierRules : Prop :=
  (∀ s r f h b, ready s r f (fenceShape f) h → h.acquire = none →
    b = (if lowBits f 1 0 = 1 then s.loadsDone r else s.allReached r (lowBits f 7 5)) →
    (b = true → exec (.fence r f) s = .next (if lowBits f 1 0 ≠ 2 ∧ 2 ≤ lowBits f 7 5
      then (s.updHerd r Herd.next).invalidateL1 { core := r.core, slot := h.slot } else s.updHerd r Herd.next)) ∧
    (b = false → lowBits f 1 0 ≠ 2 ∨ lowBits f 7 5 ≠ 4 → exec (.fence r f) s = .next s) ∧
    (b = false → lowBits f 1 0 = 2 → lowBits f 7 5 = 4 → exec (.fence r f) s = .next (
      let held := ((s.herdReqs r).filter (fun x => !s.reached x 4)).map (fun x => x.rid)
      let t := { s with freeSeq := s.freeSeq + 1 }
      if Config.passesFence s.freeSeq then t.updHerd r (fun x => { x.next with releases := h.releases ++ [(4, held)] }) else t))) ∧
  (∀ s r f h, ready s r f (barShape f) h → h.acquire = none → s.allReached r 2 = true →
    exec (.bar r f) s = .next (if lowBits f 21 14 = 0 then (s.invalidateL1 { core := r.core, slot := h.slot }).updHerd r Herd.next
      else (s.invalidateL1 { core := r.core, slot := h.slot }).arrive r h.slot (lowBits f 25 22) (lowBits f 21 14)))

/-! ## Memory instructions and the matrix queue -/

/-- Scratchpad `LD`, `ST` and `ATOM`: with every offset naturally aligned and within the kernel's scratchpad, a load writes the extended
value of each accessing lane; a store writes the acting lanes' bytes, a higher lane over a lower one; an atomic performs the lanes in
ascending order, each receiving the value before its own operand. Nothing else changes but the next program counter, a held address
pipeline (and the L1 lines that an acquire drops). -/
def Obligations.ScratchpadAccess : Prop :=
  (∀ (s : State) (r : HerdRef) (f : Fields) (h : Herd), readyMem s r f (ldShape f) false h → fSpace f = 1 →
    (∀ l ∈ loadLanes f (h.acting f), scratchOff h f (fOFS f) l % fSize f = 0 ∧ scratchOff h f (fOFS f) l < s.scratchSize r h) →
    exec (.ld r f .none) s = .next ((entered s r).updHerd r (fun y =>
      ((loadLanes f (h.acting f)).foldl (fun y l => y.write { uni := lowBit f 0, r := f.dst.toNat, span := spanOf (fSize f) } l
        (extend (lowBit f 13) (fSize f) (leNat (readBytes (s.scratch r h) (scratchOff h f (fOFS f) l) (fSize f))))) y).next))) ∧
  (∀ (s : State) (r : HerdRef) (f : Fields) (h : Herd), readyMem s r f (stShape f) true h → fSpace f = 1 →
    (∀ l ∈ laneList (h.acting f), scratchOff h f (fOFS f) l % fSize f = 0 ∧ scratchOff h f (fOFS f) l < s.scratchSize r h) →
    exec (.st r f) s = .next (((entered s r).updSlot { core := r.core, slot := h.slot } (fun y =>
      { y with scratch := (laneList (h.acting f)).foldl (fun m l =>
          writeBytes m (scratchOff h f (fOFS f) l) (leBytes (h.read (stData f) l) (fSize f))) y.scratch })).updHerd r Herd.next)) ∧
  (∀ (s : State) (r : HerdRef) (f : Fields) (h : Herd), readyMem s r f (atomShape f) true h → fSpace f = 1 →
    (lowBit f 1 = true → s.allReached r (fScope f) = true) →
    (∀ l ∈ laneList (h.acting f), scratchOff h f 0 l % fSize f = 0 ∧ scratchOff h f 0 l < s.scratchSize r h) →
    ∃ (m : Memory) (olds : List (Nat × Nat)) (t : State),
      (laneList (h.acting f)).foldl (fun (p : Memory × List (Nat × Nat)) l =>
        let old := leNat (readBytes p.1 (scratchOff h f 0 l) (fSize f))
        let new := atomNew (fAOP f) (fSize f) old (h.read { uni := false, r := f.sb.toNat, span := spanOf (fSize f) } l)
          (h.read { uni := false, r := fSC f, span := spanOf (fSize f) } l)
        (writeBytes p.1 (scratchOff h f 0 l) (leBytes new (fSize f)), p.2 ++ [(l, old)])) (s.scratch r h, []) = (m, olds) ∧
      t = ((entered s r).updSlot { core := r.core, slot := h.slot } (fun y => { y with scratch := m })).updHerd r (fun y =>
        (olds.foldl (fun y x => y.write { uni := false, r := f.dst.toNat, span := spanOf (fSize f) } x.1 x.2) y).next) ∧
      exec (.atom r f) s = .next (if lowBit f 0 && 2 ≤ fScope f then t.invalidateL1 { core := r.core, slot := h.slot } else t))

/-- A global load all of whose lanes resolve, with miss registers for its lines: served from L1 at `HERD` scope or below where L1 has the
sector; else it joins a request in flight for the sector or sends one request per line of this module, one per sector of another module,
one read per lane of the host; with `.LAST` the lines touched are declared dead; an acquire that has to wait holds back the herd's later
accesses. With no register for a line it holds its scheduler's address pipeline; it waits for room among the host's requests, and a stream
load for landing lines. -/
def Obligations.GlobalLoad : Prop :=
  ∀ (s : State) (r : HerdRef) (f : Fields) (h : Herd) (dest : Nat → LaneTo),
    readyMem s r f (ldShape f) false h → fSpace f = 0 →
    (∀ l ∈ loadLanes f (h.acting f), (entered s r).laneTo h.inst ((entered s r).kernelSince r.core h.slot) .read (globalVa h f (fOFS f) l)
      (fSize f) = .ok (dest l)) →
    let e := (entered s r).newChoice
    let ts := (loadLanes f (h.acting f)).map (fun l => (l, globalVa h f (fOFS f) l, dest l))
    let acc := fun l va a => ({ lane := l, va := va, pa := a, size := fSize f, data := 0, cmp := 0 } : LaneAcc)
    let near := fun (x : LaneAcc) => decide (fScope f ≤ 1) && (l1Hit (e.l1 r h) x.pa).isSome
    let home := homeLanes ts acc
    let hits := home.filter near
    let lines := groupLanes (fun x => x.pa / 256) (home.filter (fun x => !near x))
    let far := remoteLanes ts acc
    let regs := lines.map (fun g => (Target.home, g.1)) ++ far.map (fun x => (Target.remote, x.pa / 256))
      ++ (hostLanes ts acc).map (fun x => (Target.host, x.pa / 256))
    let op := e.nextId
    (e.missFits r.core regs = false → exec (.ld r f .none) s = .next (e.holdPipe r)) ∧
    (e.missFits r.core regs = true → e.hostFits (hostLanes ts acc).length = false ∨ e.landFar r.core (farLines f far) = false →
      exec (.ld r f .none) s = .next e) ∧
    (∀ s1, e.missFits r.core regs = true → e.hostFits (hostLanes ts acc).length = true → e.landFar r.core (farLines f far) = true →
      ({ e with nextId := op + 1 } : State).sendAll h.inst
        (ldRemote op r f h far ++ (if lowBit f 4 then deadRemote op r h (e.deadchk h.ctxRef) far else [])) = (s1, true) →
      exec (.ld r f .none) s = .next (
        let t := ((s1.takeLanding r.core (farLines f far)).ldHome op r f h lines).ldHost op r f h (hostLanes ts acc)
        let t := if lowBit f 4 then (groupLanes (fun x => x.pa / 256) home).foldl (fun t g =>
          t.addReq (fun rid => herdReq rid op r h (.declare (e.deadchk h.ctxRef)) .home g.1 [])) t else t
        let t := (distinct (hits.map (fun x => x.pa / 256))).foldl (fun t l => t.touchL1 { core := r.core, slot := h.slot } l) t
        t.updHerd r (fun y =>
          { (hits.foldl (fun y x => match l1Hit (e.l1 r h) x.pa with
              | some l => y.write { uni := lowBit f 0, r := f.dst.toNat, span := spanOf (fSize f) } x.lane
                  (extend (lowBit f 13) (fSize f) (lineBytes l.data x.pa (fSize f)))
              | none => y) y).next with
            acquire := if lowBit f 1 && hits.length < ts.length then some (fScope f) else y.acquire })))

/-- A global store all of whose lanes resolve, with its release satisfied and room among the host's requests: one write per line of this
module, also into the slot's valid L1 copy; one per sector of another module; one per lane of the host. A global atomic all of whose lanes
resolve (a host lane only with an `AOP` that PCIe has), with its release satisfied and room among the host's requests: one request per
line of this module, the combined operation of a sector for another module, one per lane of the host; an acquire holds back the herd's
later accesses. `ST.ADD` all of whose lanes resolve outside the host: one add request per line of this module, and for another module one
per lane of a sector's busiest element. -/
def Obligations.GlobalStoresAndAtomics : Prop :=
  (
  ∀ (s s1 : State) (r : HerdRef) (f : Fields) (h : Herd) (dest : Nat → LaneTo),
    readyMem s r f (stShape f) true h → fSpace f = 0 → (lowBit f 1 = true → s.allReached r (fScope f) = true) →
    (∀ l ∈ laneList (h.acting f), (entered s r).laneTo h.inst ((entered s r).kernelSince r.core h.slot) .write (globalVa h f (fOFS f) l)
      (fSize f) = .ok (dest l)) →
    let e := (entered s r).newChoice
    let op := e.nextId
    let ts := (laneList (h.acting f)).map (fun l => (l, globalVa h f (fOFS f) l, dest l))
    let acc := fun l va a =>
      ({ lane := l, va := va, pa := a, size := fSize f, data := h.read (stData f) l % 2 ^ (8 * fSize f), cmp := 0 } : LaneAcc)
    e.hostFits (hostLanes ts acc).length = true →
    ({ e with nextId := op + 1 } : State).sendAll h.inst (stRemote op r h (remoteLanes ts acc)) = (s1, true) →
    exec (.st r f) s = .next (
      let t := (homeLanes ts acc).foldl (fun t x => t.storeL1 r h x) s1
      let t := (groupLanes (fun x => x.pa / 256) (homeLanes ts acc)).foldl (fun t g =>
        t.addReq (fun rid => herdReq rid op r h .write .home g.1 g.2)) t
      (t.stHost op r h (hostLanes ts acc)).updHerd r Herd.next)) ∧
  (
  ∀ (s s1 : State) (r : HerdRef) (f : Fields) (h : Herd) (dest : Nat → LaneTo),
    readyMem s r f (atomShape f) true h → fSpace f = 0 → (lowBit f 1 = true → s.allReached r (fScope f) = true) →
    (∀ l ∈ laneList (h.acting f), (entered s r).laneTo h.inst ((entered s r).kernelSince r.core h.slot) .write (globalVa h f 0 l)
      (fSize f) = .ok (dest l)) →
    (∀ l ∈ laneList (h.acting f), ∀ a, dest l = .host a → (hostAtomKind (fAOP f)).isSome = true) →
    let e := (entered s r).newChoice
    let op := e.nextId
    let ts := (laneList (h.acting f)).map (fun l => (l, globalVa h f 0 l, dest l))
    let acc := fun l va a => ({ lane := l, va := va, pa := a, size := fSize f
                                data := h.read { uni := false, r := f.sb.toNat, span := spanOf (fSize f) } l
                                cmp := h.read { uni := false, r := fSC f, span := spanOf (fSize f) } l } : LaneAcc)
    e.hostFits (hostLanes ts acc).length = true →
    ({ e with nextId := op + 1 } : State).sendAll h.inst (atomRemote op r f h (remoteLanes ts acc)) = (s1, true) →
    exec (.atom r f) s = .next (
      let t := (groupLanes (fun x => x.pa / 256) (homeLanes ts acc)).foldl (fun t g =>
        t.addReq (fun rid => { herdReq rid op r h (.atomic (fAOP f) (fSize f)) .home g.1 g.2 with
          dst := f.dst.toNat, scope := fScope f, acquire := lowBit f 0 })) s1
      let t := match hostAtomKind (fAOP f) with
        | some k => t.atomHost op r f h k (hostLanes ts acc)
        | none => t
      t.updHerd r (fun y => { y.next with acquire := if lowBit f 0 then some (fScope f) else y.acquire }))) ∧
  (
  ∀ (s s1 : State) (r : HerdRef) (f : Fields) (h : Herd) (dest : Nat → LaneTo),
    readyMem s r f (stAddShape f) true h →
    (∀ l ∈ laneList (h.acting f), (entered s r).laneTo h.inst ((entered s r).kernelSince r.core h.slot) .write (globalVa h f (fOFS f) l)
      (addSize f) = .ok (dest l)) →
    (∀ l ∈ laneList (h.acting f), ∀ a, dest l ≠ .host a) →
    let e := (entered s r).newChoice
    let op := e.nextId
    let ts := (laneList (h.acting f)).map (fun l => (l, globalVa h f (fOFS f) l, dest l))
    let acc := fun l va a => ({ lane := l, va := va, pa := a, size := addSize f
                                data := h.read { uni := false, r := f.sb.toNat, span := spanOf (addSize f) } l % 2 ^ (8 * addSize f)
                                cmp := 0 } : LaneAcc)
    ({ e with nextId := op + 1 } : State).sendAll h.inst (addRemote op r f h (remoteLanes ts acc)) = (s1, true) →
    exec (.stAdd r f) s = .next (((groupLanes (fun x => x.pa / 256) (homeLanes ts acc)).foldl (fun t g =>
      t.addReq (fun rid => herdReq rid op r h (.add (fAFMT f) (fAFMT f)) .home g.1 g.2)) s1).updHerd r Herd.next))

/-- `MX.ISSUE` and `SB.ISSUE` append one operation, with the descriptor of the lowest acting lane, to the slot's queue where it has room
and the token is free, behind no acquire and no release fence; `MX.WAIT` goes on once no operation of a named token is left. An engine
that works on nothing takes the next operation in rotating slot order, and goes on with it: what it has computed drains, and a stage whose
operands are all there is worked: the operands that it read go, the count of its round's stages rises, and with the last one that of the
rounds, the arrays' next round uses the other accumulator bank, and only complete units leave outputs to drain. An operation whose every
round is worked, whose dead declarations are sent and whose outputs have drained, for the path been accepted at their homes, leaves the
queue with its completion. -/
def Obligations.MatrixRules : Prop :=
  (
  (∀ p ∈ [(Instr.mxIssue, false), (Instr.sbIssue, true)], ∀ (s : State) (r : HerdRef) (f : Fields) (h : Herd) (x : Slot),
    ready s r f (mxShape f) h → h.acquire = none → s.releasesDone h = true → s.slot? { core := r.core, slot := h.slot } = some x →
    let lane := lowLane (h.acting f)
    let off := h.read { uni := lowBit f 0, r := f.sa.toNat, span := 1 } lane
    off % 64 = 0 → off + 64 ≤ s.scratchSize r h → x.mxq.length < 16 →
    x.mxq.all (fun o => !(o.live && o.pos = r.pos && o.token = f.dst.toNat)) = true →
    (mxDesc p.2 (descWords (s.scratch r h) off)).valid (s.scratchSize r h) = true →
    exec (p.1 r f) s = .next ((({ s with nextId := s.nextId + 1 } : State).updSlot { core := r.core, slot := h.slot } (fun (y : Slot) =>
      { y with mxq := y.mxq ++ [{ id := s.nextId, springbok := p.2, pos := r.pos, live := true, token := f.dst.toNat,
                                  desc := descWords (s.scratch r h) off, pc := h.pc, lane := lane, started := false, round := 0,
                                  tile := 0, reads := [], lands := [], dead := [], combine := [], writes := [] }] })).updHerd r Herd.next)) ∧
  (∀ (s : State) (r : HerdRef) (f : Fields) (h : Herd) (x : Slot),
    ready s r f (mxWaitShape f) h → s.slot? { core := r.core, slot := h.slot } = some x →
    x.mxq.all (fun o => !(o.live && o.pos = r.pos && f.low.getLsbD o.token)) = true →
    exec (.mxWait r f) s = .next (({ s with reqs := s.reqs.map (fun (q : Req) =>
      if q.core = r.core && 256 ≤ q.pos && (q.pos - 256) / 16 = r.pos && f.low.getLsbD ((q.pos - 256) % 16) then
        { q with pos := r.pos } else q) } : State).updHerd r Herd.next))) ∧
  (
  (∀ p ∈ [(Instr.elandOpStart, false), (Instr.springbokOpStart, true)], ∀ (s : State) (core : Nat) (w : OpAt), s.clocked = true →
    s.workingOp core p.2 = none → s.takeOp core p.2 = some w → s.opStopped w = false → s.canBegin w = true →
    exec (p.1 core) s = .next ((s.beginOp w).opStep ((s.beginOp w).refresh w)) ∧
    (∀ x, s.slot? { core := core, slot := w.slot } = some x → w.op.springbok = p.2 → core < s.cores.length →
      ((s.beginOp w).core core).arrNext = (if p.2 then (s.core core).arrNext else (w.slot + 1) % 64) ∧
      ((s.beginOp w).core core).sbNext = (if p.2 then (w.slot + 1) % 64 else (s.core core).sbNext))) ∧
  (∀ (s t : State) (w : OpAt) (e n : Nat) (x : Slot) (o : MxOp) (ends : Bool), w.core < s.cores.length →
    s.slot? { core := w.core, slot := w.slot } = some x → x.mxq.find? (fun o => o.id = w.op.id) = some o → t = s.workStage w e n →
    ends = decide (n % w.desc.tiles + 1 = w.desc.tiles) →
    ∃ (y : Slot) (p : MxOp), t.slot? { core := w.core, slot := w.slot } = some y ∧ y.mxq.find? (fun o => o.id = w.op.id) = some p ∧
      (ends = true → p.round = o.round + 1 ∧ p.tile = 0) ∧ (ends = false → p.round = o.round ∧ p.tile = o.tile + 1) ∧
      p.reads = o.reads.filter (fun r => !(r.1.1 = n && (w.rows e n ++ w.weights e n ++ w.starts e n).contains r.1.2)) ∧
      (ends = false ∨ (w.desc.stageUnits e n).filter w.desc.last = [] → p.writes = o.writes) ∧
      (t.core w.core).bank = (if ends && !w.op.springbok then 1 - (s.core w.core).bank else (s.core w.core).bank) ∧
      y.scratch = x.scratch ∧ t.mem = s.mem ∧ t.reqs = s.reqs) ∧
  (∀ p ∈ [(Instr.elandOpComplete, false), (Instr.springbokOpComplete, true)], ∀ (s t : State) (core : Nat) (w : OpAt), s.clocked = true →
    s.runningOp core p.2 = some w → s.opStopped w = false → t = s.opRest w (w.desc.rounds (s.width core p.2)) →
    t.opStopped (t.refresh w) = false → t.worked core (t.refresh w).op = true → (t.refresh w).op.writes = [] → (t.refresh w).op.dead = [] →
    (p.2 = true → t.outputsAccepted (t.refresh w) = true) →
    exec (p.1 core .none) s = .next (t.retireOp (t.refresh w))))

/-! ## Contexts -/

/-- `CX_FAULT` records the first fault of a context: the cause, the core, herd and lane, the program counter and the address, and the
context enters the killing state; each further fault counts; a dead context records nothing. Steps 1 to 4 of a kill stop the context,
count the kill, put every bound slot into `KILLING` with an empty matrix queue, drop its loads, abort its open epochs, and end its
collectives with `CONTEXT_FAULTED`, their groups broken with this member to blame (the model's choice of member, log 60); steps 5 and 6
begin once they have run, and a context that has not faulted is not killed. The end of a kill: every bound slot is wiped, the epochs end,
the context is dead, its queues are faulted, its commands complete with `CONTEXT_FAULTED` and the cause, the kill is counted for the
instance, and the manager and the queues' vectors hear of it. A kernel that has a slot on every core and has run for `WD_PERIOD_MS` since
its first herd, the time it waited for residency left out, faults its context with `WATCHDOG`; the fields that the rule gives no value for
are free (log 7). -/
def Obligations.ContextKillRules : Prop :=
  (
  ∀ (c : Ctx) (f : FaultInfo),
    (c.st ≠ 4#3 → c.cause = 0#4 → c.recordFault f =
      { c with st := 3, cause := BitVec.ofNat 4 f.cause.code, fCore := BitVec.ofNat 6 f.core, fHerd := BitVec.ofNat 7 f.herd,
               fLane := BitVec.ofNat 5 (f.lane.getD 0), fLaneValid := f.lane.isSome, faultPc := BitVec.ofNat 57 f.pc,
               faultAddr := BitVec.ofNat 57 f.addr }) ∧
    (c.st ≠ 4#3 → c.cause ≠ 0#4 → c.recordFault f = { c with faultCount := satInc c.faultCount 1 }) ∧
    (c.st = 4#3 → c.recordFault f = c)) ∧
  (
  (∀ (s : State) (c : CtxRef) (x : Ctx), s.clocked = true → s.ctx? c = some x → x.st = 3#3 → x.stopped = false →
    exec (.contextKill c) s = .next (
      let s1 := (s.updCtx c (fun x => { x with
        stopped := true, epochs := x.epochs.map (fun e => if e.st = .opened then { e with st := .aborting } else e) })).countReset 13
      let s2 := (s1.boundSlots c).foldl (fun t r => (t.dropReqs r).updSlot r (fun y => { y with st := .killing, mxq := [] })) s1
      (s2.fx.groups.filter (fun g => match g.coll with
        | some k => (s2.ctxCmds c).any (fun d => d.cid = k.cid)
        | none => false)).foldl (fun t g => t.failColl g.id t.fx.pkgId.toNat .contextFaulted x.cause.toNat) s2)) ∧
  (∀ (s : State) (c : CtxRef) (x : Ctx), s.ctx? c = some x → x.st ≠ 3#3 →
    exec (.contextKill c) s = .next s ∧ exec (.contextKillComplete c) s = .next s)) ∧
  (
  ∀ (s : State) (c : CtxRef) (x : Ctx), s.clocked = true → s.ctx? c = some x → x.st = 3#3 → x.stopped = true →
    exec (.contextKillComplete c) s = .next (
      let s1 := (((s.boundSlots c).foldl (fun t r => t.wipeSlot r) s).endEpochs c).updCtx c (fun x => { x with st := 4, stopped := false })
      let s2 := s1.updInst c.inst (fun i => { i with
        kills := satInc i.kills 1, queues := i.queues.map (fun q =>
          if q.ctx = c.ctx && q.st != .resetting && q.st != .ringFault then { q with st := .faulted } else q) })
      let s3 := ((s1.ctxCmds c).map (fun d => d.cid)).foldl (fun t k => t.endCmd k .contextFaulted x.cause.toNat) s2
      let s4 := ((s1.cmds.filter (fun d => decide (s1.qCtx d.q = some c))).map (fun d => d.cid)).foldl (fun t k => t.finishCmd k) s3
      let s5 := s4.event 0x01 (c.inst + c.ctx * 2 ^ 12 + x.cause.toNat * 2 ^ 18)
      (s5.ctxVectors c).foldl (fun t v => t.msix (c.inst + 1) v) s5)) ∧
  (
  ∀ (s : State) (cid : Nat) (d : Cmd) (c : CtxRef) (x : Ctx),
    s.clocked = true → s.cmd? cid = some d → s.qCtx d.q = some c → s.ctx? c = some x → d.opcode = 0x10 → d.phase = .active → d.herdRan = true →
    x.wdEn = true → x.st ≠ 3#3 → x.st ≠ 4#3 → d.cores = [] → d.mark + d.unmeasured + x.wdPeriod.toNat * 1000000 ≤ s.time →
    exec (.contextWatchdog cid) s = .next (({ s with freeSeq := s.freeSeq + 3 } : State).ctxFault c
      { cause := .watchdog, core := Config.freeBits s.freeSeq, herd := Config.freeBits (s.freeSeq + 1), lane := none
        pc := Config.freeBits (s.freeSeq + 2), addr := 0 }))

/-! ## Queues, records and queue-control commands -/

/-- A doorbell of a queue's own party: `SQ_TAIL` and `CQ_HEAD` take an index inside the ring and clear `DB_ERR`; an index outside only
sets it; `RESUME` returns a halted queue to running. Each waits for the requester's earlier posted writes. A write by any other party, or
one that is discarded with the TLPs of an Insecure stream, changes nothing. -/
def Obligations.DoorbellRules : Prop :=
  ∀ (s : State) (p : Party) (q : QRef) (v : Word) (x : Queue), s.queue? q = some x →
    (s.running = true → s.partyUp p = true → ownsDoorbell p q = true → x.st ≠ .disabled → x.st ≠ .resetting →
      s.partyDrops p = false →
      (s.postedOut (partyFn p) = true → exec (.sqTail p q v) s = .next (s.postLater (.bell (partyFn p) .sqTail q v)) ∧
        exec (.cqHead p q v) s = .next (s.postLater (.bell (partyFn p) .cqHead q v)) ∧
        exec (.resume p q v) s = .next (s.postLater (.bell (partyFn p) .resume q v))) ∧
      (s.postedOut (partyFn p) = false → v.toNat % 2 ^ 16 < 2 ^ x.sqLog2 →
        exec (.sqTail p q v) s = .next (s.updQueue q (fun x => { x with sqTail := v.toNat % 2 ^ 16, dbErr := false }))) ∧
      (s.postedOut (partyFn p) = false → 2 ^ x.sqLog2 ≤ v.toNat % 2 ^ 16 → exec (.sqTail p q v) s = .next (s.updQueue q (fun x => { x with dbErr := true }))) ∧
      (s.postedOut (partyFn p) = false → v.toNat % 2 ^ 16 < 2 ^ x.cqLog2 → q ≠ .admin → x.held = [] →
        exec (.cqHead p q v) s = .next ((s.updQueue q (fun x => { x with cqHead := v.toNat % 2 ^ 16, dbErr := false })).updQueue q
          (fun x => Queue.seen { x with held := [] }))) ∧
      (s.postedOut (partyFn p) = false → 2 ^ x.cqLog2 ≤ v.toNat % 2 ^ 16 → exec (.cqHead p q v) s = .next (s.updQueue q (fun x => { x with dbErr := true }))) ∧
      (s.postedOut (partyFn p) = false → x.st = .halted → v.getLsbD 0 = true →
        exec (.resume p q v) s = .next (s.updQueue q (fun x => { x with st := .running, dbErr := false, fetched := [], asked := none })))) ∧
    (ownsDoorbell p q = false ∨ s.partyDrops p = true →
      exec (.sqTail p q v) s = .next s ∧ exec (.cqHead p q v) s = .next s ∧ exec (.resume p q v) s = .next s)

/-- A running queue with nothing before it takes the packet at `SQ_HEAD`: its entries are consumed and the command begins, with its start
time and the watchdog period in force. -/
def Obligations.CommandBegins : Prop :=
  ∀ (s : State) (q : QRef) (x : Queue) (first pkt : List Byte),
    s.queue? q = some x → s.running = true → s.served q x = true → q ≠ .admin ∨ s.side.activating = false →
    (s.qCtx q).elim false (fun c => (s.ctx? c).elim false (fun y => y.st = 3)) = false →
    x.st = .running → x.full = false → x.held = [] → s.queueCmds q = [] → (∀ d ∈ s.cmds, d.cid ≠ s.nextId) → x.sqHead ≠ x.sqTail →
    s.readEntries q x 1 = .ok first →
    let size := (first.getD 1 0).toNat
    1 ≤ size → size ≤ 4 → size ≤ 2 ^ x.sqLog2 - x.sqHead → size ≤ x.covered →
    s.readEntries q x size = .ok pkt →
    headerCheck q x (pkt.getD 0 0).toNat (pkt.getD 1 0).toNat (leNat ((pkt.drop 2).take 2)) = none →
    exec (.commandBegin q) s = .next (
      let t := s.updQueue q (fun x => { x with sqHead := (x.sqHead + size) % 2 ^ x.sqLog2, fetched := x.fetched.drop (64 * size) })
      { t with
        nextId := s.nextId + 1
        cmds := s.cmds ++ [{ cid := s.nextId, q := q, pkt := pkt, start := s.time, since := s.histSeq, wdMs := s.mg.wdMs.toNat,
                             capped := s.belowPreq, derated := false, determ := false, peerHeld := false, phase := .begun, ending := none, heldFrom := none, cores := [],
                             took := [], left := [], stalled := [], mark := 0, herdRan := false, todo := [], out := [], parts := [],
                             used := 0, hot := s.hotRegions, unmeasured := 0 }] })

/-- The completion record: 32 bytes, `SEQ` at 0, `STATUS` at 4, `OPCODE` at 5, `CFLAGS` with the phase in bit 15 at 6, `TAG` at 8,
`START_TIME` at 16, `DETAIL` at 24. The ring wraps with its phase: after the record at the last index the next goes to index 0 with the
phase inverted. `CQ_FULL` says that a record waits for space. A command with neither `COMPLETION_REQ` nor `INTERRUPT` that succeeds on a
tenant queue, and returns no value, leaves no record: it is forgotten, and its `CAPPED` and `DERATED` marks pass to the queue's next
record. -/
def Obligations.CompletionRingRules : Prop :=
  (
  ∀ (r : Record) (p : Bool), (recordBytes r p).length = 32 ∧
    leNat ((recordBytes r p).take 4) = r.seq.toNat ∧ (recordBytes r p).getD 4 0 = r.status ∧ (recordBytes r p).getD 5 0 = r.opcode ∧
    leNat (((recordBytes r p).drop 6).take 2) = r.cflags.toNat + (if p then 32768 else 0) ∧
    leNat (((recordBytes r p).drop 8).take 8) = r.tag.toNat ∧ leNat (((recordBytes r p).drop 16).take 8) = r.start.toNat ∧
    leNat (((recordBytes r p).drop 24).take 8) = r.detail.toNat) ∧
  (
  ∀ q : Queue, q.cqWrite < 2 ^ q.cqLog2 →
    q.wrote.cqWrite < 2 ^ q.cqLog2 ∧
    (q.cqWrite + 1 = 2 ^ q.cqLog2 → q.wrote.cqWrite = 0 ∧ q.wrote.phase = !q.phase) ∧
    (q.cqWrite + 1 ≠ 2 ^ q.cqLog2 → q.wrote.cqWrite = q.cqWrite + 1 ∧ q.wrote.phase = q.phase) ∧
    (q.full = true ↔ (q.cqWrite + 1) % 2 ^ q.cqLog2 = q.cqHead) ∧ (q.wrote.cqFull = true ↔ q.wrote.full = true ∧ q.held ≠ [])) ∧
  (
  ∀ (s : State) (c : Cmd) (i n : Nat) (x : Queue),
    s.cmd? c.cid = some c → c.q = .tenant i n → s.queue? c.q = some x → c.phase = .begun → x.st = .running →
    isDmaOp c.opcode = false → recordsAlways c.opcode = false → c.flags.testBit 1 = false → c.flags.testBit 2 = false →
    s.doneCmd c.cid .success 0 = ({ s with cmds := s.cmds.filter (fun d => d.cid != c.cid) } : State).updQueue c.q
      (fun y => { y with capped := c.capped || x.capped, derated := c.derated || x.derated }))

/-- `NOP` and `FENCE` (every earlier command of the queue having completed) succeed with reserved bytes 0, and give `INVALID_PARAM` at
offset 16 otherwise. `SIGNAL`, once every earlier command of its queue has completed, at an aligned address of this module whose sector is
in its half and waits for nothing: with `OP` 0 or 1 it stores the low 8 or 4 bytes of its value, with `OP` 2 it adds 8 bytes and returns
the value before. `WAIT` and its polls read the word at its home; where the masked condition holds they succeed, with the word as
`DETAIL`; else the command waits for its next poll 1 µs later. At its timeout it ends with `TIMEOUT` and the milliseconds it took, and its
queue halts; with a timeout of 0 its one read ends it. -/
def Obligations.QueueControlRules : Prop :=
  (
  (∀ (s : State) (cid : Nat) (c : Cmd), s.begun? cid 1 = some c →
    exec (.nolzinNop cid) s = .next (if c.zero 16 64 then s.doneCmd cid .success 0 else s.doneCmd c.cid .invalidParam 16)) ∧
  (∀ (s : State) (cid : Nat) (c : Cmd), s.begun? cid 2 = some c → s.earlier c = [] →
    exec (.nolzinFence cid) s = .next (if c.zero 16 64 then s.doneCmd cid .success 0 else s.doneCmd c.cid .invalidParam 16)) ∧
  (∀ (s : State) (cid : Nat) (c : Cmd), s.begun? cid 2 = some c → s.earlier c ≠ [] → exec (.nolzinFence cid) s = .next s)) ∧
  (
  ∀ (s : State) (cid : Nat) (c : Cmd) (x : CtxRef) (a : Nat),
    s.begun? cid 3 = some c → s.cmdCtx c = some x → s.earlier c = [] → c.pointer 16 = true → c.byte 32 ≤ 2 → c.field 16 8 % sigBytes c = 0 →
    c.zero 33 64 = true → s.rangeBad x.inst c.since .write (c.field 16 8) (sigBytes c) = none →
    s.cmdTo x.inst c.since .write (c.field 16 8) = .ok (.home a) →
    let u := s.newChoice.useRegion c.cid a
    u.cmdBehind c.cid a = false → u.ctxMissing x (a / 32) = false → u.allocHeld (some x.inst) (a / 256) 0 = false →
    (c.byte 32 ≠ 2 → exec (.signal cid) s =
      .next ((u.ctxWrite x a (leBytes (c.field 24 8) (if c.byte 32 = 1 then 4 else 8))).doneCmd c.cid .success 0)) ∧
    (∀ bs, c.byte 32 = 2 → u.ctxReadSector x (a / 32) = .ok bs →
      let old := leNat ((bs.drop (a % 32)).take 8)
      exec (.signal cid) s = .next ((u.ctxWrite x a (leBytes (old + c.field 24 8) 8)).doneCmd c.cid .success old))) ∧
  (
  (∀ (s : State) (cid : Nat) (c : Cmd) (x : CtxRef) (a : Nat) (bs : List Byte),
    s.cmdCtx c = some x → s.cmdTo x.inst c.since .read (c.field 16 8) = .ok (.home a) → c.field 44 4 ≠ 0 →
    let u := s.newChoice.useRegion c.cid a
    let word := leNat ((bs.drop (a % 32)).take (waitBytes c))
    u.cmdBehind c.cid a = false → u.ctxMissing x (a / 32) = false → u.ctxReadSector x (a / 32) = .ok bs →
    (s.begun? cid 4 = some c → c.pointer 16 = true → c.byte 40 ≤ 3 → (c.byte 41 = 2 ∨ c.byte 41 = 3) → c.field 16 8 % waitBytes c = 0 →
      c.zero 42 44 = true → c.field 44 4 ≤ 60000 → c.zero 48 64 = true →
      exec (.wait cid) s = .next (if waitHolds c word then u.doneCmd c.cid .success word
        else u.updCmd c.cid (fun d => { d with phase := .active, mark := u.time + 1000 }))) ∧
    (s.waiting? cid = some c → c.mark ≤ s.time → s.cmdTxns cid = [] →
      exec (.waitPoll cid) s = .next (if waitHolds c word then u.doneCmd c.cid .success word
        else u.updCmd c.cid (fun d => { d with phase := .active, mark := u.time + 1000 })))) ∧
  (∀ (s : State) (cid : Nat) (c : Cmd), s.waiting? cid = some c → c.start + c.field 44 4 * 1000000 ≤ s.time → c.field 44 4 ≠ 0 →
    exec (.waitTimeout cid) s = .next (s.stopCmd c.cid .timeout ((s.time - c.start) / 1000000))) ∧
  (∀ (s : State) (cid : Nat) (c : Cmd) (x : CtxRef) (a : Nat) (bs : List Byte),
    s.begun? cid 4 = some c → s.cmdCtx c = some x → s.cmdTo x.inst c.since .read (c.field 16 8) = .ok (.home a) → c.field 44 4 = 0 →
    c.pointer 16 = true → c.byte 40 ≤ 3 → (c.byte 41 = 2 ∨ c.byte 41 = 3) → c.field 16 8 % waitBytes c = 0 → c.zero 42 44 = true →
    c.zero 48 64 = true →
    let u := s.newChoice.useRegion c.cid a
    let word := leNat ((bs.drop (a % 32)).take (waitBytes c))
    u.cmdBehind c.cid a = false → u.ctxMissing x (a / 32) = false → u.ctxReadSector x (a / 32) = .ok bs → waitHolds c word = false →
    exec (.wait cid) s = .next (u.stopCmd c.cid .timeout ((u.time - c.start) / 1000000)) ∧ exec (.waitTimeout cid) s = .next s) ∧
  (∀ (s : State) (cid d : Nat) (c : Cmd) (x : Queue), s.cmd? cid = some c → c.opcode = 4 → s.queue? c.q = some x → x.st = .running →
    ∃ y, (s.endCmd cid .timeout d).queue? c.q = some y ∧ y.st = .halted ∧ y.sqHead = x.sqHead ∧ y.sqTail = x.sqTail))

/-- A command that takes time ends, at a module that runs and serves its queue, while its context is not being killed: a DMA command once
nothing of it is left and every earlier DMA command of its queue has completed, a cache command once it is quiet, a commit or abort with
its epoch published or discarded, a quiesce once nothing of the instance is in flight, a reset or destroy with its last steps; one that
has ended already leaves with its record. A copy or fill with nothing left to move, every earlier DMA command of its queue having
completed, succeeds. A covered command that has not completed within the watchdog period of its start, without the time that it waited for
descriptors, ends with `TIMEOUT` and the milliseconds it took: a cap that was not in force stays out, and of any other command but a
Rambler run only what it had sent is left. A `LAUNCH`, a `WAIT`, a collective, a reset and a destroy are never timed out here. -/
def Obligations.CommandCompletes : Prop :=
  (
  ∀ (s : State) (cid : Nat) (c : Cmd), s.cmd? cid = some c → s.cmdServed c = true →
    ((∀ st d, c.phase = .ended st d → exec (.commandCompletion cid) s = .next (s.finishCmd cid)) ∧
     (c.phase = .active → s.engineRuns c.q = true →
       ((c.opcode = 0x2A ∨ c.opcode = 0x2B) → s.quiet c = true → (∀ d ∈ s.earlier c, isDmaOp d.opcode = false) →
         exec (.commandCompletion cid) s = .next (s.doneCmd cid .success 0)) ∧
       ((c.opcode = 0x28 ∨ c.opcode = 0x29) → s.quiet c = true →
         exec (.commandCompletion cid) s = .next (s.doneCmd cid .success 0)) ∧
       (∀ x, (c.opcode = 0x31 ∨ c.opcode = 0x32) → s.cmdCtx c = some x →
         exec (.commandCompletion cid) s = .next ((s.finishSpec x c).doneCmd cid .success 0)) ∧
       (c.opcode = 0x82 → s.instInFlight (c.field 16 2) = [] →
         exec (.commandCompletion cid) s =
           .next ((s.updInst (c.field 16 2) (fun x => { x with st := .quiesced })).doneCmd cid .success 0)) ∧
       (c.opcode = 0x83 → c.herdRan = true → s.ringLines (c.field 16 2) = [] →
         exec (.commandCompletion cid) s = .next (((s.resetEnd (c.field 16 2)).drainEvents).doneCmd cid .success 0)) ∧
       (c.opcode = 0x81 → c.herdRan = true →
         exec (.commandCompletion cid) s = .next (((s.destroyEnd (c.field 16 2)).drainEvents).doneCmd cid .success 0))))) ∧
  (
  ∀ (s : State) (cid : Nat) (c : Cmd) (x : CtxRef), s.cmd? cid = some c → s.cmdServed c = true → c.phase = .active →
    s.engineRuns c.q = true → (c.opcode = 0x18 ∨ c.opcode = 0x19 ∨ c.opcode = 0x1A) → s.cmdCtx c = some x → c.todo = [] → c.out = [] → s.cmdTxns cid = [] →
    (∀ d ∈ s.earlier c, isDmaOp d.opcode = false) → (∀ d ∈ s.cmds, d.cid = cid → d = c) →
    c.ending = none → c.heldFrom = none → s.engineDown c = false →
    exec (.commandCompletion cid) s = .next (s.doneCmd cid .success 0)) ∧
  (
  ∀ (s : State) (cid : Nat) (c : Cmd), s.cmd? cid = some c →
    (s.cmdServed c = true → watchdogCovers c.opcode = true → (c.phase = .begun ∨ c.phase = .active) →
      c.start + c.wdMs * 1000000 + s.descriptorWait c ≤ s.time →
      exec (.commandWatchdog cid) s = .next ((s.leaveManager c).stopCmd cid .timeout ((s.time - c.start) / 1000000))) ∧
    (c.opcode = 0x98 → s.leaveManager c = { s with pw := { s.pw with newCap := none } }) ∧
    (c.opcode ≠ 0x98 → (∀ r, s.rambler = some r → r.cid ≠ cid) → s.leaveManager c = s) ∧
    ((c.opcode ∈ [0x10, 4, 0x20, 0x21, 0x22, 0x23, 0x24, 0x81, 0x83] ∨ s.time < c.start + c.wdMs * 1000000) →
      exec (.commandWatchdog cid) s = .next s))

/-! ## Launch and herds -/

/-- `LAUNCH` with legal fields and cores: under way on every core named, or done at once where none is. A launch takes a slot on a core:
the slot is bound to the context with the kernel, its L1 is empty, and its private ways are zero where another context held them last. A
launch that waits longer than the stall period of the core's region is reported once: the instance's count rises, and one event per range
of slots names the slots that hold it up. A drained kernel with nothing on its way, whose context has not faulted, leaves its slot bound;
the launch succeeds with its last slot, and waits for the others before. -/
def Obligations.LaunchRules : Prop :=
  (
  ∀ (s : State) (cid : Nat) (c : Cmd) (x : CtxRef), s.begun? cid 0x10 = some c → s.cmdCtx c = some x →
    c.pointer 16 = true → c.field 16 8 % 8 = 0 → c.pointer 24 = true → c.byte 36 ≠ 0 → c.byte 37 ≤ 14 → c.zero 38 40 = true → (c.field 32 4 = 0 ∨ c.field 40 8 ≠ 0) →
    c.zero 48 64 = true → s.launchBad c x.inst = none →
    exec (.launch cid) s = .next (if launchCores c = [] then s.doneCmd cid .success 0
      else s.updCmd cid (fun c => { c with phase := .active, cores := launchCores c }))) ∧
  (
  ∀ (s : State) (cid core : Nat) (c : Cmd) (x : CtxRef) (y : Slot),
    s.launchOn? cid core = some c → s.cmdCtx c = some x → s.regionDown (regionOfCore core) = false →
    (s.ctx? x).elim true (fun y => y.st = 3 || y.st = 4) = false → s.pickSlot c x core = some y →
    exec (.launchSlotTake cid core) s = .next ((((s.invalidateL1 { core := core, slot := y.num }).updSlot { core := core, slot := y.num }
      (fun z => { z with
        st := if (s.launchKernel c core).herds ≤ (s.launchKernel c core).next then .draining else .running
        ctx := some x.ctx, lastCtx := some x.ctx, scratch := if z.lastCtx = some x.ctx then z.scratch else []
        l1 := [], kernel := some (s.launchKernel c core), mxq := [], barriers := List.replicate 16 0 })).updCmd cid
      (fun c => { c with cores := c.cores.erase core, took := c.took ++ [{ core := core, slot := y.num }]
                         left := c.left ++ [{ core := core, slot := y.num }]
                         unmeasured := if c.herdRan then s.time - c.mark else 0 })))) ∧
  (
  ∀ (s : State) (cid core : Nat) (c : Cmd) (x : CtxRef),
    s.launchOn? cid core = some c → s.cmdCtx c = some x → c.stalled.contains core = false → s.pickSlot c x core = none →
    c.start + (s.region (regionOfCore core)).stallMs * 1000000 < s.time →
    exec (.residencyStall cid core) s = .next ((stallDetails core
      (((s.slotsOf x.inst core).filter (fun y => y.st = .running || y.st = .draining)).map (fun y => y.num))).foldl (fun t d => t.event 0x02 d)
      ((s.updCmd cid (fun c => { c with stalled := core :: c.stalled })).updInst x.inst (fun i => { i with stalls := satInc i.stalls 1 })))) ∧
  (
  ∀ (s : State) (sl : SlotRef) (x : Slot) (k : Kernel) (c : Cmd),
    s.clocked = true → s.slot? sl = some x → x.kernel = some k → x.st = .draining → s.storesOut sl = false → x.mxq = [] → s.slotFaulted x = false → s.cmd? k.cid = some c →
    exec (.kernelComplete sl) s = .next (
      let t := (s.updSlot sl (fun (x : Slot) => { x with st := .bound, kernel := none })).updCmd k.cid
        (fun c => { c with left := c.left.erase sl })
      if c.cores = [] ∧ c.left.erase sl = [] ∧ c.phase = .active then t.doneCmd k.cid .success 0 else t))

/-- A herd starts on a free position: every lane active, p0 to p6 false, every vector register 0, u0 to u6 as R67 says, at the kernel's
entry; the kernel's next index moves on by the number of cores. -/
def Obligations.HerdStarts : Prop :=
  ∀ (s : State) (sl : SlotRef) (x : Slot) (k : Kernel) (ctx p : Nat),
    s.slot? sl = some x → x.kernel = some k → x.ctx = some ctx → x.st = .running → k.next < k.herds → s.clocked = true →
    (s.ctx? { inst := x.inst, ctx := ctx }).elim true (fun y => y.st = 3 || y.st = 4) = false → s.freePos sl.core x k.nreg = some p →
    (∃ g : Herd,
      exec (.herdStart sl) s = .next (((s.updCore sl.core (fun (c : Core) => { c with herds := c.herds ++ [g] })).updSlot sl
        (fun (x : Slot) => { x with kernel := some { k with next := k.next + k.ncores, started := true } })).updCmd k.cid
        (fun c => if c.herdRan then c else { c with herdRan := true, mark := s.time })) ∧
      g.pos = p ∧ g.index = k.next ∧ g.pc = k.code ∧ g.active = BitVec.allOnes 32 ∧ g.exited = 0#32 ∧ g.stack = [] ∧
      (∀ n, g.pred n = if n = 7 then BitVec.allOnes 32 else 0#32) ∧ (∀ n l, spGet g.regs (32 * n + l) = 0#32) ∧
      spGet g.uregs 0 = BitVec.ofNat 32 k.args.toNat ∧ spGet g.uregs 1 = BitVec.ofNat 32 (k.args.toNat / 2 ^ 32) ∧
      spGet g.uregs 2 = BitVec.ofNat 32 k.next ∧ spGet g.uregs 3 = BitVec.ofNat 32 k.herds ∧
      spGet g.uregs 4 = BitVec.ofNat 32 k.scratchBytes ∧ spGet g.uregs 5 = BitVec.ofNat 32 k.ordinal ∧
      spGet g.uregs 6 = BitVec.ofNat 32 k.ncores ∧ (∀ n, 7 ≤ n → spGet g.uregs n = 0#32))

/-! ## DMA, caches, homes, speculation, collectives -/

/-- The copies and the fill, begun, legal, with ranges that can be reached and, for `DMA_COPY`, source and destination apart: they start
to move their pieces, a copy one per source sector, a strided copy its rows in ascending plane and row order, a fill the repeated pattern;
a `DMA_COPY` whose `SRC` has a bit above bit 56 ends with `INVALID_PARAM` at byte 16. Where the region whose engine it needs is held in
reset, each ends with `ADDRESS_FAULT`, naming the address of its first parameter (the model's choice, log 96). -/
def Obligations.CopyAndFillStart : Prop :=
  ∀ (s : State) (cid : Nat) (c : Cmd) (x : CtxRef), s.cmd? cid = some c → s.cmdCtx c = some x → s.dmaTurn c = true → c.phase = .begun →
    s.engineRuns c.q = true →
    (s.engineDown c = true →
      let gone := s.stopCmd c.cid .addressFault (failAddr (c.field 16 8))
      (c.opcode = 0x18 → exec (.dmaCopy cid) s = .next gone) ∧ (c.opcode = 0x19 → exec (.dmaFill cid) s = .next gone) ∧
      (c.opcode = 0x1A → exec (.dmaCopyStrided cid) s = .next gone)) ∧
    (s.engineDown c = false →
    (c.opcode = 0x18 → c.pointer 16 = false → exec (.dmaCopy cid) s = .next (s.badParam c.cid 16)) ∧
    (c.opcode = 0x18 → c.pointer 16 = true → c.pointer 24 = true → c.byte 40 ≤ 1 → c.zero 41 64 = true →
      (∀ w ∈ s.srcWants c x.inst (c.field 16 8) (c.field 32 8), s.rangeBad x.inst c.since w.1 w.2.1 w.2.2 = none) →
      s.rangeBad x.inst c.since .write (c.field 24 8) (c.field 32 8) = none →
      (s.rangeTo x.inst c.since (c.field 16 8) (c.field 32 8)).any (fun a =>
        (s.rangeTo x.inst c.since (c.field 24 8) (c.field 32 8)).any (fun b => pieceMeets a b)) = false →
      exec (.dmaCopy cid) s = .next (s.startPieces cid (copyPieces (c.field 16 8) (c.field 24 8) (c.field 32 8)) [])) ∧
    (c.opcode = 0x19 → c.pointer 16 = true → c.byte 40 ≤ 3 → c.field 16 8 % patBytes c = 0 → c.field 24 8 % patBytes c = 0 →
      c.zero (32 + patBytes c) 40 = true → c.zero 41 64 = true → s.rangeBad x.inst c.since .write (c.field 16 8) (c.field 24 8) = none →
      exec (.dmaFill cid) s = .next (s.startPieces cid [] (splitSectors (c.field 16 8) (fillBytes c (c.field 24 8))))) ∧
    (c.opcode = 0x1A → c.pointer 16 = true → c.pointer 24 = true → c.zero 80 128 = true →
      (∀ r ∈ stridedRows c, s.rangeBad x.inst c.since .read r.1 (c.field 32 8) = none ∧ s.rangeBad x.inst c.since .write r.2 (c.field 32 8) = none) →
      exec (.dmaCopyStrided cid) s =
        .next (s.startPieces cid ((stridedRows c).flatMap (fun r => copyPieces r.1 r.2 (c.field 32 8) ++ [(0, 0, 0)])) [])))

/-- The pieces of a copy cover it: each within one source sector, none empty, each read from as far into the source as it is written into
the destination, and together as long as the copy. The bytes of a fill follow its pattern, and splitting bytes at sector boundaries keeps
them all, in order. -/
def Obligations.CopyPiecesCover : Prop :=
  (
  ∀ src dst len : Nat,
    ((copyPieces src dst len).map (fun p => p.2.2)).sum = len ∧
    (∀ p ∈ copyPieces src dst len, 0 < p.2.2 ∧ p.1 / 32 = (p.1 + p.2.2 - 1) / 32 ∧ src ≤ p.1 ∧ p.1 + p.2.2 ≤ src + len ∧
      p.1 + dst = p.2.1 + src)) ∧
  (
  (∀ (c : Cmd) (len o : Nat), o < len → (fillBytes c len).getD o 0 = c.pkt.getD (32 + o % 2 ^ (c.byte 40 % 4)) 0) ∧
  (∀ (va : Nat) (bs : List Byte), (splitSectors va bs).flatMap (fun p => p.2) = bs ∧
    ∀ p ∈ splitSectors va bs, p.2 ≠ [] ∧ p.1 / 32 = (p.1 + p.2.length - 1) / 32))

/-- `PREFETCH`, `DISCARD`, `HAMPER_PIN` and `HAMPER_UNPIN`, begun, legal and with a range that can be reached: the lines of the range are
filled in order, its whole sectors are declared dead, its lines are pinned, or unpinned. -/
def Obligations.CacheCommandsStart : Prop :=
  ∀ (s : State) (cid : Nat) (c : Cmd) (x : CtxRef), s.cmdCtx c = some x →
    let va := c.field 16 8
    let len := c.field 24 8
    (s.begun? cid 0x2A = some c → s.engineDown c = false → s.dmaTurn c = true → c.pointer 16 = true → c.byte 32 ≤ 1 → c.zero 33 64 = true →
      (pagesOf va len).findSome? (fun p => s.localPage x.inst c.since p.1) = none →
      exec (.prefetch cid) s = .next (s.newChoice.prefetchLines c x (bit (c.byte 32) 0) (s.linesOf x.inst c.since va len))) ∧
    (s.begun? cid 0x2B = some c → s.engineDown c = false → s.dmaTurn c = true → c.pointer 16 = true → c.zero 32 64 = true →
      (pagesOf va len).any (fun p => s.hostPage x.inst c.since p.1) = false → s.rangeBad x.inst c.since .write va len = none →
      exec (.discard cid) s = .next (s.discardRuns c x ((discardRuns va len).map (fun r => (r.1, 0, r.2))))) ∧
    (∀ i, s.begun? cid 0x28 = some c → s.inst? x.inst = some i → c.pointer 16 = true → va % 256 = 0 → len % 256 = 0 → c.zero 32 64 = true →
      (pagesOf va len).findSome? (fun p => s.localPage x.inst c.since p.1) = none → s.pinFits i cid (s.linesOf x.inst c.since va len) = none →
      exec (.hamperPin cid) s = .next (s.newChoice.pinLines c i (s.linesOf x.inst c.since va len))) ∧
    (s.begun? cid 0x29 = some c → c.pointer 16 = true → va % 256 = 0 → len % 256 = 0 → c.zero 32 64 = true →
      (pagesOf va len).findSome? (fun p => s.localPage x.inst c.since p.1) = none →
      exec (.hamperUnpin cid) s = .next (s.newChoice.unpinLines cid (s.linesOf x.inst c.since va len)))

/-- A declared sector of a line with a tag, outside the window, pins and open epochs, is invalid, clean, dead and not poisoned, and
records `DEADCHK` = 1; its line's other sectors, and every stored byte, are as before. A read of a sector by a context: in a half in
poison mode it is poison; elsewhere a dead one is fatal with `DEADCHK` = 1; else what reads as uncorrectable is poison; else a dead one
returns the sector's bytes and counts; and any other just returns its bytes. -/
def Obligations.DeadSectorRules : Prop :=
  (
  ∀ (s : State) (sec : Nat) (chk : Bool) (l : Line), s.tag? (sec / 8) = some l → l.pinned = false → inWindow (sec * 32) = false →
    s.inOpenEpoch (sec / 8) = false →
    ∃ m, (s.declareDead sec chk).tag? (sec / 8) = some m ∧
      m.valid.getLsbD (sec % 8) = false ∧ m.dirty.getLsbD (sec % 8) = false ∧ m.dead.getLsbD (sec % 8) = true ∧
      m.poison.getLsbD (sec % 8) = false ∧ (chk = true → m.deadChk.getLsbD (sec % 8) = true) ∧
      (∀ i, i < 8 → i ≠ sec % 8 → m.valid.getLsbD i = l.valid.getLsbD i ∧ m.dirty.getLsbD i = l.dirty.getLsbD i ∧
        m.dead.getLsbD i = l.dead.getLsbD i) ∧
      (s.declareDead sec chk).mem = s.mem ∧ (s.declareDead sec chk).back = s.back) ∧
  (
  ∀ (s : State) (c : CtxRef) (sec : Nat), s.epochOf c (sec / 8) = none →
    let down := s.poisonMode.getLsbD (s.homeRegion (sec * 32))
    (down = true → s.ctxReadSector c sec = .poison) ∧
    (down = false → s.secDead sec = true → s.deadchk c = true → s.ctxReadSector c sec = .deadFatal) ∧
    (down = false → (s.secDead sec = false ∨ s.deadchk c = false) → s.secPoisoned sec = true → s.ctxReadSector c sec = .poison) ∧
    (down = false → s.secDead sec = true → s.deadchk c = false → s.secPoisoned sec = false →
      s.ctxReadSector c sec = .reread (s.secBytes sec)) ∧
    (down = false → s.secDead sec = false → s.secPoisoned sec = false → s.ctxReadSector c sec = .ok (s.secBytes sec)))

/-- A write at a home is what every later read of its sector there returns: the written bytes over the sector's old contents, where the
half is not in poison mode and the sector is not poisoned or is written whole. A window sector that shows a pinned line is that line's
sector; no line has two tags, and no line that shows through the window lies in it. -/
def Obligations.HomeWriteReadBack : Prop :=
  ∀ (s : State) (inst : Option Nat) (sec choice : Nat) (bs : List (Nat × Byte)),
    s.mem.wf = true → (s.llc.map (fun l => l.line)).Nodup → (inWindow (s.canonSec sec * 32) = true → s.canonSec sec = sec) →
    s.poisonMode.getLsbD (s.homeRegion (s.canonSec sec * 32)) = false →
    (s.secPoisoned (s.canonSec sec) = false ∨ (List.range 32).all (fun o => bs.any (fun x => x.1 = o)) = true) →
    s.deadMarks.count (s.canonSec sec) ≤ 1 →
    (s.writeSector inst sec choice bs).secBytes sec = bs.foldl (fun acc x => acc.set x.1 x.2) (s.secBytes sec)

/-- `SPEC_BEGIN` with a legal list, no overlap, no line of an open epoch, and room, opens an epoch and returns its number; `SPEC_COMMIT`
and `SPEC_ABORT` of an open epoch take it to `COMMITTING` with its keep list, and to `ABORTING`. A context's writes to a line of its open
epoch touch only the shadow: no memory, tag or mark changes, so every other observer still reads the ordinary line. -/
def Obligations.SpeculationRules : Prop :=
  (
  (∀ (s : State) (cid : Nat) (c : Cmd) (x : CtxRef) (y : Ctx) (bs : List Byte),
    s.begun? cid 0x30 = some c → s.cmdCtx c = some x → s.ctx? x = some y → c.pointer 16 = true → 1 ≤ c.field 24 4 → c.field 24 4 ≤ 4096 → c.zero 28 64 = true →
    s.rangeBad x.inst c.since .read (c.field 16 8) (16 * c.field 24 4) = none →
    ((splitRange (c.field 16 8) (16 * c.field 24 4)).map (fun p => s.listPiece c x p.1 p.2)).foldl ListRead.join (.ok [] 0) = .ok bs 0 →
    let t := s.newChoice
    let rs := rangeList bs (c.field 24 4)
    let ls := t.epochLines x.inst c.since rs
    let lines := distinct (ls.map (fun l => l.2.2))
    t.rangeListBad x.inst c.since rs = none → sharedLine ls = false → lines.any (fun l => t.inOpenEpoch l) = false →
    (y.epochs.filter (fun e => e.st != .closed)).length < 4 → openBytes y.epochs + (rs.map Prod.snd).sum ≤ 2 ^ 26 →
    t.noShadow x.inst lines = none →
    exec (.specBegin cid) s = .next ((t.openEpoch x y rs ls).doneCmd cid .success y.epochNumber)) ∧
  (∀ (s : State) (cid : Nat) (c : Cmd) (x : CtxRef) (e : Epoch) (bs : List Byte),
    s.begun? cid 0x31 = some c → s.cmdCtx c = some x → s.openNamed x c = some e → c.zero 20 24 = true → c.pointer 24 = true → c.zero 32 64 = true →
    s.rangeBad x.inst c.since .read (c.field 24 8) (8 * e.ranges.length) = none →
    ((splitRange (c.field 24 8) (8 * e.ranges.length)).map (fun p => s.listPiece c x p.1 p.2)).foldl ListRead.join (.ok [] 0) = .ok bs 0 →
    ((keepList bs e.ranges.length).zip e.ranges).all (fun p => p.1 % 32 = 0 && decide (p.1 ≤ p.2.2)) = true →
    exec (.specCommit cid) s = .next ((s.newChoice.updEpoch x e.num (fun e =>
      { e with st := .committing, keep := keepList bs e.ranges.length })).activate cid)) ∧
  (∀ (s : State) (cid : Nat) (c : Cmd) (x : CtxRef) (e : Epoch),
    s.begun? cid 0x32 = some c → s.cmdCtx c = some x → s.openNamed x c = some e → c.zero 20 64 = true →
    exec (.specAbort cid) s = .next ((s.updEpoch x e.num (fun e => { e with st := .aborting })).activate cid))) ∧
  (
  ∀ (s : State) (c : CtxRef) (e : Epoch) (sec choice : Nat) (bs : List (Nat × Byte)), s.epochOf c (sec / 8) = some e →
    let t := s.ctxWriteSector c sec choice bs
    t.mem = s.mem ∧ t.back = s.back ∧ t.llc = s.llc ∧ t.deadMarks = s.deadMarks ∧ t.poisonMarks = s.poisonMarks ∧
    ∀ n, t.secBytes n = s.secBytes n)

/-- A collective whose fields are legal, whose group is whole, not broken and idle, whose members can be reached and whose ranges can be
reached, enters; on a broken group it ends with `PEER_ABORT`, naming the member to blame. One that has entered moves on. Where the region
of its engine is held in reset, either ends with `ADDRESS_FAULT` (log 96 says at which address). A collective on this rank ends with
success once every member has entered, its result is whole and all it sent has been accepted; not before. It is marked as held where
beacons made it wait past its timeout for what came last. A member that still misses an arrival or contribution past its timeout, measured
from its entry or the last beacon and never beyond 10 s from entry, ends with `TIMEOUT` and breaks its group; one that misses nothing does
not; a refused contribution is sent again once its 10 µs have passed. A deterministic floating-point sum takes the ranks in order, each
addition rounded in FP32 and the result rounded once to the format; with one rank it is that rank's value, rounded. -/
def Obligations.CollectiveRules : Prop :=
  (
  ∀ p ∈ [(Instr.collAllreduce, 0x20), (Instr.collReduceScatter, 0x21), (Instr.collAllgather, 0x22), (Instr.collBroadcast, 0x23),
         (Instr.collBarrier, 0x24)],
    (∀ (s : State) (cid : Nat) (c : Cmd) (x : CtxRef) (g : Group),
      s.cmd? cid = some c → c.opcode = p.2 → c.phase = .begun → s.engineRuns c.q = true → s.engineDown c = false → s.cmdCtx c = some x → s.group? (c.field 16 2) = some g →
      g.inst = x.inst → firstFail (c.collChecks (some g)) = none → s.rangeBad x.inst c.since .read (c.field 32 8) (c.srcLen g.rank) = none →
      s.rangeBad x.inst c.since .write (c.field 40 8) (c.dstLen g.members.length g.rank) = none → s.stageBad x.inst c = none →
      s.shardOnHost x.inst c g = none →
      (g.broken = none → g.coll = none → s.unreachable g = none → exec (p.1 cid) s = .next (s.newChoice.collEnter c g)) ∧
      (∀ m, g.broken = some m → exec (p.1 cid) s = .next (s.doneCmd cid .peerAbort m))) ∧
    (∀ (s : State) (cid : Nat) (c : Cmd), s.cmd? cid = some c → c.opcode = p.2 → s.engineRuns c.q = true →
      (c.phase = .active → s.engineDown c = false → exec (p.1 cid) s = .next (s.collPump cid)) ∧
      (c.phase = .begun ∨ c.phase = .active → s.engineDown c = true →
        exec (p.1 cid) s = .next (s.stopCmd cid .addressFault (failAddr (c.field 32 8)))))) ∧
  (
  ∀ (s : State) (cid : Nat) (c : Cmd) (g : Group) (k : Coll), s.cmd? cid = some c → s.cmdServed c = true → c.phase = .active →
    0x20 ≤ c.opcode → c.opcode ≤ 0x24 → s.collOf cid = some (g, k) →
    (s.collDone c g k = true → s.engineRuns c.q = true → exec (.commandCompletion cid) s = .next (((s.updGroup g.id (fun g => { g with coll := none })).updCmd cid
      (fun d => { d with peerHeld := k.beacons && decide (k.entered + g.timeoutMs * 1000000 < k.came) })).doneCmd cid .success 0)) ∧
    (s.collDone c g k = false → exec (.commandCompletion cid) s = .next s)) ∧
  (
  (∀ (s : State) (cid : Nat) (c : Cmd) (g : Group) (k : Coll), s.cmd? cid = some c → s.collOf cid = some (g, k) → c.phase = .active → s.clocked = true →
    (c.missing g k = true → (k.restart + g.timeoutMs * 1000000 ≤ s.time ∨ k.entered + 10000000000 ≤ s.time) →
      exec (.collectiveTimeout cid) s =
        .next ((s.failColl g.id s.fx.pkgId.toNat .timeout ((s.time - c.start) / 1000000)).finishCmd cid)) ∧
    (c.missing g k = false → exec (.collectiveTimeout cid) s = .next s)) ∧
  (∀ (s v : State) (port txn cid due : Nat) (t : Txn) (hdr : CollHdr) (d : List Byte) (c : Cmd) (g : Group) (k : Coll),
    s.clocked = true → s.fx.txns.find? (fun t => t.port = port && t.num = txn) = some t → t.owner = .coll cid hdr d → t.resendAt = some due → due ≤ s.time →
    s.cmd? cid = some c → s.collOf cid = some (g, k) →
    (s.endTxn port txn).collSend c g k ((g.members.zipIdx.find? (fun m => m.1.1 = t.dst)).elim 0 (fun m => m.2)) hdr.offset.toNat d
      = .ok v →
    exec (.heldFullResend port txn) s = .next v)) ∧
  (
  ∀ (f v : Nat) (vs : List Nat), f ≤ 2 →
    rankSum f (v :: vs) =
      (let wide := fun x => fmtF32.encode 0 false (fmtVal f x)
       let sum := vs.foldl (fun a b => addF32 a (wide b)) (wide v)
       if f = 1 then fmtBF16.encode 0 false (fmtF32.decode sum) else if f = 2 then fmtF16.encode 0 false (fmtF32.decode sum) else sum))

/-! ## Manager commands -/

/-- `INSTANCE_CREATE` with a legal record that the pools can serve makes an instance under the lowest free number, zeroes its completion
rings and returns that number and the number of its VF; it waits only for the page tables that the rings need. The number of a new
instance is the lowest that none holds. -/
def Obligations.InstanceCreates : Prop :=
  (
  ∀ (s : State) (cid : Nat) (c : Cmd), mgrBegun s cid 0x80 c → c.field 16 8 < 2 ^ 42 → c.zero 28 64 = true → 64 ≤ c.field 24 4 →
    mgrUsable s true (c.field 16 8) (c.field 24 4) →
    let t := s.useRange c.cid (c.field 16 8) (c.field 24 4)
    let bs := t.homeBytes (c.field 16 8) (min (c.field 24 4) (recLen (t.homeBytes (c.field 16 8) 64)))
    t.recordOk bs (c.field 24 4) = true → t.poolBad bs = none → (t.makeInst bs).ringLines t.freeInst = [] →
    exec (.instanceCreate cid) s =
      .next ((((t.makeInst bs).zeroRings t.freeInst).drainEvents).doneCmd cid .success (t.freeInst + (t.freeInst + 1) * 2 ^ 16))) ∧
  (
  ∀ s : State, (∃ n, n < 4096 ∧ ∀ i ∈ s.insts, i.id ≠ n) →
    s.freeInst < 4096 ∧ (∀ i ∈ s.insts, i.id ≠ s.freeInst) ∧ (∀ n, n < s.freeInst → ∃ i ∈ s.insts, i.id = n))

/-- `INSTANCE_QUIESCE` stops every queue of its instance, whose locked TDI enters `ERROR`; after 1 s with commands still in flight it ends
with `TIMEOUT`, quiesced. `INSTANCE_RESET` of a whole instance and `INSTANCE_DESTROY` begin where the instance is quiesced or spans dies,
and are `BUSY` otherwise; a destroy waits for no change that is being applied: it is refused with `CONFIG_PENDING`. After the drain window
what has not finished is squashed. A reset of one context is done at once. -/
def Obligations.InstanceEndRules : Prop :=
  (
  (∀ (s : State) (cid : Nat) (c : Cmd), mgrBegun s cid 0x82 c → (s.inst? (c.field 16 2)).isSome = true → c.zero 18 64 = true →
    exec (.instanceQuiesce cid) s = .next (((s.tdiError (c.field 16 2)).updInst (c.field 16 2) (fun x =>
      { x with queues := updWhere (fun q => q.st = .running || q.st = .halted) (fun q => { q with st := .quiesced }) x.queues,
               st := .quiescing })).activate cid)) ∧
  (∀ (s : State) (cid : Nat) (c : Cmd), s.cmd? cid = some c → c.opcode = 0x82 → c.phase = .active → s.clocked = true → c.start + 1000000000 ≤ s.time →
    s.instInFlight (c.field 16 2) ≠ [] →
    exec (.quiesceTimeout cid) s = .next ((s.updInst (c.field 16 2) (fun x => { x with st := .quiesced })).doneCmd cid .timeout
      ((s.time - c.start) / 1000000)))) ∧
  (
  (∀ (s : State) (cid : Nat) (c : Cmd), mgrBegun s cid 0x83 c → (s.inst? (c.field 16 2)).isSome = true → c.byte 18 = 0 →
    c.zero 20 64 = true →
    exec (.instanceReset cid) s = .next (if s.resetBusy (c.field 16 2) then s.doneCmd cid .busy 0 else s.resetCmd c .resetting)) ∧
  (∀ (s : State) (cid : Nat) (c : Cmd), mgrBegun s cid 0x81 c → (s.inst? (c.field 16 2)).isSome = true → c.zero 18 64 = true →
    exec (.instanceDestroy cid) s = .next (if s.cf.applying.isSome then s.doneCmd cid .configPending 0
      else if s.resetBusy (c.field 16 2) then s.doneCmd cid .busy 0 else s.resetCmd c .destroying)) ∧
  (∀ (s : State) (cid : Nat) (c : Cmd), s.cmd? cid = some c → (c.opcode = 0x83 ∨ c.opcode = 0x81) → c.phase = .active → c.herdRan = false → s.clocked = true →
    c.mark + 150000 ≤ s.time →
    exec (.instanceResetDrainEnd cid) s =
      .next (((((s.instInFlight (c.field 16 2)).map (fun d => d.cid)).foldl (fun t k => t.stopCmd k .squashed 0) s)).updCmd cid
        (fun c => { c with herdRan := true }))) ∧
  (∀ (s : State) (cid : Nat) (c : Cmd), mgrBegun s cid 0x83 c → (s.inst? (c.field 16 2)).isSome = true → c.byte 18 = 1 →
    (s.ctx? { inst := c.field 16 2, ctx := c.byte 19 }).isSome = true → c.zero 20 64 = true → s.ringLines (c.field 16 2) = [] →
    exec (.instanceResetContext cid) s = .next ((((s.tdiError (c.field 16 2)).resetCtx { inst := c.field 16 2, ctx := c.byte 19 }).drainEvents).doneCmd
      cid .success 0)))

/-- A command that answers with a record writes it where the packet says, in memory outside every grant, and succeeds: `INSTANCE_QUERY`,
`POWER_QUERY`, `RESET_COUNTERS_READ`, and `CORE_DIAGNOSE` of a fenced core with a report that its self-test can make, whose reset is then
counted once more. `RESET_COUNTERS_CLEAR` outside `DEPLOYED` and `RMA` clears the counters that the mask names and no other. -/
def Obligations.QueriesAnswer : Prop :=
  (
  (∀ (s : State) (cid : Nat) (c : Cmd) (i : Inst), mgrBegun s cid 0x84 c → s.inst? (c.field 16 2) = some i → c.zero 18 24 = true →
    c.field 24 8 < 2 ^ 42 → c.zero 32 64 = true → mgrUsable s false (c.field 24 8) 256 →
    exec (.instanceQuery cid) s = .next (s.mgrAnswer c (c.field 24 8) (s.instRecord i))) ∧
  (∀ (s : State) (cid : Nat) (c : Cmd), mgrBegun s cid 0x99 c → c.zero 16 24 = true → c.field 24 8 < 2 ^ 42 → c.zero 32 64 = true →
    mgrUsable s false (c.field 24 8) 64 →
    exec (.powerQuery cid) s = .next (s.mgrAnswer c (c.field 24 8) s.powerRecord)) ∧
  (∀ (s : State) (cid : Nat) (c : Cmd), mgrBegun s cid 0xA1 c → c.zero 16 24 = true → c.field 24 8 < 2 ^ 42 → c.zero 32 64 = true →
    mgrUsable s false (c.field 24 8) 64 →
    exec (.resetCountersRead cid) s = .next (s.mgrAnswer c (c.field 24 8) (s.rs.counts.flatMap (fun n => leBytes n.toNat 4)))) ∧
  (∀ (s : State) (cid : Nat) (c : Cmd) (res : BitVec 8) (u : BitVec 19) (rf : BitVec 4) (l1 : BitVec 16) (us : Word),
    mgrBegun s cid 0x91 c → c.byte 16 < 64 → c.zero 17 24 = true → c.field 24 8 < 2 ^ 42 → c.zero 32 64 = true →
    s.coreFenced (c.byte 16) = true → mgrUsable s false (c.field 24 8) 64 → diagnosable res u rf l1 us = true →
    exec (.coreDiagnose cid res u rf l1 us) s = .next ((s.countReset 11).mgrAnswer c (c.field 24 8)
      (leBytes (res.toNat + s.fenceCause (c.byte 16) * 2 ^ 8) 4 ++ leBytes u.toNat 4 ++ leBytes (rf.toNat + l1.toNat * 2 ^ 4) 4
        ++ leBytes us.toNat 4 ++ List.replicate 48 0)))) ∧
  (
  ∀ (s : State) (cid : Nat) (c : Cmd), mgrBegun s cid 0xA2 c → c.zero 18 64 = true →
    (s.lc.st ≠ 2#3 → s.lc.st ≠ 4#3 →
      ∃ cs, exec (.resetCountersClear cid) s = .next (({ s with rs := { s.rs with counts := cs } } : State).doneCmd cid .success 0) ∧
        cs.length = s.rs.counts.length ∧
        ∀ i, i < s.rs.counts.length → cs[i]? = if (c.field 16 2).testBit i then some 0#32 else s.rs.counts[i]?) ∧
    (s.lc.st = 2#3 ∨ s.lc.st = 4#3 → exec (.resetCountersClear cid) s = .next (s.doneCmd cid .notPermitted 0)))

/-- `CONFIG_STAGE` with a legal record for which there is room holds the change under the next token, replacing an earlier one;
`CONFIG_APPLY` of the staged token hands it to every region; each region changes at its own boundary, the first ends the command, the last
makes the token current; `CONFIG_STATUS` tells a token that waits from the current one. -/
def Obligations.ConfigurationRules : Prop :=
  (∀ (s : State) (cid : Nat) (c : Cmd) (ps : List Place), mgrBegun s cid 0x88 c → c.field 16 8 < 2 ^ 42 → c.zero 28 64 = true →
    16 ≤ c.field 24 4 → mgrUsable s true (c.field 16 8) (c.field 24 4) →
    let t := s.useRange c.cid (c.field 16 8) (c.field 24 4)
    let bs := t.homeBytes (c.field 16 8) (min (c.field 24 4) (cfgLen (t.homeBytes (c.field 16 8) 16)))
    t.cfgOk bs (c.field 24 4) = true → t.changeBusy (changeOf bs t.cf.nextToken) ((cfgPlaces bs).map (fun p => p.1)) = false →
    t.placed bs = .ok ps →
    exec (.configStage cid) s = .next (({ t with cf := { t.cf with
      staged := some { changeOf bs t.cf.nextToken with places := ps }, nextToken := nextTok t.cf.nextToken } } : State).doneCmd cid .success
        t.cf.nextToken)) ∧
  (∀ (s : State) (cid : Nat) (c : Cmd) (ch : Change), mgrBegun s cid 0x89 c → s.cf.staged = some ch → ch.token = c.field 16 4 →
    c.zero 20 64 = true → s.cf.applying = none → s.changeBusy ch (ch.places.map (fun p => p.block)) = false →
    exec (.configApply cid) s = .next (({ s with cf := { s.cf with
      staged := none, applying := some { ch with begun := s.time }, pendingRegions := BitVec.allOnes 16 } } : State).activate cid)) ∧
  (∀ (s : State) (region : Nat) (ch : Change), s.cf.applying = some ch → region < 16 → s.running = true →
    s.cf.pendingRegions.getLsbD region = true →
    exec (.configEpochBoundary region) s = .next (
      let old := s.region region
      let new := old.after region ch
      let t := ({ s with cf := { s.cf with
        regions := updAt s.cf.regions region (fun _ => new),
        pendingRegions := s.cf.pendingRegions &&& ~~~((1 : BitVec 16) <<< region) } } : State).carve region old.h new.h
      let t := if t.cf.pendingRegions == 0#16 then t.applied ch else t
      ((t.cmds.filter (fun c => c.opcode = 0x89 && c.phase = .active)).map (fun c => c.cid)).foldl (fun t k => t.doneCmd k .success 0) t)) ∧
  (∀ (s : State) (cid : Nat) (c : Cmd), mgrBegun s cid 0x8A c → c.zero 20 64 = true →
    (s.cf.applying.elim false (fun ch => ch.token = c.field 16 4) = true → exec (.configStatus cid) s = .next (s.doneCmd cid .configPending 0)) ∧
    (s.cf.applying = none → s.cf.staged = none → c.field 16 4 ≠ 0 → s.cf.token.toNat = c.field 16 4 →
      exec (.configStatus cid) s = .next (s.doneCmd cid .success 0)))

/-- `CORE_FENCE` of an enabled core fences it with cause 5, of a fenced core has nothing to do, and of a disabled one is not permitted
(the model's choice, log 92). A fenced core stays fenced under every further fence. `POWER_SET_CAP` with a cap of 1,500 W to 4,000 W, and
4,000 W with determinism, waits for the next control period; a cap outside the range is `INVALID_PARAM`. -/
def Obligations.FenceAndCapRules : Prop :=
  (
  (∀ (s : State) (cid : Nat) (c : Cmd), mgrBegun s cid 0x90 c → c.byte 16 < 64 → c.zero 17 64 = true →
    (s.coreFenced (c.byte 16) = true → exec (.coreFence cid) s = .next (s.doneCmd cid .success 0)) ∧
    (s.coreFenced (c.byte 16) = false → s.coreEnabled (c.byte 16) = true → s.cf.applying = none →
      exec (.coreFence cid) s = .next ((s.fenceCore (c.byte 16) 5).doneCmd cid .success 0)) ∧
    (s.coreFenced (c.byte 16) = false → s.coreEnabled (c.byte 16) = false →
      exec (.coreFence cid) s = .next (s.doneCmd cid .notPermitted 0))) ∧
  (∀ (s : State) (n cause : Nat), s.coreFenced n = true → s.fenceCore n cause = s)) ∧
  (
  ∀ (s : State) (cid : Nat) (c : Cmd), mgrBegun s cid 0x98 c →
    (1500 ≤ c.field 16 2 → c.field 16 2 ≤ 4000 → c.byte 18 = 0 ∨ (c.byte 18 = 1 ∧ c.field 16 2 = 4000) → c.zero 19 64 = true →
      ∃ t, exec (.powerSetCap cid) s = .next t ∧ t.pw.newCap = some (c.field 16 2, c.byte 18 == 1, cid) ∧ t.pw.cap = s.pw.cap ∧
        t.mem = s.mem ∧ t.cmd? cid = some { c with phase := .active }) ∧
    (c.field 16 2 < 1500 ∨ 4000 < c.field 16 2 → exec (.powerSetCap cid) s = .next (s.doneCmd c.cid .invalidParam 16)))

/-- The transitions of R339, with the key that signs each (0 Maeloafort, 1 owner) and the record it keeps, and no other; a target above 4
is `INVALID_PARAM`. `LIFECYCLE_ADVANCE` with an authorisation that is accepted counts its reset, destroys every instance, wipes memory and
writes the new state; where the authorisation is not accepted, or no transition exists, it is `NOT_PERMITTED`, and where it holds a
reserved value or bit `INVALID_PARAM`. Whatever it ends with, the nonce is renewed as it leaves, before its record is written. -/
def Obligations.LifecycleTransitions : Prop :=
  (
  (∀ a b k : Nat, lcKey a b = some k ↔
    (a = 0 ∧ b = 1 ∧ k = 0) ∨ (a = 1 ∧ b = 2 ∧ k = 1) ∨ (a = 2 ∧ b = 3 ∧ k = 1) ∨ (a ≤ 1 ∧ b = 4 ∧ k = 0) ∨
      ((a = 2 ∨ a = 3) ∧ b = 4 ∧ k = 1)) ∧
  (∀ (s : State) (b h : Nat), (s.advance b h).lc.st = BitVec.ofNat 3 b ∧
    (s.advance b h).fuse.ownerKeyHash = (if b = 1 then BitVec.ofNat 384 h else s.fuse.ownerKeyHash) ∧
    (s.advance b h).fuse.lcFuse =
      s.fuse.lcFuse ||| (if b = 1 then 1#3 else if b = 2 then 2#3 else if b = 4 then 4#3 else 0#3)) ∧
  (∀ (s : State) (cid : Nat) (c : Cmd), mgrBegun s cid 0xA0 c → 4 < c.byte 16 →
    exec (.lifecycleAdvance cid) s = .next (s.doneCmd cid .invalidParam 16))) ∧
  (
  (∀ (s : State) (cid st detail : Nat) (c : Cmd) (q : Queue), s.cmd? cid = some c → c.q = .admin → c.opcode = 0xA0 → c.phase = .ended st detail →
    s.queue? .admin = some q →
    let u := ({ s with cmds := s.cmds.filter (fun x => x.cid != cid) } : State).newNonce
    ((q.st = .ringFault ∨ q.st = .disabled) → s.writeEnd cid = u) ∧
    (q.st ≠ .ringFault → q.st ≠ .disabled →
      ((bit c.flags 1 = true ∨ bit c.flags 2 = true ∨ st ≠ 0) → ∃ r, s.writeEnd cid =
        ((u.updQueue .admin (fun x => { x with capped := false, derated := false, reread := false })).pushRecord .admin r).drainEvents.adminIdle ∧
        r.status = st ∧ r.detail = detail ∧ r.opcode = 0xA0#8) ∧
      (bit c.flags 1 = false → bit c.flags 2 = false → st = 0 → s.writeEnd cid =
        (u.updQueue .admin (fun x => { x with capped := c.capped || q.capped, derated := c.derated || q.derated })).adminIdle))) ∧
  ∀ (s : State) (cid : Nat) (c : Cmd), mgrBegun s cid 0xA0 c → c.byte 16 ≤ 4 → c.zero 17 24 = true → c.field 24 8 < 2 ^ 42 →
    c.field 32 4 = 288 → c.zero 36 64 = true → mgrUsable s true (c.field 24 8) 288 →
    let t := s.useRange c.cid (c.field 24 8) 288
    let bs := t.homeBytes (c.field 24 8) 288
    (∀ key, authLegal bs = true → lcKey t.lc.st.toNat (c.byte 16) = some key → t.cf.applying = none →
      exec (.lifecycleAdvance cid) s = .next (if t.authOk (c.byte 16) key bs = true
        then (((t.countReset 15).destroyAll.wipeMemories.advance (c.byte 16) (fld bs 0x30 48)).measure.drainEvents).doneCmd cid .success 0
        else t.doneCmd cid .notPermitted 0)) ∧
    (authLegal bs = true → lcKey t.lc.st.toNat (c.byte 16) = none → exec (.lifecycleAdvance cid) s = .next (t.doneCmd cid .notPermitted 0)) ∧
    (authLegal bs = false → exec (.lifecycleAdvance cid) s = .next (t.doneCmd cid .invalidParam 0xFF)))

/-- `RAMBLER_RUN` of channels that hold no instance's data and run normally starts the Ramblers; its end, once the passes have taken their
time or every channel has been stopped, wipes the channels that were not stopped and writes the result table, and it ends not before. With
no channel or no pass it has nothing to do. `FW_STAGE` checks an image and, where its form, signature and version allow it, writes it to
flash and holds it; `FW_ACTIVATE` of a held image that activates succeeds, and without one is `INVALID_PARAM`. -/
def Obligations.RamblerAndFirmwareRules : Prop :=
  (
  (∀ (s : State) (cid : Nat) (c : Cmd), mgrBegun s cid 0xA8 c → c.field 16 8 < 2 ^ 42 → c.field 24 8 < 2 ^ 42 → c.zero 32 64 = true →
    mgrUsable s true (c.field 16 8) 128 →
    let t := s.useRange c.cid (c.field 16 8) 128
    let bs := t.homeBytes (c.field 16 8) 128
    let mask := fld bs 0 64
    let w := fld bs 0x40 4
    mgrUsable t false (c.field 24 8) 16384 → rambleOk bs = true → t.rambleTime bs ≤ 9000 →
    (mgrSectors (c.field 16 8) 128 ++ mgrSectors (c.field 24 8) 16384).any (fun sec => t.onChannels mask (sec * 32)) = false →
    ((mask = 0 ∨ bits w 31 16 = 0) → exec (.ramblerRun cid) s = .next (t.doneCmd cid .success 0)) ∧
    (mask ≠ 0 → bits w 31 16 ≠ 0 → t.channelBusy mask = false → t.stackHot mask = false →
      exec (.ramblerRun cid) s = .next (({ t with rambler := some {
        cid := cid, channels := BitVec.ofNat 512 mask, op := bits w 5 4, pattern := bits w 3 0, seed := BitVec.ofNat 32 (fld bs 0x44 4)
        passes := bits w 31 16, raw := bit w 15, started := t.time, lasts := t.ramblePasses bs
        inOrder := decide (bits w 7 6 = 2), stopped := 0, found := [] } } : State).activate cid))) ∧
  (∀ (s : State) (r : Rambler) (c : Cmd) (res : List (List Nat)), s.rambler = some r → s.cmd? r.cid = some c → s.clocked = true →
    ((r.started + r.lasts * 100000 ≤ s.time ∨ r.channels &&& ~~~r.stopped = 0#512) → exec (.ramblerRunEnd res) s = .next (
      (({ s with rambler := none } : State).wipeChannels (r.channels &&& ~~~r.stopped).toNat).mgrAnswer c (c.field 24 8) (s.rambleTable r res))) ∧
    (s.time < r.started + r.lasts * 100000 → r.channels &&& ~~~r.stopped ≠ 0#512 → exec (.ramblerRunEnd res) s = .next s))) ∧
  (
  (∀ (s : State) (cid : Nat) (c : Cmd), mgrBegun s cid 0xB0 c → c.field 16 8 < 2 ^ 42 → c.field 24 4 ≠ 0 → c.zero 28 64 = true →
    mgrUsable s true (c.field 16 8) (c.field 24 4) →
    let t := s.useRange c.cid (c.field 16 8) (c.field 24 4)
    let bs := t.homeBytes (c.field 16 8) (min (c.field 24 4) 8388768)
    (imageOk bs (c.field 24 4) = false → exec (.fwStage cid) s = .next (t.doneCmd cid .invalidParam 0xFF)) ∧
    (imageOk bs (c.field 24 4) = true → t.imageAllowed bs = false → exec (.fwStage cid) s = .next (t.doneCmd cid .notPermitted 0)) ∧
    (imageOk bs (c.field 24 4) = true → t.imageAllowed bs = true → exec (.fwStage cid) s =
      .next (if t.imageSigned bs = true then (t.hold bs).doneCmd cid .success 0 else t.doneCmd cid .notPermitted 0))) ∧
  (∀ (s : State) (cid : Nat) (c : Cmd), mgrBegun s cid 0xB1 c → c.zero 16 64 = true →
    (s.lc.heldType = 0#2 → exec (.fwActivate cid) s = .next (s.doneCmd cid .invalidParam 0)) ∧
    (s.lc.heldType ≠ 0#2 → s.cf.applying = none →
      exec (.fwActivate cid) s = .next (s.activateImage.1.drainEvents.doneCmd cid (if s.activateImage.2 then .success else .invalidParam) 0))))

/-- `FABRIC_ROUTE_SET` with legal entries writes them, and what can no longer be reached fails; `FABRIC_GROUP_SET` with a valid descriptor
of a group without a collective replaces the group, healthy at sequence 0. -/
def Obligations.FabricTableRules : Prop :=
  (∀ (s : State) (cid : Nat) (c : Cmd), mgrBegun s cid 0xC0 c → c.field 16 8 < 2 ^ 42 → c.field 24 2 < 4096 →
    c.field 24 2 + c.field 26 2 ≤ 4096 → c.zero 28 64 = true → mgrUsable s true (c.field 16 8) (8 * c.field 26 2) →
    let t := s.useRange c.cid (c.field 16 8) (8 * c.field 26 2)
    let es := (List.range (c.field 26 2)).map (fun k => (c.field 24 2 + k, leNat (t.homeBytes (c.field 16 8 + 8 * k) 8)))
    es.all (fun e => t.routeOk e.1 e.2) = true →
    exec (.fabricRouteSet cid) s = .next ((({ t with fx := { t.fx with
      routes := es.foldl (fun (m : List (Nat × Word64)) e => spSet m e.1 (BitVec.ofNat 64 e.2)) t.fx.routes } } : State).failUnreachable.drainEvents).doneCmd
        cid .success 0)) ∧
  (∀ (s : State) (cid : Nat) (c : Cmd), mgrBegun s cid 0xC1 c → c.field 16 8 < 2 ^ 42 → c.zero 28 64 = true → 64 ≤ c.field 24 4 →
    mgrUsable s true (c.field 16 8) (c.field 24 4) →
    let t := s.useRange c.cid (c.field 16 8) (c.field 24 4)
    let bs := t.homeBytes (c.field 16 8) (min (c.field 24 4) (64 + 4 * bits (leNat (t.homeBytes (c.field 16 8 + 4) 4)) 12 0))
    t.descOk bs (c.field 24 4) = true → (t.group? (descGroup bs).id).elim false (fun x => x.coll.isSome) = false →
    exec (.fabricGroupSet cid) s = .next (({ t with fx := { t.fx with
      groups := t.fx.groups.filter (fun (x : Group) => x.id != (descGroup bs).id) ++ [descGroup bs] } } : State).doneCmd cid .success 0))

/-! ## Homes and HBM -/

/-- A request that comes to its bank, in every row and whatever the SRAM meets: where its home is held in reset it is answered with an
error; with room in the bank's queue of 32, and nothing that holds it, it goes to the end of the queue, which the bank serves from its
head; one that is queued already has the bank go on; and a full queue, or a request of another module that is held before it, keeps it on
its way. The bank performs reads, writes, atomics, adds and declarations as they arrive, whatever its SRAM meets: a load's or an operand's
data leaves the home, with its dead re-reads counted, stream reads that wait with it together with it; a store is written sector by
sector; an atomic is performed lane by lane in ascending order, its old values returned; an add likewise, with no answer; a declaration
marks the whole line. Then the bank goes on with what is left of its queue. A request that has to wait for HBM takes an entry of its half,
or joins the entry of its line: it waits there, behind what waits already, and leaves its bank's queue. A miss whose group is at its limit
of entries is held at the ingress of the home region: it enters no bank queue. A store whose way a held stack's writes keep waits at the
head of its bank's queue. -/
def Obligations.BankRules : Prop :=
  (
  ∀ (s : State) (rid choice : Nat) (err : LlcErr) (x : Req) (row : Nat → Nat → LlcErr → Instr),
    s.queued? rid = some x → s.running = true → bankRowOf x.kind = some row → (∀ chk, x.kind = .declare chk → choice = 0 ∧ err = .none) →
    let u := bankTakes s x err
    (s.homeUp x.line = false → s.bankq.contains rid = true ∨ s.pathClear x = true →
      exec (row rid choice err) s = .next ((s.downReq x).resume)) ∧
    (s.homeUp x.line = true → s.bankq.contains rid = true → u.bankq.contains rid = true →
      exec (row rid choice err) s = .next ((u.bankDrain x.line choice 32).resume)) ∧
    (bankComes s rid x → u.bankq.contains rid = false →
      (u.pathClear x = true → (u.bankQueue x.line).length < 32 → u.ingressHeld x = false → x.sectors.any (fun sec => u.inboundAt sec) = false →
        exec (row rid choice err) s = .next ((({ u with bankq := u.bankq ++ [rid] } : State).bankDrain x.line choice 33).resume)) ∧
      (32 ≤ (u.bankQueue x.line).length ∨ u.ingressHeld x = true ∨ x.sectors.any (fun sec => u.inboundAt sec) = true →
        exec (row rid choice err) s = .next u.resume)) ∧
    (s.bankq.contains rid = false → s.pathClear x = false → exec (row rid choice err) s = .next s.resume)) ∧
  (
  (∀ (s : State) (rid choice : Nat) (err : LlcErr) (x : Req), bankReady s rid choice x err →
    ((x.kind = .read ∨ ∃ op, x.kind = .operand op) →
      (x.stream = false → exec (.bankAccess rid choice err) s = .next (bankRest ((banked s x err).fillOut x.line [x] true) x choice)) ∧
      (x.stream = true →
        exec (.bankAccess rid choice err) s =
          .next (bankRest (((banked s x err).joinInbound x.line).fillOut x.line (x :: (atBank s x err).streamPeers x) true) x choice))) ∧
    (x.kind = .write → exec (.bankAccess rid choice err) s = .next (bankRest
      ((x.sectors.foldl (fun t sec => t.ctxWriteSector x.ctxRef sec choice (sectorBytes (x.inSector sec))) ((banked s x err).endReq x)).drainEvents)
      x choice)) ∧
    (∀ aop size, x.kind = .atomic aop size →
      x.fault (x.sectors.map (fun sec => (sec, (banked s x err).ctxReadSector x.ctxRef sec))) = none →
      exec (.bankAccess rid choice err) s = .next (
        let res := x.lanes.foldl (fun (p : State × List (Nat × Nat)) l =>
          let r := p.1.swapElem x.ctxRef l choice (fun old => atomNew aop l.size old l.data l.cmp)
          (r.1, p.2 ++ [(l.lane, r.2)]))
          (((banked s x err).endReq x).countReread x.ctxRef
            (rereads (x.sectors.map (fun sec => (sec, (banked s x err).ctxReadSector x.ctxRef sec)))), [])
        bankRest ((res.1.deliver x res.2).acquireEnd x) x choice)) ∧
    (∀ lf opf, x.kind = .add lf opf →
      (∀ sec ∈ x.sectors, (banked s x err).ctxReadSector x.ctxRef sec ≠ .deadFatal ∧ (banked s x err).ctxReadSector x.ctxRef sec ≠ .poison) →
      exec (.addRequest rid choice err) s = .next (bankRest (x.lanes.foldl (fun t l =>
          (t.swapElem x.ctxRef l choice (fun old => lineAdds lf opf (l.size / fmtBytes lf) old l.data)).1)
        (((banked s x err).endReq x).countReread x.ctxRef
          (rereads (x.sectors.map (fun sec => (sec, (banked s x err).ctxReadSector x.ctxRef sec)))))) x choice))) ∧
  (∀ (s : State) (rid : Nat) (x : Req) (chk : Bool), bankReady s rid 0 x .none → x.kind = .declare chk → exec (.deadDeclaration rid) s =
    .next (bankRest (x.sectors.foldl (fun t sec => t.declareDead sec chk) ((banked s x .none).endReq x)) x 0)) ∧
  (∀ (s : State) (x : Req) (hit : Bool), x.fault (x.sectors.map (fun sec => (sec, s.ctxReadSector x.ctxRef sec))) = none →
    let rs := x.sectors.map (fun sec => (sec, s.ctxReadSector x.ctxRef sec))
    let data : BitVec 2048 := rs.foldl (fun d r => setLineBytes d (r.1 * 32) 32 (leNat r.2.bytes)) 0
    let mask : BitVec 8 := rs.foldl (fun m r => m ||| (1 <<< secBit r.1)) 0
    let t := (if hit then s.touch x.line else s).countReread x.ctxRef (rereads rs)
    let t := (t.sharers x).foldl (fun t c => t.countReread c (rereads rs)) t
    s.performRead x hit = { t with
      bankq := t.bankq.erase x.rid
      reqs := updWhere (fun (y : Req) => decide (y.rid = x.rid))
        (fun (y : Req) => { y with phase := .served (x.lanes.map (fun l => (l.lane, lineBytes data l.pa l.size))) mask data }) t.reqs } ∧
    ((∀ y ∈ s.reqs, y.rid = x.rid → y = x) → (x.stream = false ∨ x.credited = true) → s.fillOut x.line [x] hit = s.performRead x hit))) ∧
  (
  (∀ (s : State) (rid choice : Nat) (err : LlcErr) (x : Req), bankArrives s rid x err → (x.kind = .read ∨ x.kind = .write) →
    let b := atBank s x err
    (b.reqMisses x = true ∨ b.behindMiss x = true →
      (b.hbmEntries.any (fun e => e.line = x.line) = true ∨ b.entriesFull (b.homeRegion (x.line * 256)) (b.bwgOf (some x.inst)) = false) →
      exec (.bankAccess rid choice err) s = .next (bankRest (b.joinEntry x) x choice)) ∧
    (b.reqMisses x = false → b.behindMiss x = false → b.reqHeld x choice = true → exec (.bankAccess rid choice err) s = .next b.resume)) ∧
  (∀ (s : State) (rid choice : Nat) (err : LlcErr) (x : Req) (row : Nat → Nat → LlcErr → Instr), bankComes s rid x →
    bankRowOf x.kind = some row → (∀ chk, x.kind = .declare chk → choice = 0 ∧ err = .none) → (bankTakes s x err).bankq.contains rid = false →
    (bankTakes s x err).ingressHeld x = true →
    exec (row rid choice err) s = .next ((bankTakes s x err).resume)))

/-- An HBM read that returns, issued from its window as the scheduler may, opens its row, brings its line into the half, counts its bytes,
frees its entry for the next request of the window and performs what waited for it, in order of arrival; then what waited at the homes,
and records that waited, go on. While the stack is held, before its turn, or while its way is kept by a write of a held stack, it does not
return. A request 4 µs in the window counts as class 0. A read may be issued where its stack is not held, it is in the window, none there
is of a lower class, and it is to an open row or, where no read of its class is, none of its class is older. A fill that arrives serves
the load that asked for it: the request ends, its results reach the destination registers, the line enters L1 where the load may allocate,
and an acquire ends with its last data. A landing line that frees goes to the core's oldest stream request without one, and a replay slot
frees with its last target. -/
def Obligations.HbmReadServes : Prop :=
  (
  ∀ (s : State) (line choice : Nat) (ecc : List Ecc) (e : HbmEntry), s.hbmEntries.find? (fun e => e.line = line) = some e → s.running = true →
    ((s.stack (s.homeRegion (line * 256))).step = 3#3 ∨ e.entered = none ∨ s.canIssue e.read = false ∨ s.allocHeld e.inst line choice = true →
      exec (.hbmReadComplete line choice ecc) s = .next s) ∧
    (s.canIssue e.read = true → s.allocHeld e.inst line choice = false → (∀ x ∈ s.waitersOf e, x.streamOf line = false) →
      exec (.hbmReadComplete line choice ecc) s = .next (
        let t := (List.range 8).foldl (fun t i => t.hbmSector (line * 8 + i) (ecc.getD i .clean)) (s.openRow (line * 256))
        let t := t.fillLine e.inst line choice e.stream
        ((s.waitersOf e).foldl (fun u x => State.perform u x choice false)
          (({ t with hbmEntries := t.hbmEntries.filter (fun e => e.line != line) } : State).countEvent e.inst 6
            (80 + t.homeRegion (line * 256)) 256)).fillWindows.resume.drainRecords)) ∧
    exec (.hbmRequestAging line) s = .next { s with hbmEntries := s.hbmEntries.map (fun e =>
      if e.line = line && e.entered.elim false (fun t => decide (t + 4000 ≤ s.time)) then { e with cls := 0 } else e) }) ∧
  (
  ∀ (s : State) (r : HbmRead),
    let window := (s.readsOf (r.sec * 32)).filter (fun y => y.entered.isSome)
    let class_ := fun (y : HbmRead) => if y.entered.elim false (fun t => decide (t + 4000 ≤ s.time)) then 0 else y.cls
    (s.canIssue r = true ↔ r.entered.isSome = true ∧ (s.stack (s.homeRegion (r.sec * 32))).step ≠ 3#3 ∧ (∀ y ∈ window, class_ r ≤ class_ y) ∧
      (s.rowOpen (r.sec * 32) = true ∨
        ((∀ y ∈ window, class_ y = class_ r → s.rowOpen (y.sec * 32) = false) ∧ ∀ y ∈ window, class_ y = class_ r → r.since ≤ y.since)))) ∧
  (
  (∀ (s : State) (core line choice : Nat) (x : Req) (res : List (Nat × Nat)) (mask : BitVec 8) (data : BitVec 2048),
    s.reqs.filter (fun y => y.core = core && y.line = line && y.fetches && (!y.blocked || y.target != .home) && !s.fillHeld y.rid
      && (match y.phase with
        | .served _ _ _ => true
        | _ => false)) = [x] →
    x.phase = .served res mask data → x.kind = .read → x.target = .home → s.joinedTo x.rid = [] → s.clocked = true →
    exec (.fillArrival core line choice) s = .next (
      ((((s.endReq x).deliver x res).fillL1 { core := x.core, slot := x.slot } x.line choice (mask &&& ~~~x.drop) data
        (decide (x.scope ≤ 1) && !x.stream))).acquireEnd x)) ∧
  (∀ (s : State) (core : Nat) (x : Req), s.reqs.find? (fun y => y.core = core && y.owesCredit) = some x → (s.core core).landing ≠ 0 → s.clocked = true →
    exec (.landingCreditReturn core) s = .next (
      let t := s.updCore core (fun c => { c with landing := c.landing - 1 })
      ({ t with reqs := updWhere (fun (y : Req) => decide (y.rid = x.rid)) (fun (y : Req) => { y with credited := true }) t.reqs }).trimReplay)))

/-- Refresh and scrub of a trained stack that is not in self-refresh, at a module whose clocks run: the bank is refreshed, which closes
its row. A scrub read is asked for, in class 3, and made once the controller may issue it: a clean sector stays as it is, one with a
corrected byte counts and is queued for rewriting, an uncorrectable one, or a parity error that its retry meets again, counts and is
rewritten as a poison marker, and a poison marker or a sector of a failed pseudo-channel reads as uncorrectable. What a read of a sector
counts and posts: an uncorrectable one counts at its stack and posts class 0x07 with its address; a corrected one counts, posts class
0x06, and is queued for rewriting. A stack that has trained is wiped with every marker cleared; training records its masks, a reuse of the
sticky settings keeps those recorded. A wiped region's HBM reads 0 in every byte, with no marker, and no other byte of the backing memory
changes. -/
def Obligations.StackRules : Prop :=
  (
  (∀ (s : State) (k pc bank : Nat), pc < 64 → bank < 64 → s.outOfCold = true → (s.stack k).trained = true → (s.stack k).step ≠ 3#3 →
    exec (.perBankRefresh k pc bank) s =
      .next (s.updStack k (fun x => { x with refreshed := s.time, rows := x.rows.filter (fun p => p.1 != 64 * pc + bank) }))) ∧
  (∀ (s : State) (k sec : Nat) (ecc : Ecc) (r : HbmRead), s.scrubEn = true → s.outOfCold = true → (s.stack k).trained = true →
    (s.stack k).step ≠ 3#3 → s.homedHbm k (sec * 32) = true →
    let u := s.askScrub k sec
    (u.stack k).scrubs.find? (fun r => r.sec = sec) = some r →
    (u.canIssue r = false → exec (.patrolScrub k sec ecc) s = .next u) ∧
    (u.canIssue r = true →
      let v := (u.openRow (sec * 32)).updStack k (fun x => { x with scrubs := x.scrubs.filter (fun r => r.sec != sec), scrubbed := u.time })
      (v.pcFailed (sec * 32) = true → exec (.patrolScrub k sec ecc) s = .next (v.uncorrectable sec).fillWindows) ∧
      (v.pcFailed (sec * 32) = false →
        (v.poisonMarks.contains sec = false → ecc = .clean ∨ v.inWq sec = true → exec (.patrolScrub k sec ecc) s = .next v.fillWindows) ∧
        (v.poisonMarks.contains sec = true → ecc = .clean ∨ v.inWq sec = true →
          exec (.patrolScrub k sec ecc) s = .next (v.uncorrectable sec).fillWindows) ∧
        (v.inWq sec = false → ecc = .uncorrectable ∨ ecc = .parityFailed →
          exec (.patrolScrub k sec ecc) s = .next (((v.uncorrectable sec).putPoisonMark sec).queueWrite sec).fillWindows) ∧
        (v.inWq sec = false → ecc = .corrected → (v.corrected sec).poisonMarks.contains sec = false →
          exec (.patrolScrub k sec ecc) s = .next (v.corrected sec).fillWindows))))) ∧
  (
  ∀ (s : State) (sec : Nat),
    let r := s.homeRegion (sec * 32)
    s.uncorrectable sec = (s.hbmCount r 0 1).error 0x07 1 (0x40 + r) (errAddr (sec * 32)) ∧
    s.corrected sec = ((s.hbmCount r 1 0).error 0x06 0 (0x40 + r) (errAddr (sec * 32))).queueWrite sec ∧
    (∀ k c u : Nat, k < s.hbm.length →
      (s.hbmCount k c u).stack k = { s.stack k with ce := satInc (s.stack k).ce c, ue := satInc (s.stack k).ue u }) ∧
    (s.putPoisonMark sec).poisonMarks.contains sec = true ∧ ∀ o, o < 32 → spGet (s.putPoisonMark sec).back (sec * 32 + o) = 0#8) ∧
  (
  ∀ (s : State) (k : Nat) (pcFail : Word64) (dq ca : BitVec 8), k < 16 → s.outOfCold = true → s.rs.warm = false → s.regionHold k = false →
    (s.stack k).trained = false →
    (exec (.hbmReady k false 0 dq ca) s =
      .next ((s.updStack k (fun x => { x with trained := true, sticky := true, pcFail := 0, dq := dq, ca := ca })).wipeHbm k)) ∧
    ((s.stack k).sticky = true → exec (.hbmReady k true pcFail dq ca) s =
      .next ((s.updStack k (fun x => { x with trained := true })).wipeHbm k))) ∧
  (
  ∀ (s : State) (k a : Nat),
    (s.homedHbm k a = true → spGet (s.wipeHbm k).back a = 0#8) ∧
    (s.homedHbm k a = false → spGet (s.wipeHbm k).back a = spGet s.back a) ∧
    (∀ sec ∈ (s.wipeHbm k).deadMarks ++ (s.wipeHbm k).poisonMarks, s.homedHbm k (sec * 32) = false) ∧ (s.wipeHbm k).mem = s.mem)

/-- Thermal steps: above 105, 95 and 85 °C a stack is in at least step 3, 2 and 1; it leaves a step only at or below 100, 90 and 80 °C;
and it leaves step 3 for step 2, whatever the reading. A temperature reading is kept and moves the stack's step, whatever it is; a step
that changes posts its event; a stack that enters step 2 stops its Rambler channels, one that enters step 3 closes its rows, and the
commands that wait for it note it; one that leaves step 3 drains its write queues and serves again what waited; a reading at or below 110
°C trips nothing, and one above stops the module. A DMA or cache command, or a collective, that has waited 10 s for a held stack ends with
`MEM_THERMAL`; before that, or waiting for none, it goes on. The time runs from when it began to wait, and anew where it waits again. -/
def Obligations.ThermalRules : Prop :=
  (
  ∀ step t : Nat, step ≤ 3 →
    (105 < t → hbmStep step t = 3) ∧ (95 < t → 2 ≤ hbmStep step t) ∧ (85 < t → 1 ≤ hbmStep step t) ∧ hbmStep step t ≤ 3 ∧
    (step = 3 → t ≤ 100 → hbmStep step t = 2) ∧ (step = 3 → 100 < t → hbmStep step t = 3) ∧
    (step = 2 → 90 < t → t ≤ 105 → hbmStep step t = 2) ∧ (step = 2 → 80 < t → t ≤ 90 → hbmStep step t = 1) ∧
    (step = 1 → 80 < t → t ≤ 95 → hbmStep step t = 1) ∧ (step ≤ 2 → t ≤ 80 → hbmStep step t = 0)) ∧
  (
  ∀ (s : State) (k : Nat) (t : BitVec 8), k < 16 → s.outOfCold = true →
    let old := (s.stack k).step.toNat
    let new := hbmStep old t.toNat
    let kept := fun (x : Stack) => { x with
      tempC := t, step := BitVec.ofNat 3 new, heldSince := if new = 3 && old != 3 then s.time else x.heldSince
      rows := if new = 3 && old != 3 then [] else x.rows }
    (new = old → new < 2 → t.toNat ≤ 110 → exec (.hbmTempRead k t) s = .next (s.updStack k kept)) ∧
    (new < old → old = 3 → t.toNat ≤ 110 → exec (.hbmTempRead k t) s = .next
      (((((s.updStack k kept).event 0x05 (k + new * 2 ^ 8 + t.toNat * 2 ^ 16)).noteHot k).noteHolds).leaveHold k)) ∧
    (old < new → 2 ≤ new → t.toNat ≤ 110 → exec (.hbmTempRead k t) s = .next (
      let u := (((s.updStack k kept).event 0x05 (k + new * 2 ^ 8 + 2 ^ 12 + t.toNat * 2 ^ 16)).noteHot k)
      let u := if old < 2 then u.stopRambler k else u
      if new = 3 then u.noteHolds else u)) ∧
    (new < old ∨ (old < new ∧ new < 2) → new < 2 → t.toNat ≤ 110 → exec (.hbmTempRead k t) s = .next
      ((s.updStack k kept).event 0x05 (k + new * 2 ^ 8 + (if old < new then 2 ^ 12 else 0) + t.toNat * 2 ^ 16))) ∧
    (new = old → 2 ≤ new → t.toNat ≤ 110 → exec (.hbmTempRead k t) s = .next ((s.updStack k kept).noteHot k)) ∧
    (110 < t.toNat → ∃ u, exec (.hbmTempRead k t) s = .next u ∧ u.pw.tripped = true ∧ u.clk.stopped = true ∧
      u.pins.thermtripN = false ∧ u.pins.modPwrgd = false)) ∧
  (
  (∀ (s : State) (cid t : Nat) (c : Cmd), s.cmd? cid = some c → s.running = true →
    (c.opcode ∈ [0x18, 0x19, 0x1A, 0x2A, 0x2B, 0x28, 0x29, 0x20, 0x21, 0x22, 0x23, 0x24] → c.heldFrom = some t → t + 10000000000 ≤ s.time →
      exec (.thermalHoldExpiry cid) s = .next (s.stopCmd cid .memThermal 0)) ∧
    ((c.heldFrom = none ∨ ∃ t, c.heldFrom = some t ∧ s.time < t + 10000000000) → exec (.thermalHoldExpiry cid) s = .next s)) ∧
  (∀ (s : State) (cid : Nat) (c : Cmd), s.cmd? cid = some c →
    (s.markHeld cid true).cmd? cid = some { c with heldFrom := some (c.heldFrom.getD s.time) } ∧
    (s.markHeld cid false).cmd? cid = some { c with heldFrom := none }))

/-! ## The fabric -/

/-- A request of another module at a `LIVE` port, legal, addressed to this module, and inside a grant that its group allows: it leaves its
receive buffer and is performed at its home. A read answers with the sectors and the masks of the dead and poisoned ones; a write, an add
and a declaration are acknowledged; an atomic answers with the sectors before it; a write that enables no byte of a sector poisons it (log
62). Where it has to wait for HBM or behind an earlier request it is kept, with what it waits for asked of HBM; a refused one is answered
with its reason; between `UP` and `LIVE` it is answered with `NOT_READY`; a port that is down takes nothing. -/
def Obligations.FabricRequests : Prop :=
  (∀ (s t : State) (port inst : Nat) (m : Msg) (data : List Byte), heard s port m →
    t = taken s port m (if m.typ = 1#8 ∨ m.typ = 5#8 then [] else data) →
    t.fabricGrant m = .inl inst → t.msgWaits inst m = false → t.behindInbound m = false →
    let a := m.addr.toNat
    let n := m.nsect.toNat
    let v := t.countLlc (some inst) a
    (m.typ = 1#8 → exec (.rd port m) s = .next (
      let u := (distinct ((List.range n).map (fun i => (a + 32 * i) / 256))).foldl (fun u l => u.touch l) v
      u.respond port m { Msg.to 0x10 0 with nsect := m.nsect, deadMask := (u.readMasks a n).1, poisonMask := (u.readMasks a n).2 }
        ((List.range n).flatMap (fun i => u.secBytes (a / 32 + i))))) ∧
    (m.typ = 2#8 → exec (.wr port m data) s = .next (
      ((List.range n).foldl (fun u i => if sectorEnables m i = 0 then u.markPoison (a / 32 + i)
        else u.writeSector (some inst) (a / 32 + i) 0 (enabledBytes m data i)) v).drainEvents.ackMsg port m)) ∧
    (m.typ = 3#8 → exec (.fabricAtom port m data) s = .next (v.homeAtom port inst m data)) ∧
    (m.typ = 4#8 → exec (.fabricAdd port m data) s = .next (v.homeAddMsg port inst m data)) ∧
    (m.typ = 5#8 → exec (.dead port m) s = .next (
      ((List.range n).foldl (fun u i => u.declareDead (a / 32 + i) (m.op = 1)) v).ackMsg port m))) ∧
  (∀ p ∈ fabricRequestRows, ∀ (s t : State) (port : Nat) (m : Msg) (data : List Byte), m.typ = p.1 →
    t = taken s port m (if p.2.2 then data else []) →
    (heard s port m → (∀ inst, t.fabricGrant m = .inl inst → (t.msgWaits inst m = true ∨ t.behindInbound m = true) → ∃ u,
        u = t.fetchMsg inst m ∧ exec (p.2.1 port m data) s = .next { u with fx := { u.fx with inbound := u.fx.inbound ++
          [{ port := port, msg := m, data := if p.2.2 then data else [], lastPending := t.time, missed := !(t.msgMissing m).isEmpty }] } }) ∧
      (∀ reason, t.fabricGrant m = .inr reason → exec (p.2.1 port m data) s = .next (t.nackMsg port m reason))) ∧
    (s.outOfCold = true → port < 16 → ((s.port port).st = .up ∨ (s.port port).st = .duplicate) →
      exec (p.2.1 port m data) s = .next (taken (s.nackMsg port m 4) port m (if p.2.2 then data else []))) ∧
    ((s.port port).st = .down → exec (p.2.1 port m data) s = .next s))

/-- A response to a transaction that a herd's request began: data serves the request, a poisoned sector or a refusal kills its context by
the reason, an acknowledgement ends the request, and of an add counts the dead sectors that it names, or kills its context where `DEADCHK`
= 1 (log 71); `PENDING` starts the timeout again; and with no response at all the transaction ends with `TIMEOUT`. A contribution that the
owner's store has no room for is sent again 10 µs later. A home whose stack is derated or held answers `PENDING` every 1 ms. -/
def Obligations.FabricResponses : Prop :=
  (∀ (s u : State) (port rid : Nat) (m : Msg) (data : List Byte) (t : Txn) (x : Req),
    heard s port m → u = taken s port m (if m.typ = 0x10#8 then data else []) → u.answered port m = some t → t.owner = .herd rid →
    u.reqOf rid = some x →
    let s1 := u.endTxn t.port t.num
    let pa := t.dst * 2 ^ 42 + t.addr
    let served := fun (v : State) => ({ v with reqs := v.reqs.map (fun y => if y.rid = x.rid then { y with
        phase := .served (y.lanes.map (fun l => (l.lane, leNat ((data.drop (l.pa - pa)).take l.size)))) 0
          (setLineBytes 0 pa (min data.length 256) (leNat data)) } else y) } : State)
    (m.typ = 0x10#8 → m.poisonMask.getLsbD 0 = true → exec (.rdRsp port m data) s = .next (s1.failReq x .eccUncorrectable)) ∧
    (m.typ = 0x10#8 → m.poisonMask.getLsbD 0 = false → m.deadMask.getLsbD 0 = false → x.kind = .read →
      exec (.rdRsp port m data) s = .next (served s1)) ∧
    (m.typ = 0x10#8 → m.poisonMask.getLsbD 0 = false → m.deadMask.getLsbD 0 = true → x.kind = .read →
      (s1.deadchk x.ctxRef = true → exec (.rdRsp port m data) s = .next (s1.failReq x .deadRead)) ∧
      (s1.deadchk x.ctxRef = false → exec (.rdRsp port m data) s = .next (served (s1.countReread x.ctxRef 1)))) ∧
    (m.typ = 0x11#8 → (∀ lf opf, x.kind ≠ .add lf opf) → exec (.ack port m) s = .next (s1.endReq x)) ∧
    (∀ lf opf, m.typ = 0x11#8 → x.kind = .add lf opf →
      (m.deadMask = 0 ∨ s1.deadchk x.ctxRef = false →
        exec (.ack port m) s = .next ((s1.endReq x).countReread x.ctxRef (maskBits 64 m.deadMask.toNat).length)) ∧
      (m.deadMask ≠ 0 → s1.deadchk x.ctxRef = true → ∃ ls, exec (.ack port m) s = .next (s1.failReq { x with lanes := ls } .deadRead))) ∧
    (m.typ = 0x12#8 → m.status = 1#8 → exec (.nack port m) s = .next (s1.failReq x .permission)) ∧
    (m.typ = 0x12#8 → (m.status = 2#8 ∨ m.status = 3#8 ∨ m.status = 4#8) → exec (.nack port m) s = .next (s1.failReq x .addressFault)) ∧
    (m.typ = 0x13#8 → exec (.pending port m) s = .next { u with fx := { u.fx with
      txns := u.fx.txns.map (fun v => if v.port = t.port && v.num = t.num then { v with since := u.time } else v) } })) ∧
  (∀ (s u : State) (port : Nat) (m : Msg) (t : Txn) (cid : Nat) (h : CollHdr) (d : List Byte), heard s port m → u = taken s port m [] →
    u.answered port m = some t → t.owner = .coll cid h d → m.typ = 0x12#8 → m.status = 5#8 →
    exec (.nack port m) s = .next { u with fx := { u.fx with txns := u.fx.txns.map (fun v =>
      if v.port = t.port && v.num = t.num then { v with resendAt := some (u.time + 10000) } else v) } }) ∧
  (∀ (s : State) (port rid : Nat) (t : Txn) (x : Req), port < 16 → s.fx.txns.find? (fun t => t.port = port && t.num = rid) = some t →
    t.owner = .herd x.rid → s.reqOf x.rid = some x → t.resendAt = none → s.clocked = true → t.since + s.fx.txnTimeout.toNat * 1000000 ≤ s.time →
    exec (.txnTimeout port rid) s = .next ((s.endTxn port rid).failReq x .addressFault)) ∧
  (∀ (s : State) (port : Nat) (src : BitVec 12) (txn : BitVec 14) (i : Inbound),
    s.fx.inbound.find? (fun i => i.port = port && i.msg.srcPkg = src && i.msg.txn = txn) = some i →
    s.clocked = true → 2#3 ≤ (s.stack (s.homeRegion i.msg.addr.toNat)).step → i.lastPending + 1000000 ≤ s.time →
    ∃ t, t = s.respond port i.msg (Msg.to 0x13 0) [] ∧ exec (.pendingTimer port src txn) s = .next { t with fx := { t.fx with
      inbound := t.fx.inbound.map (fun j => if j = i then { j with lastPending := t.time } else j) } })

/-- Messages of a collective from a member of its group: a contribution to the collective in progress is applied, and what the store has
no room for is refused; one that comes early is kept; an arrival is acknowledged; a contradiction ends the collective; a beacon starts the
timeout of the collective it names again; an abort breaks the group and completes the collective with `PEER_ABORT`, naming the sender. A
derated or held region sends beacons to the other members, one in 500 µs. An engine whose region is held in reset refuses every message
with `NOT_READY`. -/
def Obligations.CollectiveMessages : Prop :=
  (∀ (s t : State) (port : Nat) (m : Msg) (h : CollHdr) (data : List Byte) (g : Group), heard s port m →
    t = taken s port m (if m.typ = 8#8 then data else []) →
    t.group? m.groupId.toNat = some g → g.members.any (fun x => x.1 = m.srcPkg.toNat) = true → g.broken = none →
    let region := (g.members.getD g.rank (0, 16)).2
    let kept := fun (d : List Byte) => t.updGroup g.id (fun g => { g with
      held := g.held ++ [Contribution.mk port h.rank.toNat h d m.txn m.srcPkg m.srcPort]
      coll := g.coll.map (fun k => if k.seq = h.seq.toNat then { k with came := t.time } else k) })
    (t.regionDown region = true → (m.typ = 8#8 → exec (.collData port m h data) s = .next (t.nackMsg port m 4)) ∧
      (m.typ = 9#8 → exec (.collArrive port m h) s = .next (t.nackMsg port m 4))) ∧
    (t.regionDown region = false →
    (m.typ = 8#8 →
      let d := data.take (msgBytes m)
      let item := Contribution.mk port h.rank.toNat h d m.txn m.srcPkg m.srcPort
      (∀ k, g.coll = some k → k.seq = h.seq.toNat → hdrMatches h k.hdr = true → ∃ u, u = (kept d).collPump k.cid ∧
        exec (.collData port m h data) s = .next (if 2 ^ 20 < u.heldBytes region ∧ (u.group? g.id).elim false (fun g => g.held.contains item) = true
          then t.nackMsg port m 5 else u)) ∧
      ((∀ k, g.coll = some k → k.seq ≠ h.seq.toNat) → g.seq = h.seq.toNat → (kept d).heldBytes region ≤ 2 ^ 20 →
        exec (.collData port m h data) s = .next (kept d))) ∧
    (m.typ = 9#8 →
      (∀ k, g.coll = some k → k.seq = h.seq.toNat → hdrMatches h k.hdr = true →
        exec (.collArrive port m h) s = .next (((kept []).ackMsg port m).collPump k.cid)) ∧
      ((∀ k, g.coll = some k → k.seq ≠ h.seq.toNat) → g.seq = h.seq.toNat → exec (.collArrive port m h) s = .next ((kept []).ackMsg port m))) ∧
    (∀ k, g.coll = some k → k.seq = h.seq.toNat → hdrMatches h k.hdr = false →
      (m.typ = 8#8 → exec (.collData port m h data) s = .next (t.mismatch g.id h.seq.toNat)) ∧
      (m.typ = 9#8 → exec (.collArrive port m h) s = .next (t.mismatch g.id h.seq.toNat))) ∧
    ((∀ k, g.coll = some k → k.seq ≠ h.seq.toNat) → g.seq ≠ h.seq.toNat →
      (m.typ = 8#8 → exec (.collData port m h data) s = .next (t.mismatch g.id h.seq.toNat)) ∧
      (m.typ = 9#8 → exec (.collArrive port m h) s = .next (t.mismatch g.id h.seq.toNat))))) ∧
  (∀ (s t : State) (port : Nat) (m : Msg) (seq : Word) (rank : BitVec 16) (g : Group), heard s port m → t = taken s port m [] →
    t.fromMember m = some g →
    (m.typ = 0x21#8 → exec (.progressHold port m seq rank) s =
      .next (t.updColl g.id (fun k => if k.seq = seq.toNat then { k with restart := t.time, beacons := true } else k))) ∧
    (m.typ = 0x22#8 → g.coll = none → exec (.peerAbort port m seq rank) s = .next (t.breakGroup g.id m.srcPkg.toNat)) ∧
    (∀ k, m.typ = 0x22#8 → g.coll = some k → exec (.peerAbort port m seq rank) s =
      .next ((t.dropColl g.id m.srcPkg.toNat .peerAbort m.srcPkg.toNat).finishCmd k.cid))) ∧
  (∀ (s : State) (region : Nat), s.running = true → 2#3 ≤ (s.stack region).step →
    exec (.progressHoldBeacon region) s = .next (s.fx.groups.foldl (fun t g => match g.coll with
      | some k => if (g.members.getD g.rank (0, 16)).2 = region && decide (g.beaconAt + 500000 ≤ t.time) then
          (t.toMembers g 0x21 k.seq (t.stack region).step.toNat).updGroup g.id (fun g => { g with beaconAt := t.time }) else t
      | none => t) s))

/-- Flits and fast retrains at a port that is up: an intact flit in sequence is taken, with its acknowledgement and its credits, and takes
a buffer of its pool; one with a reserved code or bit is taken likewise, and what it carries is discarded, which frees its buffer; any
other is discarded, and a replay is asked for from the last one taken; a `NAK` makes the port resend. Eight replays of a flit, or more
than 1,000 discarded flits in a second, start a fast retrain, which keeps the mode or loses the link. A `CRC` of the computed value is
intact (the initial value is the model's, log 72). -/
def Obligations.LinkLayer : Prop :=
  (∀ (s : State) (port : Nat) (f : Flit), s.portUp port = true → (s.port port).st ≠ .down → (s.port port).retraining = false →
    (flitIntact f = false ∨ f.fseq ≠ (s.port port).rxNext → ∃ t, t = (s.updPort port (fun x => { x with
        crcErr := satInc x.crcErr 1, discards := s.time :: x.discards.filter (fun t => decide (s.time < t + oneSec)) })) ∧
      exec (.flitReceive port f) s = .next ((t.updPort port (fun x => x.sent 1)).emit (.linkNak port (t.port port).nakFlit))) ∧
    (flitIntact f = true → f.fseq = (s.port port).rxNext →
      (∃ t, t = s.updPort port (fun x => (({ x with rxNext := x.rxNext + 1 }.acked f.ack).credited f).buffered f) ∧
        let gone := (t.error 0x0E 3 (0x60 + port) 2).freeRx port f.pool.toNat (if f.ftype = 1 || f.ftype = 2 then 1 else 0)
        let on := fun (u : State) => (if f.nak then u.replayPort port else u).drainOut port
        (flitLegal f = true → exec (.flitReceive port f) s = .next (on t)) ∧
        (flitLegal f = false → exec (.flitReceive port f) s = .next (on gone)))) ∧
    (8 ≤ (s.port port).resends.length ∨ 1000 < ((s.port port).discards.filter (fun t => decide (s.time < t + oneSec))).length →
      exec (.fastRetrain port) s = .next (s.updPort port (fun x => { x with retraining := true, discards := [] })))) ∧
  (∀ (s : State) (port : Nat) (spare : BitVec 3), s.portUp port = true → (s.port port).retraining = true →
    exec (.fastRetrainComplete port false spare) s = .next (s.linkLost port 4) ∧
    exec (.fastRetrainComplete port true spare) s = .next (((s.updPort port (fun x => { x with
      retraining := false, resends := []
      spareFor := if x.spareFor = 0 && !x.width2 && spare.toNat ≤ 4 then spare else x.spareFor })).replayPort port).drainOut port)) ∧
  (∀ (x : Port) (ack : BitVec 16), (x.acked ack).unacked ≤ x.unacked ∧ (x.acked ack).txNext = x.txNext) ∧
  (∀ (x : Port) (ftype pool : Nat) (payload : List Byte), flitIntact (x.link ftype pool payload) = true ∧ flitIntact x.nakFlit = true ∧
    (x.link ftype pool payload).fseq = x.txNext ∧ (x.link ftype pool payload).ack = x.rxNext - 1)

/-- A port's life: signal starts its training; training ends in the first mode that qualifies, with a new incarnation, or starts again
after 100 ms; heartbeats carry the port's state, a peer's heartbeat is kept, this module's own package ID makes the port `DUPLICATE`,
another incarnation or 300 µs of silence loses the link; `EN` starts and ends it all; the package ID is set once. -/
def Obligations.PortRules : Prop :=
  (∀ (s : State) (port lanes : Nat), s.portUp port = true → (s.port port).en = true → (s.port port).st = .down →
    (s.port port).training = false → 2 ≤ lanes →
    exec (.portSignalDetect port lanes) s = .next (s.updPort port (fun x => { x with training := true, trainSince := s.time }))) ∧
  (∀ (s : State) (port : Nat) (full half : BitVec 5), s.portUp port = true → (s.port port).en = true → (s.port port).training = true →
    (portMode (s.port port).rateCap full half = none → exec (.portTrainingComplete port full half) s = .next s) ∧
    (∀ w h k, portMode (s.port port).rateCap full half = some (w, h, k) → exec (.portTrainingComplete port full half) s =
      .next (((s.updPort port (fun x => { x.cleared with
        st := .up, training := false, width2 := w, half := h, spareFor := k, lastBeat := s.time })).newInc port).linkEvent port 1)) ∧
    ((s.port port).trainSince + 100000000 ≤ s.time →
      exec (.portTrainingRestart port) s = .next (s.updPort port (fun x => { x with training := false })))) ∧
  (∀ full half : BitVec 5, full &&& 0xF#5 = 0xF#5 → portMode false full half = some (false, false, 0)) ∧
  (∀ full half : BitVec 5, half &&& 0xF#5 = 0xF#5 → portMode true full half = some (false, true, 0)) ∧
  (∀ (s : State) (port : Nat) (b : Beat), s.portUp port = true → (s.port port).st ≠ .down → (s.port port).retraining = false →
    let s1 := s.updPort port (fun x => { x with
      peerPkg := b.pkg, peerValid := b.valid, peerReady := b.ready, peerPort := b.port, peerInc := b.inc, lastBeat := s.time, heard := true })
    ((s.port port).heard = true → (s.port port).peerInc ≠ b.inc → exec (.heartbeat port b) s = .next (s1.linkLost port 5)) ∧
    ((s.port port).heard = false → s.fx.valid = true → b.valid = true → b.pkg = s.fx.pkgId → (s.port port).st = .up →
      exec (.heartbeat port b) s =
        .next (((s1.updPort port (fun x => { x with st := .duplicate })).linkEvent port 7).error 0x0E 3 (0x60 + port) 1)) ∧
    ((s.port port).peerInc = b.inc → b.pkg ≠ s.fx.pkgId → (s.port port).st = .live → exec (.heartbeat port b) s = .next s1) ∧
    ((s.port port).unacked < 4096 → exec (.heartbeatSend port) s = .next (
      ((s.updPort port (fun x => { x.sent 1 with sentBeat := s.time, sentInc := x.inc })).emit (.beat port ((s.port port).link 0 0 [])
        (Beat.mk s.fx.pkgId s.fx.valid (s.portReady port) (BitVec.ofNat 4 port) (s.port port).inc))).tryLive port)) ∧
    ((s.port port).lastBeat + 300000 ≤ s.time → exec (.heartbeatLoss port) s = .next (s.linkLost port 3)) ∧
    (s.time < (s.port port).lastBeat + 300000 → exec (.heartbeatLoss port) s = .next s)) ∧
  (∀ (s : State) (port : Nat), s.running = true →
    exec (.portEnable .manager port) s = .next (s.updPort port (fun x => { x with en := true })) ∧
    ((s.port port).en = true → (s.port port).st = .down →
      exec (.portDisable .manager port) s = .next (s.updPort port (fun x => { x with en := false, training := false }))) ∧
    (∀ vf, exec (.portEnable (.tenant vf) port) s = .next s ∧ exec (.portDisable (.tenant vf) port) s = .next s)) ∧
  (∀ (s : State) (id : BitVec 12), s.running = true →
    (s.fx.valid = false → exec (.pkgIdSet .manager id) s = .next { s with fx := { s.fx with pkgId := id, valid := true } }) ∧
    (s.fx.valid = true → exec (.pkgIdSet .manager id) s = .next s))

/-- A router stop that fails is recorded; a core's stop fences its core with cause 3, a block's stop whose partner has failed too holds
its region, and one whose partner works has no further effect. A link out of service is recorded once. Flits lost in a failed part while
they were on their way end their request with `ADDRESS_FAULT` and their command with `TIMEOUT`; nothing is lost that was not on its way
across a failed part, or after 10 ms. A core's checker fences it with cause 2. -/
def Obligations.InternalFaultRules : Prop :=
  (∀ (s : State) (r k : Nat), s.firmwareUp = true → r < 16 → k < 8 → s.stopFailed r k = false → s.regionHold r = false →
    let s1 := (({ s with health := { s.health with stopFail := s.health.stopFail ||| (1 <<< (8 * r + k)) } } : State).losePart (.stop r)).error 0x0B 2
      (0x40 + r) k
    (k < 4 → exec (.routerStopFailure r k) s = .next (s1.fenceCore (4 * r + k) 3)) ∧
    (4 ≤ k → ∃ t, t = (s1.closeRegions [r]).abandonExits [.region r] ∧ exec (.routerStopFailure r k) s =
      .next (if s1.blockCut r k = true then { t with rs := { t.rs with stopHeld := t.rs.stopHeld ||| (1 <<< r) } } else s1))) ∧
  (∀ (s : State) (l : Nat), s.firmwareUp = true →
    (l < 12 → s.health.bridgeOos.getLsbD l = false → ∃ t, t = s.losePart (.bridge l) ∧ exec (.linkOutOfService l) s = .next (
      ({ t with health := { t.health with bridgeOos := t.health.bridgeOos ||| (1 <<< l) } } : State).error 0x0C 2 (0x80 + l) 0)) ∧
    (12 ≤ l → l < 20 → s.health.rlinkOos.getLsbD (l - 12) = false → ∃ t, t = s.losePart (.region (l - 12)) ∧
      exec (.linkOutOfService l) s = .next (
        ({ t with health := { t.health with rlinkOos := t.health.rlinkOos ||| (1 <<< (l - 12)) } } : State).error 0x0C 2 (0x58 + (l - 12)) 0)) ∧
    (l < 12 → s.health.bridgeOos.getLsbD l = true → exec (.linkOutOfService l) s = .next s)) ∧
  (∀ (s : State) (rid : Nat),
    let u := ({ s with health := { s.health with atRisk := s.health.atRisk.filter (fun p => p.1 != rid) } } : State)
    (s.health.atRisk.any (fun p => p.1 = rid && decide (s.time ≤ p.2)) = true →
      (∀ x, s.reqOf rid = some x → exec (.internalFlitLoss rid) s = .next (u.failReq x .addressFault)) ∧
      (∀ c, s.reqOf rid = none → s.cmd? rid = some c → c.phase = .active →
        exec (.internalFlitLoss rid) s = .next (u.stopCmd rid .timeout (u.elapsedMs c)))) ∧
    (s.health.atRisk.any (fun p => p.1 = rid && decide (s.time ≤ p.2)) = false → exec (.internalFlitLoss rid) s = .next s)) ∧
  (∀ (s : State) (n : Nat), s.firmwareUp = true → n < 64 → exec (.coreCheckerError n) s = .next (s.fenceCore n 2))

/-! ## The host interface and the sideband -/

/-- BAR2 within this module, at homes that wait for nothing, by a function without a posted write that waits: a read returns the bytes at
the home, a write is performed there, an AtomicOp exchanges the value and returns the one before it; poisoned data is returned as
poisoned. What has to wait for its home asks for its lines; a posted write waits then in order, and goes on when it can. A request behind
a posted write waits, but for a write with Relaxed Ordering. Where the BAR leads nowhere a read completes with Unsupported Request, and a
write is lost, with a record; before the firmware is ready a read completes with Unsupported Request; a TLP of an Insecure stream is
discarded. -/
def Obligations.Bar2Rules : Prop :=
  (∀ (s : State) (fn : Nat) (addr : Word64) (len : Nat) (tagged : Bool), Machine.barShape addr.toNat len = true →
    let t := s.drainPosted
    t.host.linkUp = true →
    (t.ideDrops fn tagged = true → exec (.bar2Read fn addr len tagged) s = .next t) ∧
    (t.ideDrops fn tagged = false → t.hostUp = true → (fn = 0 ∨ t.vfTakes fn tagged = true) →
      (t.postedOut fn = false →
        (∀ i a, t.bar2To fn .read addr.toNat len = .home i a →
          (t.barWaits i a len true = false → exec (.bar2Read fn addr len tagged) s =
            .next (if (mgrSectors a len).any (fun sec => t.secPoisoned sec) then t.emit (.pciePoisoned fn)
              else t.emit (.pcieData fn (t.homeBytes a len)))) ∧
          (t.barWaits i a len true = true → exec (.bar2Read fn addr len tagged) s = .next (t.barFetch i a len true))) ∧
        (t.bar2To fn .read addr.toNat len = .none → exec (.bar2Read fn addr len tagged) s = .next (t.emit (.pcieUr fn)))) ∧
      (t.postedOut fn = true → exec (.bar2Read fn addr len tagged) s = .next t)) ∧
    (t.ideDrops fn tagged = false → (t.hostUp = false ∨ (fn ≠ 0 ∧ t.vfTakes fn tagged = false)) →
      exec (.bar2Read fn addr len tagged) s = .next (t.emit (.pcieUr fn)))) ∧
  (∀ (s : State) (fn : Nat) (addr : Word64) (data : List Byte) (tagged relaxed : Bool), Machine.barShape addr.toNat data.length = true →
    let t := s.drainPosted
    let later := fun (u : State) => u.postLater (.bar2 fn addr.toNat data)
    t.hostUp = true → t.ideDrops fn tagged = false → (fn = 0 ∨ t.vfTakes fn tagged = true) →
    ((relaxed = true ∨ t.postedOut fn = false) →
      (∀ i a, t.bar2To fn .write addr.toNat data.length = .home i a →
        (t.barWaits i a data.length false = false →
          exec (.bar2Write fn addr data tagged relaxed) s = .next ((t.homeWrite i a 0 data).drainEvents)) ∧
        (t.barWaits i a data.length false = true →
          exec (.bar2Write fn addr data tagged relaxed) s = .next (later (t.barFetch i a data.length false)))) ∧
      (t.bar2To fn .write addr.toNat data.length = .none →
        exec (.bar2Write fn addr data tagged relaxed) s = .next (t.error 0x10 1 0x70 fn))) ∧
    (relaxed = false → t.postedOut fn = true → exec (.bar2Write fn addr data tagged relaxed) s = .next (later t))) ∧
  (∀ (s : State) (fn o a : Nat) (data : List Byte) (i : Option Nat), s.running = true → s.host.posted = [.bar2 fn o data] →
    s.fx.txns = [] → s.bar2To fn .write o data.length = .home i a → s.barWaits i a data.length false = false →
    ∃ t, t = (s.homeWrite i a 0 data).drainEvents ∧ s.drainPosted = { t with host := { t.host with posted := [] } }) ∧
  (∀ (s : State) (fn : Nat) (addr : Word64) (kind : AtomKind) (size a : Nat) (op cmp : Word64) (tagged : Bool) (i : Option Nat),
    let t := s.drainPosted
    t.hostUp = true → t.ideDrops fn tagged = false → (fn = 0 ∨ t.vfTakes fn tagged = true) → (size = 4 ∨ size = 8) → addr.toNat % size = 0 →
    t.postedOut fn = false → t.bar2To fn .write addr.toNat size = .home i a → t.barWaits i a size true = false →
    (t.secPoisoned (a / 32) = true → exec (.bar2Atomicop fn addr kind size op cmp tagged) s = .next (t.emit (.pciePoisoned fn))) ∧
    (t.secPoisoned (a / 32) = false →
    exec (.bar2Atomicop fn addr kind size op cmp tagged) s = .next (
      ((t.homeWrite i a 0 (leBytes (atomNew (match kind with
        | .fetchAdd => 0
        | .swap => 8
        | .cas => 9) size (leNat (t.homeBytes a size)) (op.toNat % 2 ^ (8 * size)) (cmp.toNat % 2 ^ (8 * size))) size)).drainEvents).emit
        (.pcieData fn (t.homeBytes a size)))))

/-- Registers of PF BAR0: a register write is one word, or two with the lower first; an access of another size, unaligned, past the
window, by another party, of a VF that takes no request, or to a read-only block changes nothing; a party without access reads 0; a field
written in its range, and a count, is what a read returns; the admin queue is enabled with its sizes, and disabled. -/
def Obligations.RegisterRules : Prop :=
  (∀ (s : State) (p : Party) (off size : Nat) (v : Word64),
    (s.running = true → s.partyUp p = true → s.partyDrops p = false → bar0Shape p off 4 = true →
      exec (.registerWrite p off 4 v) s = .next (s.writeWord p off (v.toNat % 2 ^ 32))) ∧
    (s.running = true → s.partyUp p = true → s.partyDrops p = false → bar0Shape p off 8 = true →
      exec (.registerWrite p off 8 v) s = .next ((s.writeWord p off (v.toNat % 2 ^ 32)).writeWord p (off + 4) (v.toNat / 2 ^ 32))) ∧
    (s.running = false ∨ bar0Shape p off size = false ∨ p = .other ∨ s.partyUp p = false ∨ s.partyDrops p = true → exec (.registerWrite p off size v) s = .next s) ∧
    ((off / 0x10000 = 1 ∨ off / 0x10000 = 2 ∨ off / 0x10000 = 6 ∨ off / 0x10000 = 8 ∨ off / 0x10000 = 10) →
      exec (.registerWrite .manager off 4 v) s = .next s) ∧
    (s.running = true → Machine.bar0Shape .other off size = true → s.readReg .other off size = some 0) ∧
    (∀ r, r < 16 → s.running = true → s.hbm.length = 16 →
      (∃ t, exec (.registerWrite .manager (0x30000 + 0x40 * r + 0x14) 4 v) s = .next t ∧
        t.readReg .manager (0x30000 + 0x40 * r + 0x14) 4 = some (v.toNat % 2 ^ 32)) ∧
      (∃ t, exec (.registerWrite .manager (0x30000 + 0x40 * r + 0x18) 4 v) s = .next t ∧
        t.readReg .manager (0x30000 + 0x40 * r + 0x18) 4 = some (v.toNat % 2 ^ 32)))) ∧
  (∀ (s : State) (v : Word64), s.running = true →
    (1 ≤ v.toNat → v.toNat ≤ 1000 → ∃ t, exec (.registerWrite .manager 0x40004 4 v) s = .next t ∧
      t.readReg .manager 0x40004 4 = some v.toNat) ∧
    (10 ≤ v.toNat → v.toNat ≤ 60000 → ∃ t, exec (.registerWrite .manager 0x18 4 v) s = .next t ∧
      t.readReg .manager 0x18 4 = some v.toNat) ∧
    (v.toNat < 10 → exec (.registerWrite .manager 0x18 4 v) s = .next s)) ∧
  (∀ (s : State) (cfg : Word), s.running = true →
    (s.mg.en = false → bit cfg.toNat 10 = true → 6 ≤ bits cfg.toNat 4 0 → bits cfg.toNat 4 0 ≤ 16 → 6 ≤ bits cfg.toNat 9 5 →
      bits cfg.toNat 9 5 ≤ 16 →
      let m := { s.mg with sqLog2 := BitVec.ofNat 5 (bits cfg.toNat 4 0), cqLog2 := BitVec.ofNat 5 (bits cfg.toNat 9 5)
                           vector := BitVec.ofNat 11 (cfg.toNat / 2 ^ 16), en := true }
      exec (.adminQueueEnable .manager cfg) s = .next (({ s with mg := { m with queue := m.freshQueue } } : State).drainEvents)) ∧
    (s.mg.en = true → exec (.adminQueueEnable .manager cfg) s = .next s ∧
      exec (.adminQueueDisable .manager) s = .next s.adminStop))

/-- Functions of the endpoint: configuration requests before and after the firmware is ready, with the readiness times of R313 in the
places and codes of the model's choice (log 77); the writes of MSI-X and ATS fields, and what a disabled or masked function does; VFs, bus
mastering, and the unmasking of a vector; a message that the host rejects; link training; translations kept and given back; and a
completion of the host for a thread's read or write. -/
def Obligations.HostFunctionRules : Prop :=
  (∀ (s : State) (fn off : Nat), s.host.linkUp = true → s.clocked = true →
    (s.host.ready = false → s.rs.boot ≠ .imageFailed → (off ≠ 0 ∨ Config.rrsVisible = false) →
      exec (.configRequest fn off) s = .next (s.emit (.cfgRrs fn))) ∧
    (s.host.ready = true → s.fnExists fn = false → exec (.configRequest fn off) s = .next (s.emit (.pcieUr fn))) ∧
    (s.host.ready = false → s.rs.boot = .imageFailed → 1000000000 ≤ s.time → exec (.configRequest fn off) s = .next (s.emit (.pcieUr fn))) ∧
    (s.host.ready = true → s.fnExists fn = true → exec (.configRequest fn 0) s = .next (s.emit (.cfgValue fn (Config.vendorId fn)))) ∧
    (s.host.ready = true → s.fnExists fn = true → off ≠ 0 → exec (.configRequest fn off) s =
        .next (({ s with freeSeq := s.freeSeq + 1 } : State).emit
          (.cfgValue fn (s.cfgKnown fn off (BitVec.ofNat 32 (Config.freeBits s.freeSeq)))))) ∧
    (∀ w, s.host.ready = true → s.fnExists fn = true → exec (.configRequest fn off (some w)) s = .next ((s.cfgWrite fn w).emit (.cfgWritten fn)))) ∧
  (∀ (s : State) (fn : Nat) (free : Word),
    (s.cfgKnown fn 0x100 free).extractLsb' 0 16 = BitVec.ofNat 16 ((extCapsOf fn).headD 0) ∧ (s.cfgKnown fn 4 free).getLsbD 16 = false ∧
    (s.cfgKnown 0 (capPlace 0 0x22 true + 4) free).extractLsb' 0 12 = Config.readinessCode 1000 ∧
    (s.cfgKnown 0 (capPlace 0 0x22 true + 4) free).extractLsb' 12 12 = Config.readinessCode 1000 ∧
    (s.cfgKnown 0 (capPlace 0 0x22 true + 8) free).extractLsb' 0 12 = Config.readinessCode 100 ∧
    s.cfgKnown 0 (capPlace 0 0x10 true + 12) free = 0x10001000 ∧ s.cfgKnown 0 (capPlace 0 0x10 true + 20) free = 0x00010001 ∧
    (s.cfgKnown 0 (capPlace 0 0x10 true + 8) free).getLsbD 4 = true) ∧
  (∀ (s : State) (fn v : Nat),
    ((s.fnCfg fn).msixEn = false → s.msix fn v = s) ∧
    ((s.fnCfg fn).msixEn = true → (v ∈ (s.fnCfg fn).masked ∨ (s.fnCfg fn).fnMask = true ∨ s.mute fn = true) →
      s.msix fn v = s.updFn fn (fun c => { c with pendingBits := insertNat c.pendingBits v }))) ∧
  (∀ (s : State) (rid : Nat) (reply : HostReply) (data : List Byte), s.hostUp = true → reply ≠ .ok →
    exec (.pcieCompletion rid reply data true) s = .next (s.error 0x0F 3 0x70 2)) ∧
  (∀ (s : State) (n : Nat), s.hostUp = true → n ≤ 4096 →
    (s.host.vfEn = false → exec (.vfEnable n true) s = .next { s with host := { s.host with numVfs := n, vfEn := true } }) ∧
    (exec (.vfEnable n false) s = .next { s with host := { s.host with
      fns := s.host.fns.filter (fun f => f.fn = 0), ats := [], numVfs := n, vfEn := false } })) ∧
  (∀ (s : State) (fn : Nat), s.hostUp = true → s.fnExists fn = true →
    exec (.busMasterEnable fn false) s = .next (s.updFn fn (fun c => { c with busMaster := false })) ∧
    exec (.busMasterEnable fn true) s = .next (((s.updFn fn (fun c => { c with busMaster := true })).hostResume fn).sendPending fn)) ∧
  (∀ (s : State) (fn v : Nat), s.hostUp = true → s.fnExists fn = true → v < vectorsOf fn → s.ideDrops fn true = false →
    (fn = 0 ∨ s.vfTakes fn true = true) →
    exec (.msixUnmask fn v) s = .next ((s.updFn fn (fun c => { c with masked := c.masked.erase v })).sendPending fn)) ∧
  (∀ (s : State) (w r : Nat), s.outOfCold = true → s.rs.warm = false → s.host.linkUp = false → w ∈ [4, 8, 16] → r ∈ [16, 32, 64, 128] →
    let t := ({ s with host := { s.host with linkUp := true, width := w, rate := r } } : State)
    exec (.pcieLinkUp w r) s = .next (if w = 16 ∧ r = 128 then t else t.error 0x0F 3 0x70 1)) ∧
  (∀ (s : State) (inst page at_ : Nat) (g w : Bool), s.hostUp = true → (s.inst? inst).isSome = true → (s.fnCfg (inst + 1)).ats = true →
    ∃ t u : State, t = { s with host := { s.host with
      ats := { inst := inst, page := page, at_ := at_, readable := g, writable := w } :: s.host.ats.filter (fun t => !(t.inst = inst && t.page = page)) } } ∧
    u = ((t.inst? inst).elim [] (fun i => i.queues)).foldl (fun t q => t.drainHeld (.tenant inst q.num) q.held) t ∧
    exec (.atsTranslationCompletion inst page g w at_) s =
      .next (((u.instInFlight inst).filter (fun c => c.phase = .active)).foldl (fun t c => t.cmdOn c.cid) u)) ∧
  (∀ (s : State) (vf page : Nat), s.hostUp = true → vf ≠ 0 →
    (s.hostPageBusy (vf - 1) page = true → exec (.invalidateRequest vf page) s = .next s) ∧
    (s.hostPageBusy (vf - 1) page = false → exec (.invalidateRequest vf page) s = .next (({ s with host := { s.host with
      ats := s.host.ats.filter (fun t => !(t.inst + 1 = vf && t.page = page)) } } : State).emit (.invalidateDone vf page)))) ∧
  (∀ (s : State) (rid : Nat) (x : Req) (l : LaneAcc) (data : List Byte), s.hostUp = true →
    s.reqs.find? (fun x => x.rid = rid && x.target = .host) = some x → x.lanes = [l] → x.kind = .read →
    exec (.pcieCompletion rid .ok data) s = .next { s with reqs := s.reqs.map (fun y => if y.rid = x.rid then { y with
      phase := .served (y.lanes.map (fun k => (k.lane, leNat ((data.drop (k.pa - l.pa)).take k.size)))) 0
        (setLineBytes 0 l.pa (min data.length 256) (leNat data)) } else y) } ∧
    (∀ reply, reply ≠ .ok → exec (.pcieCompletion rid reply data) s = .next (s.failReq x .addressFault))) ∧
  (∀ (s : State) (rid : Nat) (x : Req), s.hostUp = true →
    s.reqs.find? (fun x => x.rid = rid && x.target = .host) = some x → x.kind = .write →
    exec (.pcieCompletion rid .ok []) s = .next (s.endReq x))

/-- Resets of the link and of functions, and the security of the link: a hot reset returns the endpoint to its reset values, counts, and
stops the admin queue; an FLR of the PF removes the VFs; an FLR of a VF resets its whole instance. Keys make a stream Secure, an integrity
failure makes it Insecure and puts its TDIs into `ERROR`; keys need a secured session on the DOE mailbox; a TDI goes from unlocked to
locked to run, and back with a reset of its instance; SPDM answers, with the live measurements, on two paths with a session each (its
codes: log 102). -/
def Obligations.LinkResetAndSecurityRules : Prop :=
  (∀ s : State, s.host.linkUp = true → s.pins.perstN = true → s.clocked = true → ∃ u t, u = (s.countReset 14).allTdiError.hostLost ∧
      t = u.host.bar2.foldl (fun t b => t.bar2Drop b.id) u ∧
    exec .hotReset s = .next (({ t with host := { HostIf.reset with ready := t.host.ready } } : State).adminStop)) ∧
  (∀ s : State, s.hostUp = true → ∃ t, t = s.allTdiError ∧ exec .pfFlr s = .next (({ t with host := { t.host with
      fns := [], ats := [], vfEn := false, numVfs := 0 } } : State).adminStop)) ∧
  (∀ (s : State) (vf : Nat), s.hostUp = true → vf ≠ 0 → s.fnExists vf = true → s.ringLines (vf - 1) = [] →
    ∃ t, t = (if (s.inst? (vf - 1)).isSome then s.resetWhole (vf - 1) else s) ∧ exec (.vfFlr vf) s = .next { t with host := { t.host with
      fns := t.host.fns.filter (fun f => f.fn != vf), ats := t.host.ats.filter (fun a => a.inst + 1 != vf) } }) ∧
  (∀ (s : State) (n : Nat), s.hostUp = true → n < 65 → s.host.doe = .secured →
    exec (.ideKm n false) s = .next (({ s with host := { s.host with
      keys := insertNat s.host.keys n, ide := s.host.ide.set n .secure } } : State).emit (.ideReady n)) ∧
    (s.host.keys.contains n = true → exec (.ideKm n true) s = .next (s.emit (.ideReady n)))) ∧
  (∀ (s : State) (n : Nat) (f : Bool), s.host.doe ≠ .secured → exec (.ideKm n f) s = .next s) ∧
  (∀ (s : State) (n : Nat), s.host.linkUp = true → s.clocked = true → s.host.ide.getD n .insecure = .secure → ∃ t,
    t = ({ s with host := { s.host with ide := s.host.ide.set n .insecure, keys := s.host.keys.erase n } } : State).error 0x0F 3 0x70 3 ∧
    exec (.ideIntegrityFailure n) s =
      .next (((t.insts.filter (fun i => i.tdiStream = n)).map (fun i => i.id)).foldl (fun t i => t.tdiError i) t)) ∧
  (∀ (s : State) (vf n : Nat) (i : Inst), s.hostUp = true → vf ≠ 0 → s.fnExists vf = true → s.inst? (vf - 1) = some i →
    (i.tdi = .unlocked → s.lc.st = 2#3 → n < 65 →
      exec (.tdiLock vf n) s = .next ((s.updInst i.id (fun i => { i with tdi := .locked, tdiStream := n })).tdiAnswer vf)) ∧
    (s.lc.st ≠ 2#3 → exec (.tdiLock vf n) s = .next (s.tdiAnswer vf)) ∧
    (i.tdi = .locked → exec (.tdiStart vf) s = .next ((s.updInst i.id (fun i => { i with tdi := .run })).tdiAnswer vf)) ∧
    (i.tdi ≠ .locked → exec (.tdiStart vf) s = .next (s.tdiAnswer vf)) ∧
    (i.tdi ≠ .unlocked → s.ringLines i.id = [] → exec (.stopInterface vf) s =
      .next (((s.resetWhole i.id).updInst i.id (fun i => { i with tdi := .unlocked, tdiStream := 0 })).tdiAnswer vf))) ∧
  (∀ (s : State) (req : List Byte),
    let fresh := Config.freeBits s.freeSeq
    let code := (req.getD 1 0).toNat
    let accepted := Config.spdmAccepts fresh req
    (s.firmwareUp = true →
      exec (.spdmRequest 1 req) s = .next (({ s with
        freeSeq := s.freeSeq + 1, side := { s.side with spdm := s.side.spdm.next code false accepted } } : State).emit
          (.spdm 1 (s.spdmReply 1 fresh req))) ∧
      (s.side.spdm = .idle → exec (.spdmRequest 4 req) s = .next s)) ∧
    (s.hostUp = true → req.length ≤ 65536 →
      exec (.spdmRequest 0 req) s = .next (({ s with
        freeSeq := s.freeSeq + 1, host := { s.host with doe := s.host.doe.next code false accepted } } : State).emit
          (.spdm 0 (s.spdmReply 0 fresh req))) ∧
      (s.host.doe = .idle → exec (.spdmRequest 3 req) s = .next s) ∧
      exec (.spdmRequest 2 req) s = .next (s.emit (.spdm 2 (doeDiscovery (req.getD 0 0).toNat)))) ∧
    (∀ path, path ≤ 1 → (code = 0x84 → s.spdmReply path fresh req = spdmVersions) ∧
      ((req.getD 0 0 = 0x12#8 ∨ req.getD 0 0 = 0x13#8) → code ≠ 0x84 → code ≠ 0xE3 →
        s.spdmReply path fresh req = Config.spdmAnswer path fresh req s.measurements))) ∧
  (∀ (now : Spdm) (a : Bool), Spdm.idle.next 0xE4 false true = .handshake ∧ Spdm.handshake.next 0xE5 true true = .secured ∧
    Spdm.secured.next 0xEC true a = .idle ∧ now.next 0x84 false a = .idle)

/-- The sideband: a dynamic address is taken once; control requests are answered and may set the endpoint ID; sensors are read, events
handed over, resets requested, images staged and activated, an activation while an admin command runs being kept for later (log 104). The
TAP loads `BYPASS` in place of `DEBUG` in `DEPLOYED`, and of the boundary-scan instructions while no pin holds the module. In `DEPLOYED`
the console's output idles high and its input is ignored. -/
def Obligations.SidebandRules : Prop :=
  (∀ (s : State) (b : Option (BitVec 7)) (a : BitVec 7),
    (s.outOfCold = false → exec (.entdaa b a) s = .next (s.emit .i3cNack)) ∧
    (∀ k, b = some k → s.outOfCold = true → k.toNat ≠ 0x50 + s.pins.straps.toNat → exec (.entdaa b a) s = .next s) ∧
    (s.outOfCold = true → s.side.dynAddr = none → (∀ k, b = some k → k.toNat = 0x50 + s.pins.straps.toNat) → exec (.entdaa b a) s =
      .next (({ s with side := { s.side with dynAddr := some a } } : State).emit (.i3cAddress a.toNat))) ∧
    (s.outOfCold = true → s.side.dynAddr.isSome = true → exec (.entdaa b a) s = .next s)) ∧
  (∀ (s : State) (req : List Byte), s.outOfCold = true →
    (∀ e, eidOf req = some e → exec (.mctpControl req) s =
      .next (({ s with side := { s.side with eid := e } } : State).emit (.mctp (Config.mctpAnswer e req)))) ∧
    (eidOf req = none → req.getD 1 0 ≠ 5#8 → exec (.mctpControl req) s = .next (s.emit (.mctp (Config.mctpAnswer s.side.eid req)))) ∧
    (req.getD 1 0 = 5#8 → s.rs.boot ≠ .imageFailed → exec (.mctpControl req) s =
      .next (s.emit (.mctp ([req.getD 0 0 &&& 0x7F#8, 5, 0, 4] ++ [0, 1, 5, 6]))))) ∧
  (∀ (s : State) (k : Nat), s.pldmUp = true →
    exec (.pldmGetSensor 1) s = .next (s.emit (.pldmSensor 1 s.tl.pIn.toNat)) ∧
    exec (.pldmGetSensor 2) s = .next (s.emit (.pldmSensor 2 s.pw.cap)) ∧
    (k < 16 → exec (.pldmGetSensor (11 + k)) s = .next (s.emit (.pldmSensor (11 + k) (s.stack k).tempC.toNat))) ∧
    exec .pldmEventFetch s = .next (({ s with events := { s.events with side := [] }
                                              pins := { s.pins with sbAlertN := true } } : State).emit (.pldmEvents s.events.side)) ∧
    exec (.pldmSetEffecter 2) s = .next (s.storeGvar.enterCold 3 false) ∧
    (s.rs.warm = false → exec (.pldmSetEffecter 3) s = .next (((s.countReset 7).storeGvar).enterWarm 7))) ∧
  (∀ (s : State) (image : List Byte), s.updateUp = true →
    exec (.requestUpdate image) s =
      .next ((s.stageImage image image.length).1.emit (.pldmStatus (s.stageImage image image.length).2.code)) ∧
    (s.inFlight .admin ≠ [] → exec .activateFirmware s = .next { s with side := { s.side with activating := true } }) ∧
    (s.inFlight .admin = [] → ∃ t, t = ({ s with side := { s.side with activating := false } } : State) ∧
      (s.lc.heldType = 0#2 → exec .activateFirmware s = .next (t.emit (.pldmStatus Status.invalidParam.code))) ∧
      (s.lc.heldType ≠ 0#2 → s.rs.boot ≠ .imageFailed → s.configBusy = false → exec .activateFirmware s =
        .next (t.activateImage.1.drainEvents.emit (.pldmStatus (if t.activateImage.2 then 0 else Status.invalidParam.code)))))) ∧
  (∀ s : State, s.pins.v3p3sb = true →
    exec (.tapInstruction .idcode) s = .next (({ s with side := { s.side with tap := .idcode } } : State).emit (.tapData 0x17C09E4B)) ∧
    exec (.tapInstruction .bypass) s = .next { s with side := { s.side with tap := .bypass } } ∧
    (s.lc.st = 2#3 → exec (.tapInstruction .debug) s = .next { s with side := { s.side with tap := .bypass } }) ∧
    (s.rs.boot ≠ .cold → exec (.tapInstruction .extest) s = .next { s with side := { s.side with tap := .bypass } }) ∧
    (s.rs.boot = .cold → s.pins.perstN = false → exec (.tapInstruction .extest) s = .next { s with side := { s.side with tap := .extest } }) ∧
    exec .tapReset s = .next { s with side := { s.side with tap := .idcode } }) ∧
  (∀ (s : State) (b : Byte), (s.lc.st = 2#3 → s.dbgTx = true ∧ s.uartReceive b = s) ∧
    (s.firmwareUp = true → s.lc.st ≠ 2#3 → s.uartReceive b = { s with side := { s.side with console := s.side.console ++ [b] } }))

/-! ## Reset, power and temperature -/

/-- Power-up and the resets of the whole module: POR counts and takes everything that `MODULE_COLD` reaches; the supplies and their
release; a cold boot with the options loaded; the active image, or the other, starts, or neither; the firmware becomes ready. `PERST#`,
`MOD_RST_N`, the package controller's watchdog and a lost PLL assert `MODULE_COLD` under their own counters; `MODULE_WARM` is entered and
released. -/
def Obligations.ModuleResetRules : Prop :=
  (∀ (s : State) (src : PorSource), s.rs.boot ≠ .por → ∃ t, exec (.por src) s = .next t ∧ t.rs.boot = .por ∧ t.pw.tripped = false ∧
    t.clk.pllLocked = false ∧ t.rs.counts = updAt s.rs.counts 0 (fun c => satInc c 1) ∧ t.mem = [] ∧ t.back = [] ∧ t.insts = [] ∧
    t.hostMem = s.hostMem ∧ t.fuse = s.fuse ∧ t.flash = s.flash ∧ t.pins.modPwrgd = false ∧ t.pending = s.pending) ∧
  (∀ (s : State) (sb v48 v : Bool), s.rs.boot = .por → exec (.powerUp sb v v48) s = .next { s with
      pins := { s.pins with v48 := s.pins.v48 || v48, v3p3sb := s.pins.v3p3sb || sb, vbat := v }
      rs := if sb = true ∧ s.pins.v3p3sb = false ∧ v = false then { s.rs with counts := List.replicate 16 0, vbatLost := true } else s.rs }) ∧
  (∀ (s : State) (strap : BitVec 2), s.rs.boot = .por → s.pins.v48 = true → s.pins.v3p3sb = true → exec (.porRelease strap) s =
    .next { s with rs := { s.rs with boot := .cold }, pins := { s.pins with modPwrgd := true, straps := strap } }) ∧
  (∀ s : State, s.rs.boot = .cold → s.pw.tripped = false → (s.clk.restarts = 0 ∨ s.clk.pllLocked = true) →
    let det : Bool := s.flash.loaded.pdetDefault = 1 && s.flash.loaded.capDefault = 4000
    let t : State := ({ s with
      time := 0, opt := s.flash.loaded
      clk := { pllLocked := true, stopped := false, restarts := 0, dies := List.replicate 8 { phase := 0, pos := 0, cycles := 0 } }
      pins := { s.pins with perstN := true, modRstN := true }
      rs := { s.rs with boot := .loaded, optDefaulted := !s.flash.optDigestOk || s.flash.optFormat != 1 }
      lc := { s.lc with st := fusedState s.fuse.lcFuse, optDigest := s.flash.optDigest }
      pw := { s.pw with cap := s.flash.loaded.capDefault.toNat, capHist := [(0, 65535)], pdet := det, gvar := s.flash.bootGvar } } : State).gateTap
    exec .coldBoot s = .next (if s.flash.loaded.pdetDefault = 1 ∧ det = false then t.error 0x11 3 0x71 2 else t)) ∧
  (∀ s : State, s.rs.boot = .loaded → s.outOfCold = true →
    let other := if s.flash.active then s.flash.slotA else s.flash.slotB
    (s.slotPasses s.flash.activeImage = true → exec .imageVerified s = .next (s.startFirmware false)) ∧
    (s.slotPasses s.flash.activeImage = false → s.slotPasses other = true → exec .imageVerified s =
      .next (({ s with flash := { s.flash with active := !s.flash.active } } : State).startFirmware true)) ∧
    (s.slotPasses s.flash.activeImage = false → s.slotPasses other = false → exec .imageVerified s =
      .next { s with rs := { s.rs with boot := .imageFailed, dieHeld := 0xFF } })) ∧
  (∀ s : State, s.rs.boot = .starting → s.outOfCold = true → s.rs.warm = false → exec .firmwareReady s =
    .next { s with rs := { s.rs with boot := .ready }, host := { s.host with ready := true } }) ∧
  (∀ (s : State) (ns : Nat) (b : Bool), s.pins.v3p3sb = true → lowCounts ns b = true →
    exec (.perstNAssert ns b) s = .next ((({ s with pins := { s.pins with perstN := false } } : State).storeGvar).enterCold 1 false) ∧
    exec (.modRstNAssert ns b) s = .next ((({ s with pins := { s.pins with modRstN := false } } : State).storeGvar).enterCold 2 false)) ∧
  (∀ s : State, s.firmwareUp = true → exec .packageControllerWatchdog s = .next (s.enterCold 4 false)) ∧
  (∀ s : State, s.clk.pllLocked = true → exec .pllLockLoss s =
    .next (({ s with clk := { s.clk with pllLocked := false, stopped := true, restarts := 1 } } : State).enterCold 4 true)) ∧
  (∀ s : State, s.clk.pllLocked = false → s.clk.restarts ≠ 0 →
    exec (.pllRestartRetry true) s = .next { s with clk := { s.clk with pllLocked := true } } ∧
    exec (.pllRestartRetry false) s = .next { s with clk := { s.clk with restarts := s.clk.restarts + 1 } }) ∧
  (∀ s : State, s.running = true → exec (.moduleWarm .register) s = .next (((s.countReset 6).storeGvar).enterWarm 6)) ∧
  (∀ s : State, s.rs.warm = true → s.outOfCold = true → ∃ t : State,
    t = { s with rs := { s.rs with warm := false, regionHeld := 0, dieHeld := s.rs.wdHeld } } ∧
    exec .moduleWarmRelease s =
      .next ((t.startPorts ((List.range 16).filter (fun p => !t.rs.dieHeld.getLsbD (dieOfPort p)))).startExit .module)) ∧
  (∀ (s : State) (c : Nat) (pll : Bool), s.rs.boot ≠ .por → s.rs.boot ≠ .cold → ∃ t, t = s.enterCold c pll ∧
    t.rs.boot = .cold ∧ t.rs.last = BitVec.ofNat 4 c ∧ t.rs.pllRelock = pll ∧ t.mem = [] ∧ t.back = [] ∧ t.insts = [] ∧ t.cmds = [] ∧
    t.rs.ready = 0 ∧ t.rs.counts = updAt s.rs.counts c (fun n => satInc n 1) ∧ t.hostMem = s.hostMem ∧ t.fuse = s.fuse) ∧
  (∀ (s : State) (c : Nat), ∃ t : State, s.enterWarm c = t.runFences ∧
    t.mem = [] ∧ t.back = [] ∧ t.insts = [] ∧ t.cmds = [] ∧ t.rs.ready = 0 ∧ t.rs.warm = true ∧ t.fx.routes = s.fx.routes ∧
    t.fx.pkgId = s.fx.pkgId ∧ t.pw.cap = s.pw.cap ∧ t.time = s.time ∧ t.tl.energyIn = s.tl.energyIn ∧ t.lc = s.lc)

/-- Resets of a die and of a region: counted, the Blankets closed, the register bit set; a release opens what nothing else holds; the exit
sequence ends once every stack of it is trained, and the ready bits are set. The command-processor watchdog holds a die for 1 ms, with a
record where the processor's memory failed. The mask of a list of regions has exactly their bits. -/
def Obligations.DieAndRegionResetRules : Prop :=
  (∀ (s : State) (d : Nat), s.running = true → d < 8 → s.rs.holdDie.getLsbD d = false → ∃ t,
    t = (if s.rs.dieHeld.getLsbD d then s.countReset 8 else (s.countReset 8).dieEnter d) ∧
    exec (.dieResetAssert .manager d) s = .next { t with rs := { t.rs with holdDie := t.rs.holdDie ||| (1 <<< d) } }) ∧
  (∀ (s : State) (d : Nat), s.running = true → s.rs.holdDie.getLsbD d = true → ∃ t : State,
    t = { s with rs := { s.rs with holdDie := s.rs.holdDie &&& ~~~(1 <<< d : BitVec 8) } } ∧
    exec (.dieResetRelease .manager d) s = .next (if s.rs.wdHeld.getLsbD d then t else t.dieExit d)) ∧
  (∀ (s : State) (r : Nat), s.running = true → r < 16 → s.rs.holdRegion.getLsbD r = false → ∃ t,
    t = (if s.regionHold r then s.countReset 10 else ((s.countReset 10).closeRegions [r]).abandonExits [.region r]) ∧
    exec (.regionResetAssert .manager r) s = .next { t with rs := { t.rs with
      holdRegion := t.rs.holdRegion ||| (1 <<< r), regionHeld := t.rs.regionHeld ||| (1 <<< r) } }) ∧
  (∀ (s : State) (r : Nat), s.running = true → s.rs.holdRegion.getLsbD r = true → ∃ t : State,
    t = { s with rs := { s.rs with holdRegion := s.rs.holdRegion &&& ~~~(1 <<< r : BitVec 16)
                                   regionHeld := s.rs.regionHeld &&& ~~~(1 <<< r : BitVec 16) } } ∧
    exec (.regionResetRelease .manager r) s = .next (if t.regionHold r then t else (t.openRegions [r]).startExit (.region r))) ∧
  (∀ (s : State) (u : ResetUnit), s.outOfCold = true → s.rs.warm = false → s.rs.exiting.any (fun e => e.1 = u) = true →
    ((s.exitRegions u).all (fun r => (s.stack r).trained) = true → ∃ t, t = s.abandonExits [u] ∧
      exec (.resetExitComplete u) s = .next { t with rs := { t.rs with ready := t.rs.ready ||| maskOf 16 (s.exitRegions u) } }) ∧
    ((s.exitRegions u).all (fun r => (s.stack r).trained) = false → exec (.resetExitComplete u) s = .next s)) ∧
  (∀ (s : State) (d : Nat), s.firmwareUp = true → d < 8 → s.rs.dieHeld.getLsbD d = false → ∃ t, t = (s.countReset 9).dieEnter d ∧
    exec (.commandProcessorWatchdog d) s = .next { t with rs := { t.rs with
      wdHeld := t.rs.wdHeld ||| (1 <<< d), wdSince := t.rs.wdSince.set d t.time } }) ∧
  (∀ (s : State) (d : Nat), s.firmwareUp = true → d < 8 → s.rs.dieHeld.getLsbD d = false →
    ∃ t, t = ((s.error 0x0D 2 (0x50 + d) 0).countReset 9).dieEnter d ∧
    exec (.commandProcessorWatchdog d true) s = .next { t with rs := { t.rs with
      wdHeld := t.rs.wdHeld ||| (1 <<< d), wdSince := t.rs.wdSince.set d t.time } }) ∧
  (∀ (s : State) (d : Nat), s.firmwareUp = true → s.rs.wdHeld.getLsbD d = true → s.rs.wdSince.getD d 0 + 1000000 ≤ s.time → ∃ t : State,
    t = { s with rs := { s.rs with wdHeld := s.rs.wdHeld &&& ~~~(1 <<< d : BitVec 8) } } ∧
    exec (.commandProcessorWatchdogRelease d) s = .next (if s.rs.holdDie.getLsbD d then t else t.dieExit d)) ∧
  (∀ (l : List Nat) (r : Nat), (maskOf 16 l).getLsbD r = (decide (r < 16) && l.contains r))

/-- The control loop, alerts and thermal limits: each period meters, applies a new cap and sets the clock, slowing down at once and
speeding up by at most 4 steps, the frequency first where it falls and the voltage first where it rises; the setting is the fastest that
fits the budget; the input power that is metered stays within 110 % of the highest effective cap that was in force in the period or the 1
ms before, and over 1 ms within the highest of the last 2 ms (the model's form of the bound, log 79); an alert forces P7 at once and is
held for 1 ms after its last source; a reading above the limits forces the limit, P7 or a trip; the limit is raised by 1 % of the cap
until it no longer binds. At a G_var of 40 mV a die's voltage at a P-state is at most that of the table (log 101). -/
def Obligations.PowerRules : Prop :=
  (∀ (s : State) (pIn pFixed div skip uj : Nat) (mj : List Nat), s.firmwareUp = true → s.pw.newCap = none → s.pw.pdet = false →
    s.pw.limit = none → s.pw.forced = false → s.alertHeld = false → ∃ t n, t = s.meter (s.drawn pIn pFixed) pFixed uj mj ∧
    n = t.needLevel (s.drawn pIn pFixed) pFixed div skip ∧
    (n ≤ s.preqLevel → exec (.controlPeriod pIn pFixed div skip uj mj) s = .next (
      let u := t.endP7.govern (nextLevel s.level s.preqLevel)
      ({ u with pw := { u.pw with limCap := false, limTherm := false, limAlert := u.alertHeld } } : State).noteCapped.activateHeld)) ∧
    (s.preqLevel < n → exec (.controlPeriod pIn pFixed div skip uj mj) s = .next (
      let u := t.endP7.govern (nextLevel s.level n)
      ({ u with pw := { u.pw with limCap := true, limTherm := false, limAlert := u.alertHeld } } : State).noteCapped.activateHeld))) ∧
  (∀ (s : State) (pIn pFixed div skip uj cid w : Nat) (det : Bool) (mj : List Nat), s.firmwareUp = true → s.pw.newCap = some (w, det, cid) →
    ∃ t : State, exec (.controlPeriod pIn pFixed div skip uj mj) s = .next t.activateHeld ∧ t.pw.cap = w ∧ t.pw.pdet = det ∧ t.pw.newCap = none) ∧
  (∀ (s : State) (n : Nat),
    (s.level ≤ n → s.govern n = s.setLevel n) ∧
    (n < s.level → s.govern n = if s.slewNs n = 0 then s.setLevel n
      else { s with pw := { s.pw with vdiv := min n 192, rise := some (n, s.time + s.slewNs n) } }) ∧
    (s.alertHeld = true → s.level ≤ s.periodLevel n ∧ 192 ≤ s.periodLevel n)) ∧
  (∀ (s : State) (pIn pFixed : Nat), s.drawn pIn pFixed ≤ pIn ∧ s.drawn pIn pFixed ≤ carveOut pFixed + computeMw s.level / 1000 ∧
    s.drawn pIn pFixed ≤ s.capWithin 1100000 * 110 / 100 ∧
    (s.lastMs.sum ≤ (s.lastMs.length + 1) * s.capWithin 2000000 →
      s.drawn pIn pFixed + s.lastMs.sum ≤ (s.lastMs.length + 1) * s.capWithin 2000000)) ∧
  (∀ (s : State) (win : Nat), s.effCap ≤ s.capWithin win ∧ (∀ p ∈ s.pw.capHist, s.time < p.1 + win → p.2 ≤ s.capWithin win) ∧
    (s.capWithin win = s.effCap ∨ ∃ p ∈ s.pw.capHist, s.time < p.1 + win ∧ p.2 = s.capWithin win)) ∧
  (∀ cur c budget : Nat, 64 ≤ cur → cur ≤ 255 →
    (c * computeMw (fitLevel cur c budget) ≤ budget * computeMw cur ∨ fitLevel cur c budget = 255) ∧
    (c ≤ budget → fitLevel cur c budget ≤ cur) ∧ 64 ≤ fitLevel cur c budget ∧ fitLevel cur c budget ≤ 255) ∧
  (∀ cur want : Nat, nextLevel cur want = (if cur ≤ want then want else max want (cur - 4))) ∧
  (∀ (s : State) (d p : Nat), p < 8 → s.pw.gvar.getD d 0 = 40 → s.dieMv d p ≤ [860, 835, 810, 790, 770, 720, 660, 600].getD p 0) ∧
  (∀ (s : State) (src : AlertSource) (ns : Nat), s.outOfCold = true → s.pw.alerts.contains src = false →
    (src = .pin → 200 ≤ ns) → ∃ t : State,
    t = { s with pins := { s.pins with pwrAlertN := if src = AlertSource.pin then false else s.pins.pwrAlertN }
                 pw := { s.pw with
                   alerts := src :: s.pw.alerts, alertCount := satInc s.pw.alertCount 1, limAlert := true, div := 192, vdiv := 192, rise := none } } ∧
    exec (.pwrAlertN src ns) s = .next ((t.noteCapped).event 0x06 (alertDetail src t.pw.alertCount.toNat))) ∧
  (∀ (s : State) (src : AlertSource), s.clocked = true → s.pw.alerts = [src] → exec (.powerAlertEnd src) s = .next { s with
    pins := { s.pins with pwrAlertN := if src = AlertSource.pin then true else s.pins.pwrAlertN }
    pw := { s.pw with alerts := [], holdUntil := some (s.time + 1000000) } }) ∧
  (∀ (s : State) (t : Nat), s.clocked = true → s.pw.holdUntil = some t → s.pw.alerts = [] →
    (t ≤ s.time → exec .powerAlertHoldEnd s = .next { s with pw := { s.pw with holdUntil := none, limAlert := false } }) ∧
    (s.time < t → exec .powerAlertHoldEnd s = .next s)) ∧
  (∀ (s : State) (rs : List (Nat × Nat)), s.firmwareUp = true → s.pw.overTherm = false → s.pw.forced = false → ∃ t : State,
    t = { s with tl := { s.tl with cj := (List.range 8).map (fun d => BitVec.ofNat 8 (rs.getD d (0, 0)).1)
                                   bj := (List.range 8).map (fun d => BitVec.ofNat 8 (rs.getD d (0, 0)).2) } } ∧
    (hottest rs ≤ 100 → exec (.thermalSample rs) s = .next t) ∧
    (100 < hottest rs → hottest rs ≤ 105 → ∃ u, exec (.thermalSample rs) s = .next u ∧ u.pw.overTherm = true ∧ u.pw.forced = false ∧
      u.pw.limit = some ((s.tl.hist.headD (0, 0, 0)).2.1 * 98 / 100))) ∧
  (∀ (s : State) (rs : List (Nat × Nat)), s.outOfCold = true → s.firmwareUp = false →
    exec (.thermalSample rs) s = .next (if 118 < hottest rs then s.thermTrip else s)) ∧
  (∀ (s : State) (l : Nat), s.pw.limit = some l → s.pw.overTherm = false → s.firmwareUp = true → exec .thermalLimitRaise s = .next (({ s with
    pw := { s.pw with limit := if s.pw.cap ≤ l + s.pw.cap / 100 then none else some (l + s.pw.cap / 100) } } : State).capChanged s.effCap))

/-- Guardband and energy: a margin that falls short raises G_var by the shortfall and 5 mV, at most to 60 mV; above 40 mV it posts a
record; a day with margin to spare lowers it by 1 mV, never below 10 mV; it is stored while the firmware runs. The energy of a period is
charged to the instances, saturating, and what is left is unattributed; an instance without events is charged nothing, and by the
partition counters no more is charged than the partitions drew, and than the metered energy leaves. The events that have been charged are
counted anew. -/
def Obligations.GuardbandAndEnergyRules : Prop :=
  (∀ (s : State) (d w : Nat) (mv : Int), s.firmwareUp = true → d < 8 → s.rs.dieHeld.getLsbD d = false →
    (5 ≤ mv → exec (.marginMeasure d mv w) s = .next s) ∧
    (0 ≤ mv → mv < 5 → exec (.marginMeasure d mv w) s =
      .next { s with pw := { s.pw with gvarSpare := s.pw.gvarSpare.set d s.time } }) ∧
    (mv < 0 → s.pw.gvar.getD d 0 + mv.natAbs + 5 ≤ 40 → exec (.marginMeasure d mv w) s = .next { s with pw := { s.pw with
      gvarSpare := s.pw.gvarSpare.set d s.time, gvar := s.pw.gvar.set d (s.pw.gvar.getD d 0 + mv.natAbs + 5) } }) ∧
    (mv < 0 → 35 < s.pw.gvar.getD d 0 + mv.natAbs → s.pw.gvar.getD d 0 + mv.natAbs ≤ 60 → exec (.marginMeasure d mv w) s = .next (
      let new := min 60 (s.pw.gvar.getD d 0 + mv.natAbs + 5)
      ({ s with pw := { s.pw with gvarSpare := s.pw.gvarSpare.set d s.time, gvar := s.pw.gvar.set d new } } : State).error 0x12 3 (0x50 + d)
        new)) ∧
    (60 < s.pw.gvar.getD d 0 + mv.natAbs → mv < 0 → dieOfCore w = d → exec (.marginMeasure d mv w) s = .next (
      (({ s with pw := { s.pw with gvarSpare := s.pw.gvarSpare.set d s.time, gvar := s.pw.gvar.set d 60 } } : State).error 0x12 3 (0x50 + d)
        60).fenceCore w 4))) ∧
  (∀ (s : State) (d : Nat), s.firmwareUp = true → d < 8 → s.pw.gvarSpare.getD d 0 + 86400000000000 ≤ s.time →
    (10 < s.pw.gvar.getD d 0 → exec (.gvarTrim d) s = .next { s with pw := { s.pw with
      gvar := s.pw.gvar.set d (s.pw.gvar.getD d 0 - 1), gvarSpare := s.pw.gvarSpare.set d s.time } }) ∧
    (s.pw.gvar.getD d 0 ≤ 10 → exec (.gvarTrim d) s = .next s)) ∧
  (∀ s : State, s.firmwareUp = true → exec .gvarStore s = .next { s with flash := { s.flash with gvar := some s.pw.gvar } }) ∧
  (∀ (s : State) (nj : List Nat) (first : Nat), s.firmwareUp = true → ∃ t, exec (.energyAttribution nj first) s = .next t ∧
    t.insts = s.insts.map (fun i => i.charge (s.chargeOf (List.replicate first 0 ++ nj) i.id)) ∧
    t.tl.charged = s.tl.charged + (s.insts.map (fun i => s.chargeOf (List.replicate first 0 ++ nj) i.id)).sum ∧ t.tl.counts = [] ∧
    t.tl.energyIn = s.tl.energyIn ∧ t.tl.unattrib = BitVec.ofNat 64 (t.tl.energyIn.toNat - t.tl.charged / 1000000) ∧ t.mem = s.mem ∧ t.pw = s.pw) ∧
  (∀ (s : State) (nj : List Nat) (i : Nat), (∀ c ∈ s.tl.counts, c.owner ≠ i + 1) → s.chargeOf nj i = 0) ∧
  (∀ (nj : List Nat) (counts : List Count) (ids : List Nat), ids.Nodup → (ids.map (partitionCharge nj counts)).sum ≤ nj.sum) ∧
  (∀ (left : Nat) (nj : List Nat), (njWithin left nj).sum ≤ left) ∧
  (∀ (i : Inst) (n : Nat), i.energyMj.toNat + (i.energyNj + n) / 1000000 < 2 ^ 64 → (i.charge n).energyNj < 1000000 ∧
    1000000 * (i.charge n).energyMj.toNat + (i.charge n).energyNj = 1000000 * i.energyMj.toNat + i.energyNj + n)

end
end

