-- ==== Sys2Proof/Laws/Memory.lean ====
section
/-! SUPPORT. The basic laws of sparse memories, register files and lists: what a read after a write gives, and that every operation keeps the
canonical form. -/
namespace Sys2Proof.Machine

/-! ## The canonical form -/

/-- The tail of a canonical memory is canonical. -/
theorem spWf_tail {w : Nat} {c : Nat × BitVec w} {m : List (Nat × BitVec w)} (h : spWf (c :: m) = true) : spWf m = true := by
  cases m with
  | nil => rfl
  | cons d m => simp [spWf] at h; exact h.2

/-- A canonical memory is a first entry that is not 0 and lies below every other, and a canonical rest. -/
theorem spWf_cons {w : Nat} {k : Nat} {v : BitVec w} {m : List (Nat × BitVec w)} :
    spWf ((k, v) :: m) = true ↔ v ≠ 0 ∧ (∀ c ∈ m, k < c.1) ∧ spWf m = true := by
  induction m generalizing k v with
  | nil => simp [spWf]
  | cons d m ih =>
    obtain ⟨k', v'⟩ := d
    constructor
    · intro h
      simp only [spWf, Bool.and_eq_true, decide_eq_true_eq] at h
      refine ⟨h.1.1, ?_, h.2⟩
      intro c hc
      rcases List.mem_cons.mp hc with rfl | hc
      · exact h.1.2
      · exact Nat.lt_trans h.1.2 ((ih.mp h.2).2.1 c hc)
    · rintro ⟨h1, h2, h3⟩
      simp only [spWf, Bool.and_eq_true, decide_eq_true_eq]
      exact ⟨⟨h1, h2 _ (List.mem_cons_self ..)⟩, h3⟩

/-- Every address that a write lists was listed before, or is the one written. -/
theorem mem_spSet {w : Nat} {m : List (Nat × BitVec w)} {a : Nat} {b : BitVec w} {c : Nat × BitVec w} (h : c ∈ spSet m a b) :
    c ∈ m ∨ c.1 = a := by
  induction m with
  | nil => simp only [spSet] at h; split at h <;> simp_all
  | cons d m ih =>
    obtain ⟨k, v⟩ := d
    simp only [spSet] at h
    split at h
    · split at h <;> simp_all
      rcases h with rfl | h | h <;> simp_all
    · split at h
      · split at h <;> simp_all
        rcases h with rfl | h <;> simp_all
      · rcases List.mem_cons.mp h with rfl | h
        · exact .inl (List.mem_cons_self ..)
        · rcases ih h with h | h <;> simp_all

/-- A write keeps the canonical form. -/
theorem spSet_wf {w : Nat} {m : List (Nat × BitVec w)} (a : Nat) (b : BitVec w) (h : spWf m = true) : spWf (spSet m a b) = true := by
  induction m with
  | nil => simp only [spSet]; split <;> simp_all [spWf]
  | cons d m ih =>
    obtain ⟨k, v⟩ := d
    have hc := spWf_cons.mp h
    simp only [spSet]
    split
    · split
      · exact h
      · rename_i hk hb
        refine spWf_cons.mpr ⟨hb, ?_, h⟩
        intro c hm
        rcases List.mem_cons.mp hm with rfl | hm
        · exact hk
        · exact Nat.lt_trans hk (hc.2.1 c hm)
    · split
      · split
        · exact hc.2.2
        · rename_i hk hb
          subst hk
          exact spWf_cons.mpr ⟨hb, hc.2.1, hc.2.2⟩
      · refine spWf_cons.mpr ⟨hc.1, ?_, ih hc.2.2⟩
        intro c hm
        rcases mem_spSet hm with hm | hm
        · exact hc.2.1 c hm
        · omega

/-- A write of bytes keeps the canonical form. -/
theorem writeBytes_wf (bs : List Byte) : ∀ {m : Memory} (a : Nat), m.wf = true → (writeBytes m a bs).wf = true := by
  induction bs with
  | nil => intro m a h; exact h
  | cons b bs ih => intro m a h; exact ih (a + 1) (spSet_wf a b h)

/-- A wipe keeps the canonical form. -/
theorem spWipe_wf {w : Nat} (p : Nat → Bool) {m : List (Nat × BitVec w)} (h : spWf m = true) : spWf (spWipe p m) = true := by
  induction m with
  | nil => rfl
  | cons d m ih =>
    obtain ⟨k, v⟩ := d
    have hc := spWf_cons.mp h
    simp only [spWipe, List.filter_cons]
    split
    · refine spWf_cons.mpr ⟨hc.1, ?_, ih hc.2.2⟩
      intro c hm
      exact hc.2.1 c (List.mem_of_mem_filter hm)
    · exact ih hc.2.2

/-- An empty memory is canonical. -/
@[simp] theorem Memory.wf_nil : Memory.wf [] = true := rfl

/-! ## Reads -/

/-- An address below every listed one reads 0. -/
theorem spGet_below {w : Nat} {m : List (Nat × BitVec w)} {a : Nat} (h : ∀ c ∈ m, a < c.1) : spGet m a = 0 := by
  induction m with
  | nil => rfl
  | cons d m ih =>
    obtain ⟨k, v⟩ := d
    have hk : a ≠ k := Nat.ne_of_lt (h (k, v) (List.mem_cons_self ..))
    simp only [spGet, hk, if_false]
    exact ih (fun c hc => h c (List.mem_cons_of_mem _ hc))

/-- What is written is read back in a canonical memory. -/
theorem spGet_spSet_same {w : Nat} {m : List (Nat × BitVec w)} (a : Nat) (b : BitVec w) (h : spWf m = true) : spGet (spSet m a b) a = b := by
  induction m with
  | nil => simp only [spSet]; split <;> simp_all [spGet]
  | cons d m ih =>
    obtain ⟨k, v⟩ := d
    have hc := spWf_cons.mp h
    simp only [spSet]
    split
    · rename_i hk
      split
      · rename_i hb
        rw [hb]
        refine spGet_below (fun c hm => ?_)
        rcases List.mem_cons.mp hm with rfl | hm
        · exact hk
        · exact Nat.lt_trans hk (hc.2.1 c hm)
      · simp [spGet]
    · split
      · rename_i hk
        subst hk
        split
        · rename_i hb
          rw [hb]
          exact spGet_below hc.2.1
        · simp [spGet]
      · rename_i hk
        simp only [spGet, hk, if_false]
        exact ih hc.2.2

/-- A write leaves every other address as it was. -/
theorem spGet_spSet_other {w : Nat} (m : List (Nat × BitVec w)) (a : Nat) (b : BitVec w) {c : Nat} (hne : c ≠ a) :
    spGet (spSet m a b) c = spGet m c := by
  induction m with
  | nil => simp only [spSet]; split <;> simp_all [spGet]
  | cons d m ih =>
    obtain ⟨k, v⟩ := d
    simp only [spSet]
    split
    · split <;> simp_all [spGet]
    · split
      · rename_i hk
        subst hk
        split <;> simp [spGet, hne]
      · simp only [spGet, ih]

/-- A wiped address reads 0, and every other reads as before. -/
theorem spGet_spWipe {w : Nat} (p : Nat → Bool) (m : List (Nat × BitVec w)) (a : Nat) :
    spGet (spWipe p m) a = if p a = true then 0 else spGet m a := by
  induction m with
  | nil => simp [spWipe, spGet]
  | cons d m ih =>
    obtain ⟨k, v⟩ := d
    simp only [spWipe, List.filter_cons] at ih ⊢
    by_cases hk : a = k
    · subst hk
      by_cases hp : p a = true
      · simp [hp] at ih ⊢; exact ih
      · simp [hp, spGet]
    · by_cases hp : p k = true <;> simp [hp, spGet, hk, ih]

/-- A register file that lists nothing reads 0. -/
@[simp] theorem spGet_nil {w : Nat} (a : Nat) : spGet ([] : List (Nat × BitVec w)) a = 0 := rfl

/-! ## Bytes -/

/-- A read has the length asked for. -/
@[simp] theorem readBytes_length (m : Memory) (a n : Nat) : (readBytes m a n).length = n := by
  induction n generalizing a with
  | zero => rfl
  | succ n ih => simp [readBytes, ih]

/-- The bytes of a number have the length asked for. -/
@[simp] theorem leBytes_length (n k : Nat) : (leBytes n k).length = k := by
  induction k generalizing n with
  | zero => rfl
  | succ k ih => simp [leBytes, ih]

/-- Bytes of a number give the number back, modulo its width. -/
theorem leNat_leBytes (k : Nat) : ∀ n, leNat (leBytes n k) = n % 256 ^ k := by
  induction k with
  | zero => intro n; simp [leBytes, leNat, Nat.mod_one]
  | succ k ih =>
    intro n
    simp only [leBytes, leNat, ih, BitVec.toNat_ofNat]
    rw [Nat.pow_succ' (m := 256), Nat.mod_mul]

/-! ## Lists -/

/-- An entry changed leaves the length. -/
@[simp] theorem updAt_length {α : Type} (l : List α) (i : Nat) (f : α → α) : (updAt l i f).length = l.length := by
  induction l generalizing i with
  | nil => cases i <;> rfl
  | cons x xs ih => cases i <;> simp [updAt, ih]

/-- The entry changed, and the others. -/
theorem updAt_getElem? {α : Type} (l : List α) (i j : Nat) (f : α → α) :
    (updAt l i f)[j]? = if j = i then l[j]?.map f else l[j]? := by
  induction l generalizing i j with
  | nil => cases i <;> simp [updAt]
  | cons x xs ih => cases i <;> cases j <;> simp [updAt, ih]

/-- Changing entries where they satisfy a predicate leaves the length. -/
@[simp] theorem updWhere_length {α : Type} (p : α → Bool) (f : α → α) (l : List α) : (updWhere p f l).length = l.length := by
  simp [updWhere]

end Sys2Proof.Machine
end

