-- ==== Sys2Proof/Laws/State.lean ====
section
/-! SUPPORT. What each update of the state changes and what it leaves, one equation per field, so that no proof unfolds an update. -/
namespace Sys2Proof.Machine

/-- `updCore` changes only `cores`. -/
@[simp] theorem State.updCore_fields (s : State) (n : Nat) (f : Core → Core) :
    (s.updCore n f).pending = s.pending ∧ (s.updCore n f).outbox = s.outbox ∧ (s.updCore n f).freeSeq = s.freeSeq ∧
    (s.updCore n f).nextId = s.nextId ∧ (s.updCore n f).time = s.time ∧ (s.updCore n f).clk = s.clk ∧ (s.updCore n f).fuse = s.fuse ∧
    (s.updCore n f).flash = s.flash ∧ (s.updCore n f).opt = s.opt ∧ (s.updCore n f).mem = s.mem ∧ (s.updCore n f).back = s.back ∧
    (s.updCore n f).deadMarks = s.deadMarks ∧ (s.updCore n f).poisonMarks = s.poisonMarks ∧ (s.updCore n f).hist = s.hist ∧
    (s.updCore n f).histSeq = s.histSeq ∧ (s.updCore n f).hostMem = s.hostMem ∧ (s.updCore n f).llc = s.llc ∧
    (s.updCore n f).poisonMode = s.poisonMode ∧ (s.updCore n f).reqs = s.reqs ∧ (s.updCore n f).hbmEntries = s.hbmEntries ∧
    (s.updCore n f).replay = s.replay ∧ (s.updCore n f).fillHold = s.fillHold ∧ (s.updCore n f).bankq = s.bankq ∧ (s.updCore n f).cores = updAt s.cores n f ∧
    (s.updCore n f).insts = s.insts ∧ (s.updCore n f).cmds = s.cmds ∧ (s.updCore n f).mg = s.mg ∧ (s.updCore n f).cf = s.cf ∧
    (s.updCore n f).hbm = s.hbm ∧ (s.updCore n f).scrubEn = s.scrubEn ∧ (s.updCore n f).scrubH = s.scrubH ∧
    (s.updCore n f).rambler = s.rambler ∧ (s.updCore n f).fx = s.fx ∧ (s.updCore n f).host = s.host ∧ (s.updCore n f).rs = s.rs ∧
    (s.updCore n f).lc = s.lc ∧ (s.updCore n f).pw = s.pw ∧ (s.updCore n f).tl = s.tl ∧ (s.updCore n f).health = s.health ∧
    (s.updCore n f).events = s.events ∧ (s.updCore n f).pins = s.pins ∧ (s.updCore n f).side = s.side := by
  and_intros <;> rfl

/-- `updHerd` changes only `cores`. -/
@[simp] theorem State.updHerd_fields (s : State) (h : HerdRef) (f : Herd → Herd) :
    (s.updHerd h f).pending = s.pending ∧ (s.updHerd h f).outbox = s.outbox ∧ (s.updHerd h f).freeSeq = s.freeSeq ∧
    (s.updHerd h f).nextId = s.nextId ∧ (s.updHerd h f).time = s.time ∧ (s.updHerd h f).clk = s.clk ∧ (s.updHerd h f).fuse = s.fuse ∧
    (s.updHerd h f).flash = s.flash ∧ (s.updHerd h f).opt = s.opt ∧ (s.updHerd h f).mem = s.mem ∧ (s.updHerd h f).back = s.back ∧
    (s.updHerd h f).deadMarks = s.deadMarks ∧ (s.updHerd h f).poisonMarks = s.poisonMarks ∧ (s.updHerd h f).hist = s.hist ∧
    (s.updHerd h f).histSeq = s.histSeq ∧ (s.updHerd h f).hostMem = s.hostMem ∧ (s.updHerd h f).llc = s.llc ∧
    (s.updHerd h f).poisonMode = s.poisonMode ∧ (s.updHerd h f).reqs = s.reqs ∧ (s.updHerd h f).hbmEntries = s.hbmEntries ∧
    (s.updHerd h f).replay = s.replay ∧ (s.updHerd h f).fillHold = s.fillHold ∧ (s.updHerd h f).bankq = s.bankq ∧
    (s.updHerd h f).cores = updAt s.cores h.core (fun c => { c with herds := updWhere (fun x => decide (x.pos = h.pos)) f c.herds }) ∧
    (s.updHerd h f).insts = s.insts ∧ (s.updHerd h f).cmds = s.cmds ∧ (s.updHerd h f).mg = s.mg ∧ (s.updHerd h f).cf = s.cf ∧
    (s.updHerd h f).hbm = s.hbm ∧ (s.updHerd h f).scrubEn = s.scrubEn ∧ (s.updHerd h f).scrubH = s.scrubH ∧
    (s.updHerd h f).rambler = s.rambler ∧ (s.updHerd h f).fx = s.fx ∧ (s.updHerd h f).host = s.host ∧ (s.updHerd h f).rs = s.rs ∧
    (s.updHerd h f).lc = s.lc ∧ (s.updHerd h f).pw = s.pw ∧ (s.updHerd h f).tl = s.tl ∧ (s.updHerd h f).health = s.health ∧
    (s.updHerd h f).events = s.events ∧ (s.updHerd h f).pins = s.pins ∧ (s.updHerd h f).side = s.side := by
  and_intros <;> rfl

/-- `updSlot` changes only `cores`. -/
@[simp] theorem State.updSlot_fields (s : State) (r : SlotRef) (f : Slot → Slot) :
    (s.updSlot r f).pending = s.pending ∧ (s.updSlot r f).outbox = s.outbox ∧ (s.updSlot r f).freeSeq = s.freeSeq ∧
    (s.updSlot r f).nextId = s.nextId ∧ (s.updSlot r f).time = s.time ∧ (s.updSlot r f).clk = s.clk ∧ (s.updSlot r f).fuse = s.fuse ∧
    (s.updSlot r f).flash = s.flash ∧ (s.updSlot r f).opt = s.opt ∧ (s.updSlot r f).mem = s.mem ∧ (s.updSlot r f).back = s.back ∧
    (s.updSlot r f).deadMarks = s.deadMarks ∧ (s.updSlot r f).poisonMarks = s.poisonMarks ∧ (s.updSlot r f).hist = s.hist ∧
    (s.updSlot r f).histSeq = s.histSeq ∧ (s.updSlot r f).hostMem = s.hostMem ∧ (s.updSlot r f).llc = s.llc ∧
    (s.updSlot r f).poisonMode = s.poisonMode ∧ (s.updSlot r f).reqs = s.reqs ∧ (s.updSlot r f).hbmEntries = s.hbmEntries ∧
    (s.updSlot r f).replay = s.replay ∧ (s.updSlot r f).fillHold = s.fillHold ∧ (s.updSlot r f).bankq = s.bankq ∧
    (s.updSlot r f).cores = updAt s.cores r.core (fun c => { c with slots := updWhere (fun x => decide (x.num = r.slot)) f c.slots }) ∧
    (s.updSlot r f).insts = s.insts ∧ (s.updSlot r f).cmds = s.cmds ∧ (s.updSlot r f).mg = s.mg ∧ (s.updSlot r f).cf = s.cf ∧
    (s.updSlot r f).hbm = s.hbm ∧ (s.updSlot r f).scrubEn = s.scrubEn ∧ (s.updSlot r f).scrubH = s.scrubH ∧
    (s.updSlot r f).rambler = s.rambler ∧ (s.updSlot r f).fx = s.fx ∧ (s.updSlot r f).host = s.host ∧ (s.updSlot r f).rs = s.rs ∧
    (s.updSlot r f).lc = s.lc ∧ (s.updSlot r f).pw = s.pw ∧ (s.updSlot r f).tl = s.tl ∧ (s.updSlot r f).health = s.health ∧
    (s.updSlot r f).events = s.events ∧ (s.updSlot r f).pins = s.pins ∧ (s.updSlot r f).side = s.side := by
  and_intros <;> rfl

/-- `updInst` changes only `insts`. -/
@[simp] theorem State.updInst_fields (s : State) (i : Nat) (f : Inst → Inst) :
    (s.updInst i f).pending = s.pending ∧ (s.updInst i f).outbox = s.outbox ∧ (s.updInst i f).freeSeq = s.freeSeq ∧
    (s.updInst i f).nextId = s.nextId ∧ (s.updInst i f).time = s.time ∧ (s.updInst i f).clk = s.clk ∧ (s.updInst i f).fuse = s.fuse ∧
    (s.updInst i f).flash = s.flash ∧ (s.updInst i f).opt = s.opt ∧ (s.updInst i f).mem = s.mem ∧ (s.updInst i f).back = s.back ∧
    (s.updInst i f).deadMarks = s.deadMarks ∧ (s.updInst i f).poisonMarks = s.poisonMarks ∧ (s.updInst i f).hist = s.hist ∧
    (s.updInst i f).histSeq = s.histSeq ∧ (s.updInst i f).hostMem = s.hostMem ∧ (s.updInst i f).llc = s.llc ∧
    (s.updInst i f).poisonMode = s.poisonMode ∧ (s.updInst i f).reqs = s.reqs ∧ (s.updInst i f).hbmEntries = s.hbmEntries ∧
    (s.updInst i f).replay = s.replay ∧ (s.updInst i f).fillHold = s.fillHold ∧ (s.updInst i f).bankq = s.bankq ∧ (s.updInst i f).cores = s.cores ∧
    (s.updInst i f).insts = updWhere (fun x => decide (x.id = i)) f s.insts ∧ (s.updInst i f).cmds = s.cmds ∧ (s.updInst i f).mg = s.mg ∧
    (s.updInst i f).cf = s.cf ∧ (s.updInst i f).hbm = s.hbm ∧ (s.updInst i f).scrubEn = s.scrubEn ∧ (s.updInst i f).scrubH = s.scrubH ∧
    (s.updInst i f).rambler = s.rambler ∧ (s.updInst i f).fx = s.fx ∧ (s.updInst i f).host = s.host ∧ (s.updInst i f).rs = s.rs ∧
    (s.updInst i f).lc = s.lc ∧ (s.updInst i f).pw = s.pw ∧ (s.updInst i f).tl = s.tl ∧ (s.updInst i f).health = s.health ∧
    (s.updInst i f).events = s.events ∧ (s.updInst i f).pins = s.pins ∧ (s.updInst i f).side = s.side := by
  and_intros <;> rfl

/-- `updCmd` changes only `cmds`. -/
@[simp] theorem State.updCmd_fields (s : State) (k : Nat) (f : Cmd → Cmd) :
    (s.updCmd k f).pending = s.pending ∧ (s.updCmd k f).outbox = s.outbox ∧ (s.updCmd k f).freeSeq = s.freeSeq ∧
    (s.updCmd k f).nextId = s.nextId ∧ (s.updCmd k f).time = s.time ∧ (s.updCmd k f).clk = s.clk ∧ (s.updCmd k f).fuse = s.fuse ∧
    (s.updCmd k f).flash = s.flash ∧ (s.updCmd k f).opt = s.opt ∧ (s.updCmd k f).mem = s.mem ∧ (s.updCmd k f).back = s.back ∧
    (s.updCmd k f).deadMarks = s.deadMarks ∧ (s.updCmd k f).poisonMarks = s.poisonMarks ∧ (s.updCmd k f).hist = s.hist ∧
    (s.updCmd k f).histSeq = s.histSeq ∧ (s.updCmd k f).hostMem = s.hostMem ∧ (s.updCmd k f).llc = s.llc ∧
    (s.updCmd k f).poisonMode = s.poisonMode ∧ (s.updCmd k f).reqs = s.reqs ∧ (s.updCmd k f).hbmEntries = s.hbmEntries ∧
    (s.updCmd k f).replay = s.replay ∧ (s.updCmd k f).fillHold = s.fillHold ∧ (s.updCmd k f).bankq = s.bankq ∧ (s.updCmd k f).cores = s.cores ∧ (s.updCmd k f).insts = s.insts ∧
    (s.updCmd k f).cmds = updWhere (fun x => decide (x.cid = k)) f s.cmds ∧ (s.updCmd k f).mg = s.mg ∧ (s.updCmd k f).cf = s.cf ∧
    (s.updCmd k f).hbm = s.hbm ∧ (s.updCmd k f).scrubEn = s.scrubEn ∧ (s.updCmd k f).scrubH = s.scrubH ∧
    (s.updCmd k f).rambler = s.rambler ∧ (s.updCmd k f).fx = s.fx ∧ (s.updCmd k f).host = s.host ∧ (s.updCmd k f).rs = s.rs ∧
    (s.updCmd k f).lc = s.lc ∧ (s.updCmd k f).pw = s.pw ∧ (s.updCmd k f).tl = s.tl ∧ (s.updCmd k f).health = s.health ∧
    (s.updCmd k f).events = s.events ∧ (s.updCmd k f).pins = s.pins ∧ (s.updCmd k f).side = s.side := by
  and_intros <;> rfl

/-- `updPort` changes only `fx`. -/
@[simp] theorem State.updPort_fields (s : State) (p : Nat) (f : Port → Port) :
    (s.updPort p f).pending = s.pending ∧ (s.updPort p f).outbox = s.outbox ∧ (s.updPort p f).freeSeq = s.freeSeq ∧
    (s.updPort p f).nextId = s.nextId ∧ (s.updPort p f).time = s.time ∧ (s.updPort p f).clk = s.clk ∧ (s.updPort p f).fuse = s.fuse ∧
    (s.updPort p f).flash = s.flash ∧ (s.updPort p f).opt = s.opt ∧ (s.updPort p f).mem = s.mem ∧ (s.updPort p f).back = s.back ∧
    (s.updPort p f).deadMarks = s.deadMarks ∧ (s.updPort p f).poisonMarks = s.poisonMarks ∧ (s.updPort p f).hist = s.hist ∧
    (s.updPort p f).histSeq = s.histSeq ∧ (s.updPort p f).hostMem = s.hostMem ∧ (s.updPort p f).llc = s.llc ∧
    (s.updPort p f).poisonMode = s.poisonMode ∧ (s.updPort p f).reqs = s.reqs ∧ (s.updPort p f).hbmEntries = s.hbmEntries ∧
    (s.updPort p f).replay = s.replay ∧ (s.updPort p f).fillHold = s.fillHold ∧ (s.updPort p f).bankq = s.bankq ∧ (s.updPort p f).cores = s.cores ∧
    (s.updPort p f).insts = s.insts ∧ (s.updPort p f).cmds = s.cmds ∧ (s.updPort p f).mg = s.mg ∧ (s.updPort p f).cf = s.cf ∧
    (s.updPort p f).hbm = s.hbm ∧ (s.updPort p f).scrubEn = s.scrubEn ∧ (s.updPort p f).scrubH = s.scrubH ∧
    (s.updPort p f).rambler = s.rambler ∧ (s.updPort p f).fx = { s.fx with ports := updAt s.fx.ports p f } ∧ (s.updPort p f).host = s.host ∧
    (s.updPort p f).rs = s.rs ∧ (s.updPort p f).lc = s.lc ∧ (s.updPort p f).pw = s.pw ∧ (s.updPort p f).tl = s.tl ∧
    (s.updPort p f).health = s.health ∧ (s.updPort p f).events = s.events ∧ (s.updPort p f).pins = s.pins ∧ (s.updPort p f).side = s.side := by
  and_intros <;> rfl

/-- `updStack` changes only `hbm`. -/
@[simp] theorem State.updStack_fields (s : State) (k : Nat) (f : Stack → Stack) :
    (s.updStack k f).pending = s.pending ∧ (s.updStack k f).outbox = s.outbox ∧ (s.updStack k f).freeSeq = s.freeSeq ∧
    (s.updStack k f).nextId = s.nextId ∧ (s.updStack k f).time = s.time ∧ (s.updStack k f).clk = s.clk ∧ (s.updStack k f).fuse = s.fuse ∧
    (s.updStack k f).flash = s.flash ∧ (s.updStack k f).opt = s.opt ∧ (s.updStack k f).mem = s.mem ∧ (s.updStack k f).back = s.back ∧
    (s.updStack k f).deadMarks = s.deadMarks ∧ (s.updStack k f).poisonMarks = s.poisonMarks ∧ (s.updStack k f).hist = s.hist ∧
    (s.updStack k f).histSeq = s.histSeq ∧ (s.updStack k f).hostMem = s.hostMem ∧ (s.updStack k f).llc = s.llc ∧
    (s.updStack k f).poisonMode = s.poisonMode ∧ (s.updStack k f).reqs = s.reqs ∧ (s.updStack k f).hbmEntries = s.hbmEntries ∧
    (s.updStack k f).replay = s.replay ∧ (s.updStack k f).fillHold = s.fillHold ∧ (s.updStack k f).bankq = s.bankq ∧ (s.updStack k f).cores = s.cores ∧
    (s.updStack k f).insts = s.insts ∧ (s.updStack k f).cmds = s.cmds ∧ (s.updStack k f).mg = s.mg ∧ (s.updStack k f).cf = s.cf ∧
    (s.updStack k f).hbm = updAt s.hbm k f ∧ (s.updStack k f).scrubEn = s.scrubEn ∧ (s.updStack k f).scrubH = s.scrubH ∧
    (s.updStack k f).rambler = s.rambler ∧ (s.updStack k f).fx = s.fx ∧ (s.updStack k f).host = s.host ∧ (s.updStack k f).rs = s.rs ∧
    (s.updStack k f).lc = s.lc ∧ (s.updStack k f).pw = s.pw ∧ (s.updStack k f).tl = s.tl ∧ (s.updStack k f).health = s.health ∧
    (s.updStack k f).events = s.events ∧ (s.updStack k f).pins = s.pins ∧ (s.updStack k f).side = s.side := by
  and_intros <;> rfl

/-- `updGroup` changes only `fx`. -/
@[simp] theorem State.updGroup_fields (s : State) (g : Nat) (f : Group → Group) :
    (s.updGroup g f).pending = s.pending ∧ (s.updGroup g f).outbox = s.outbox ∧ (s.updGroup g f).freeSeq = s.freeSeq ∧
    (s.updGroup g f).nextId = s.nextId ∧ (s.updGroup g f).time = s.time ∧ (s.updGroup g f).clk = s.clk ∧ (s.updGroup g f).fuse = s.fuse ∧
    (s.updGroup g f).flash = s.flash ∧ (s.updGroup g f).opt = s.opt ∧ (s.updGroup g f).mem = s.mem ∧ (s.updGroup g f).back = s.back ∧
    (s.updGroup g f).deadMarks = s.deadMarks ∧ (s.updGroup g f).poisonMarks = s.poisonMarks ∧ (s.updGroup g f).hist = s.hist ∧
    (s.updGroup g f).histSeq = s.histSeq ∧ (s.updGroup g f).hostMem = s.hostMem ∧ (s.updGroup g f).llc = s.llc ∧
    (s.updGroup g f).poisonMode = s.poisonMode ∧ (s.updGroup g f).reqs = s.reqs ∧ (s.updGroup g f).hbmEntries = s.hbmEntries ∧
    (s.updGroup g f).replay = s.replay ∧ (s.updGroup g f).fillHold = s.fillHold ∧ (s.updGroup g f).bankq = s.bankq ∧ (s.updGroup g f).cores = s.cores ∧
    (s.updGroup g f).insts = s.insts ∧ (s.updGroup g f).cmds = s.cmds ∧ (s.updGroup g f).mg = s.mg ∧ (s.updGroup g f).cf = s.cf ∧
    (s.updGroup g f).hbm = s.hbm ∧ (s.updGroup g f).scrubEn = s.scrubEn ∧ (s.updGroup g f).scrubH = s.scrubH ∧
    (s.updGroup g f).rambler = s.rambler ∧
    (s.updGroup g f).fx = { s.fx with groups := updWhere (fun x => decide (x.id = g)) f s.fx.groups } ∧ (s.updGroup g f).host = s.host ∧
    (s.updGroup g f).rs = s.rs ∧ (s.updGroup g f).lc = s.lc ∧ (s.updGroup g f).pw = s.pw ∧ (s.updGroup g f).tl = s.tl ∧
    (s.updGroup g f).health = s.health ∧ (s.updGroup g f).events = s.events ∧ (s.updGroup g f).pins = s.pins ∧
    (s.updGroup g f).side = s.side := by
  and_intros <;> rfl

/-- `updFn` changes only `host`. -/
@[simp] theorem State.updFn_fields (s : State) (k : Nat) (f : FnCfg → FnCfg) :
    (s.updFn k f).pending = s.pending ∧ (s.updFn k f).outbox = s.outbox ∧ (s.updFn k f).freeSeq = s.freeSeq ∧
    (s.updFn k f).nextId = s.nextId ∧ (s.updFn k f).time = s.time ∧ (s.updFn k f).clk = s.clk ∧ (s.updFn k f).fuse = s.fuse ∧
    (s.updFn k f).flash = s.flash ∧ (s.updFn k f).opt = s.opt ∧ (s.updFn k f).mem = s.mem ∧ (s.updFn k f).back = s.back ∧
    (s.updFn k f).deadMarks = s.deadMarks ∧ (s.updFn k f).poisonMarks = s.poisonMarks ∧ (s.updFn k f).hist = s.hist ∧
    (s.updFn k f).histSeq = s.histSeq ∧ (s.updFn k f).hostMem = s.hostMem ∧ (s.updFn k f).llc = s.llc ∧
    (s.updFn k f).poisonMode = s.poisonMode ∧ (s.updFn k f).reqs = s.reqs ∧ (s.updFn k f).hbmEntries = s.hbmEntries ∧
    (s.updFn k f).replay = s.replay ∧ (s.updFn k f).fillHold = s.fillHold ∧ (s.updFn k f).bankq = s.bankq ∧ (s.updFn k f).cores = s.cores ∧ (s.updFn k f).insts = s.insts ∧
    (s.updFn k f).cmds = s.cmds ∧ (s.updFn k f).mg = s.mg ∧ (s.updFn k f).cf = s.cf ∧ (s.updFn k f).hbm = s.hbm ∧
    (s.updFn k f).scrubEn = s.scrubEn ∧ (s.updFn k f).scrubH = s.scrubH ∧ (s.updFn k f).rambler = s.rambler ∧ (s.updFn k f).fx = s.fx ∧
    (s.updFn k f).host = { s.host with fns := f (s.fnCfg k) :: s.host.fns.filter (fun x => x.fn != k) } ∧ (s.updFn k f).rs = s.rs ∧
    (s.updFn k f).lc = s.lc ∧ (s.updFn k f).pw = s.pw ∧ (s.updFn k f).tl = s.tl ∧ (s.updFn k f).health = s.health ∧
    (s.updFn k f).events = s.events ∧ (s.updFn k f).pins = s.pins ∧ (s.updFn k f).side = s.side := by
  and_intros <;> rfl

/-- `endTxn` changes only `fx`. -/
@[simp] theorem State.endTxn_fields (s : State) (p n : Nat) :
    (s.endTxn p n).pending = s.pending ∧ (s.endTxn p n).outbox = s.outbox ∧ (s.endTxn p n).freeSeq = s.freeSeq ∧
    (s.endTxn p n).nextId = s.nextId ∧ (s.endTxn p n).time = s.time ∧ (s.endTxn p n).clk = s.clk ∧ (s.endTxn p n).fuse = s.fuse ∧
    (s.endTxn p n).flash = s.flash ∧ (s.endTxn p n).opt = s.opt ∧ (s.endTxn p n).mem = s.mem ∧ (s.endTxn p n).back = s.back ∧
    (s.endTxn p n).deadMarks = s.deadMarks ∧ (s.endTxn p n).poisonMarks = s.poisonMarks ∧ (s.endTxn p n).hist = s.hist ∧
    (s.endTxn p n).histSeq = s.histSeq ∧ (s.endTxn p n).hostMem = s.hostMem ∧ (s.endTxn p n).llc = s.llc ∧
    (s.endTxn p n).poisonMode = s.poisonMode ∧ (s.endTxn p n).reqs = s.reqs ∧ (s.endTxn p n).hbmEntries = s.hbmEntries ∧
    (s.endTxn p n).replay = s.replay ∧ (s.endTxn p n).fillHold = s.fillHold ∧ (s.endTxn p n).bankq = s.bankq ∧ (s.endTxn p n).cores = s.cores ∧ (s.endTxn p n).insts = s.insts ∧
    (s.endTxn p n).cmds = s.cmds ∧ (s.endTxn p n).mg = s.mg ∧ (s.endTxn p n).cf = s.cf ∧ (s.endTxn p n).hbm = s.hbm ∧
    (s.endTxn p n).scrubEn = s.scrubEn ∧ (s.endTxn p n).scrubH = s.scrubH ∧ (s.endTxn p n).rambler = s.rambler ∧
    (s.endTxn p n).fx = { s.fx with txns := s.fx.txns.filter (fun t => !(t.port = p && t.num = n)) } ∧ (s.endTxn p n).host = s.host ∧
    (s.endTxn p n).rs = s.rs ∧ (s.endTxn p n).lc = s.lc ∧ (s.endTxn p n).pw = s.pw ∧ (s.endTxn p n).tl = s.tl ∧
    (s.endTxn p n).health = s.health ∧ (s.endTxn p n).events = s.events ∧ (s.endTxn p n).pins = s.pins ∧ (s.endTxn p n).side = s.side := by
  and_intros <;> rfl

/-- `emit` changes only `outbox`. -/
@[simp] theorem State.emit_fields (s : State) (o : Output) :
    (s.emit o).pending = s.pending ∧ (s.emit o).outbox = s.outbox ++ [o] ∧ (s.emit o).freeSeq = s.freeSeq ∧ (s.emit o).nextId = s.nextId ∧
    (s.emit o).time = s.time ∧ (s.emit o).clk = s.clk ∧ (s.emit o).fuse = s.fuse ∧ (s.emit o).flash = s.flash ∧ (s.emit o).opt = s.opt ∧
    (s.emit o).mem = s.mem ∧ (s.emit o).back = s.back ∧ (s.emit o).deadMarks = s.deadMarks ∧ (s.emit o).poisonMarks = s.poisonMarks ∧
    (s.emit o).hist = s.hist ∧ (s.emit o).histSeq = s.histSeq ∧ (s.emit o).hostMem = s.hostMem ∧ (s.emit o).llc = s.llc ∧
    (s.emit o).poisonMode = s.poisonMode ∧ (s.emit o).reqs = s.reqs ∧ (s.emit o).hbmEntries = s.hbmEntries ∧ (s.emit o).replay = s.replay ∧ (s.emit o).fillHold = s.fillHold ∧
    (s.emit o).bankq = s.bankq ∧ (s.emit o).cores = s.cores ∧ (s.emit o).insts = s.insts ∧ (s.emit o).cmds = s.cmds ∧ (s.emit o).mg = s.mg ∧
    (s.emit o).cf = s.cf ∧ (s.emit o).hbm = s.hbm ∧ (s.emit o).scrubEn = s.scrubEn ∧ (s.emit o).scrubH = s.scrubH ∧
    (s.emit o).rambler = s.rambler ∧ (s.emit o).fx = s.fx ∧ (s.emit o).host = s.host ∧ (s.emit o).rs = s.rs ∧ (s.emit o).lc = s.lc ∧
    (s.emit o).pw = s.pw ∧ (s.emit o).tl = s.tl ∧ (s.emit o).health = s.health ∧ (s.emit o).events = s.events ∧ (s.emit o).pins = s.pins ∧
    (s.emit o).side = s.side := by
  and_intros <;> rfl

/-- `free` changes only `freeSeq`. -/
@[simp] theorem State.free_fields (s : State) :
    (s.free.2).pending = s.pending ∧ (s.free.2).outbox = s.outbox ∧ (s.free.2).freeSeq = s.freeSeq + 1 ∧ (s.free.2).nextId = s.nextId ∧
    (s.free.2).time = s.time ∧ (s.free.2).clk = s.clk ∧ (s.free.2).fuse = s.fuse ∧ (s.free.2).flash = s.flash ∧ (s.free.2).opt = s.opt ∧
    (s.free.2).mem = s.mem ∧ (s.free.2).back = s.back ∧ (s.free.2).deadMarks = s.deadMarks ∧ (s.free.2).poisonMarks = s.poisonMarks ∧
    (s.free.2).hist = s.hist ∧ (s.free.2).histSeq = s.histSeq ∧ (s.free.2).hostMem = s.hostMem ∧ (s.free.2).llc = s.llc ∧
    (s.free.2).poisonMode = s.poisonMode ∧ (s.free.2).reqs = s.reqs ∧ (s.free.2).hbmEntries = s.hbmEntries ∧ (s.free.2).replay = s.replay ∧ (s.free.2).fillHold = s.fillHold ∧
    (s.free.2).bankq = s.bankq ∧ (s.free.2).cores = s.cores ∧ (s.free.2).insts = s.insts ∧ (s.free.2).cmds = s.cmds ∧ (s.free.2).mg = s.mg ∧
    (s.free.2).cf = s.cf ∧ (s.free.2).hbm = s.hbm ∧ (s.free.2).scrubEn = s.scrubEn ∧ (s.free.2).scrubH = s.scrubH ∧
    (s.free.2).rambler = s.rambler ∧ (s.free.2).fx = s.fx ∧ (s.free.2).host = s.host ∧ (s.free.2).rs = s.rs ∧ (s.free.2).lc = s.lc ∧
    (s.free.2).pw = s.pw ∧ (s.free.2).tl = s.tl ∧ (s.free.2).health = s.health ∧ (s.free.2).events = s.events ∧ (s.free.2).pins = s.pins ∧
    (s.free.2).side = s.side := by
  and_intros <;> rfl

/-- `countReset` changes only `rs`. -/
@[simp] theorem State.countReset_fields (s : State) (i : Nat) :
    (s.countReset i).pending = s.pending ∧ (s.countReset i).outbox = s.outbox ∧ (s.countReset i).freeSeq = s.freeSeq ∧
    (s.countReset i).nextId = s.nextId ∧ (s.countReset i).time = s.time ∧ (s.countReset i).clk = s.clk ∧ (s.countReset i).fuse = s.fuse ∧
    (s.countReset i).flash = s.flash ∧ (s.countReset i).opt = s.opt ∧ (s.countReset i).mem = s.mem ∧ (s.countReset i).back = s.back ∧
    (s.countReset i).deadMarks = s.deadMarks ∧ (s.countReset i).poisonMarks = s.poisonMarks ∧ (s.countReset i).hist = s.hist ∧
    (s.countReset i).histSeq = s.histSeq ∧ (s.countReset i).hostMem = s.hostMem ∧ (s.countReset i).llc = s.llc ∧
    (s.countReset i).poisonMode = s.poisonMode ∧ (s.countReset i).reqs = s.reqs ∧ (s.countReset i).hbmEntries = s.hbmEntries ∧
    (s.countReset i).replay = s.replay ∧ (s.countReset i).fillHold = s.fillHold ∧ (s.countReset i).bankq = s.bankq ∧ (s.countReset i).cores = s.cores ∧
    (s.countReset i).insts = s.insts ∧ (s.countReset i).cmds = s.cmds ∧ (s.countReset i).mg = s.mg ∧ (s.countReset i).cf = s.cf ∧
    (s.countReset i).hbm = s.hbm ∧ (s.countReset i).scrubEn = s.scrubEn ∧ (s.countReset i).scrubH = s.scrubH ∧
    (s.countReset i).rambler = s.rambler ∧ (s.countReset i).fx = s.fx ∧ (s.countReset i).host = s.host ∧
    (s.countReset i).rs = { s.rs with counts := updAt s.rs.counts i (fun c => satInc c 1) } ∧ (s.countReset i).lc = s.lc ∧
    (s.countReset i).pw = s.pw ∧ (s.countReset i).tl = s.tl ∧ (s.countReset i).health = s.health ∧ (s.countReset i).events = s.events ∧
    (s.countReset i).pins = s.pins ∧ (s.countReset i).side = s.side := by
  and_intros <;> rfl

/-- `markCapped` changes only `cmds`. -/
@[simp] theorem State.markCapped_fields (s : State) :
    (s.markCapped).pending = s.pending ∧ (s.markCapped).outbox = s.outbox ∧ (s.markCapped).freeSeq = s.freeSeq ∧
    (s.markCapped).nextId = s.nextId ∧ (s.markCapped).time = s.time ∧ (s.markCapped).clk = s.clk ∧ (s.markCapped).fuse = s.fuse ∧
    (s.markCapped).flash = s.flash ∧ (s.markCapped).opt = s.opt ∧ (s.markCapped).mem = s.mem ∧ (s.markCapped).back = s.back ∧
    (s.markCapped).deadMarks = s.deadMarks ∧ (s.markCapped).poisonMarks = s.poisonMarks ∧ (s.markCapped).hist = s.hist ∧
    (s.markCapped).histSeq = s.histSeq ∧ (s.markCapped).hostMem = s.hostMem ∧ (s.markCapped).llc = s.llc ∧
    (s.markCapped).poisonMode = s.poisonMode ∧ (s.markCapped).reqs = s.reqs ∧ (s.markCapped).hbmEntries = s.hbmEntries ∧
    (s.markCapped).replay = s.replay ∧ (s.markCapped).fillHold = s.fillHold ∧ (s.markCapped).bankq = s.bankq ∧ (s.markCapped).cores = s.cores ∧ (s.markCapped).insts = s.insts ∧
    (s.markCapped).cmds = s.cmds.map (fun c => { c with capped := true }) ∧ (s.markCapped).mg = s.mg ∧ (s.markCapped).cf = s.cf ∧
    (s.markCapped).hbm = s.hbm ∧ (s.markCapped).scrubEn = s.scrubEn ∧ (s.markCapped).scrubH = s.scrubH ∧
    (s.markCapped).rambler = s.rambler ∧ (s.markCapped).fx = s.fx ∧ (s.markCapped).host = s.host ∧ (s.markCapped).rs = s.rs ∧
    (s.markCapped).lc = s.lc ∧ (s.markCapped).pw = s.pw ∧ (s.markCapped).tl = s.tl ∧ (s.markCapped).health = s.health ∧
    (s.markCapped).events = s.events ∧ (s.markCapped).pins = s.pins ∧ (s.markCapped).side = s.side := by
  and_intros <;> rfl

/-- `setLevel` changes only `pw, clk`. -/
@[simp] theorem State.setLevel_fields (s : State) (n : Nat) :
    (s.setLevel n).pending = s.pending ∧ (s.setLevel n).outbox = s.outbox ∧ (s.setLevel n).freeSeq = s.freeSeq ∧
    (s.setLevel n).nextId = s.nextId ∧ (s.setLevel n).time = s.time ∧
    (s.setLevel n).clk =
      { s.clk with dies := s.clk.dies.map (fun c => { c with phase := min c.phase (max 64 (min n 192) - 1) }) } ∧ (s.setLevel n).fuse = s.fuse ∧
    (s.setLevel n).flash = s.flash ∧ (s.setLevel n).opt = s.opt ∧ (s.setLevel n).mem = s.mem ∧ (s.setLevel n).back = s.back ∧
    (s.setLevel n).deadMarks = s.deadMarks ∧ (s.setLevel n).poisonMarks = s.poisonMarks ∧ (s.setLevel n).hist = s.hist ∧
    (s.setLevel n).histSeq = s.histSeq ∧ (s.setLevel n).hostMem = s.hostMem ∧ (s.setLevel n).llc = s.llc ∧
    (s.setLevel n).poisonMode = s.poisonMode ∧ (s.setLevel n).reqs = s.reqs ∧ (s.setLevel n).hbmEntries = s.hbmEntries ∧
    (s.setLevel n).replay = s.replay ∧ (s.setLevel n).fillHold = s.fillHold ∧ (s.setLevel n).bankq = s.bankq ∧ (s.setLevel n).cores = s.cores ∧ (s.setLevel n).insts = s.insts ∧
    (s.setLevel n).cmds = s.cmds ∧ (s.setLevel n).mg = s.mg ∧ (s.setLevel n).cf = s.cf ∧ (s.setLevel n).hbm = s.hbm ∧
    (s.setLevel n).scrubEn = s.scrubEn ∧ (s.setLevel n).scrubH = s.scrubH ∧ (s.setLevel n).rambler = s.rambler ∧ (s.setLevel n).fx = s.fx ∧
    (s.setLevel n).host = s.host ∧ (s.setLevel n).rs = s.rs ∧ (s.setLevel n).lc = s.lc ∧
    (s.setLevel n).pw = { s.pw with div := min n 192, skip := n - 192, vdiv := min n 192, rise := none } ∧ (s.setLevel n).tl = s.tl ∧ (s.setLevel n).health = s.health ∧
    (s.setLevel n).events = s.events ∧ (s.setLevel n).pins = s.pins ∧ (s.setLevel n).side = s.side := by
  and_intros <;> rfl

end Sys2Proof.Machine
end

