-- ==== Sys2Proof/Laws/Canonical.lean ====
section
/-! SUPPORT. The shared operations keep the three memories canonical, one lemma per operation, for the invariant over every step. -/
namespace Sys2Proof.Machine

/-- A fold keeps what each of its steps keeps. -/
theorem foldl_keeps {α β : Type} {p : α → Prop} {f : α → β → α} (hf : ∀ a b, p a → p (f a b)) (l : List β) (a : α) (h : p a) :
    p (l.foldl f a) := by
  induction l generalizing a with
  | nil => exact h
  | cons b l ih => exact ih _ (hf a b h)

/-- The three memories are canonical exactly where each is. -/
theorem memoriesWf_iff {s : State} : memoriesWf s = true ↔ s.mem.wf = true ∧ s.back.wf = true ∧ s.hostMem.wf = true := by
  simp [memoriesWf, and_assoc]

/-- A change that leaves the three memories leaves their form. -/
theorem memoriesWf_of_eq {s t : State} (h : memoriesWf s = true) (h1 : t.mem = s.mem) (h2 : t.back = s.back)
    (h3 : t.hostMem = s.hostMem) : memoriesWf t = true := by
  rw [memoriesWf_iff] at *; rw [h1, h2, h3]; exact h

theorem memoriesWf_updInst {s : State} (i : Nat) (f : Inst → Inst) (h : memoriesWf s = true) : memoriesWf (s.updInst i f) = true := h
theorem memoriesWf_updCtx {s : State} (c : CtxRef) (f : Ctx → Ctx) (h : memoriesWf s = true) : memoriesWf (s.updCtx c f) = true := h
theorem memoriesWf_updCmd {s : State} (c : Nat) (f : Cmd → Cmd) (h : memoriesWf s = true) : memoriesWf (s.updCmd c f) = true := h
theorem memoriesWf_updTag {s : State} (l : Nat) (f : Line → Line) (h : memoriesWf s = true) : memoriesWf (s.updTag l f) = true := h

theorem memoriesWf_updQueue {s : State} (q : QRef) (f : Queue → Queue) (h : memoriesWf s = true) :
    memoriesWf (s.updQueue q f) = true := by
  cases q <;> exact h

theorem memoriesWf_mem {s : State} (a : Nat) (bs : List Byte) (h : memoriesWf s = true) :
    memoriesWf { s with mem := writeBytes s.mem a bs } = true := by
  rw [memoriesWf_iff] at *; exact ⟨writeBytes_wf bs a h.1, h.2⟩

theorem memoriesWf_back {s : State} (a : Nat) (bs : List Byte) (h : memoriesWf s = true) :
    memoriesWf { s with back := writeBytes s.back a bs } = true := by
  rw [memoriesWf_iff] at *; exact ⟨h.1, writeBytes_wf bs a h.2.1, h.2.2⟩

theorem memoriesWf_hostMem {s : State} (a : Nat) (bs : List Byte) (h : memoriesWf s = true) :
    memoriesWf { s with hostMem := writeBytes s.hostMem a bs } = true := by
  rw [memoriesWf_iff] at *; exact ⟨h.1, h.2.1, writeBytes_wf bs a h.2.2⟩

/-- A change that writes only the backing memory keeps the form. -/
theorem memoriesWf_of_back {s t : State} (h : memoriesWf s = true) (a : Nat) (bs : List Byte) (h1 : t.mem = s.mem)
    (h2 : t.back = writeBytes s.back a bs) (h3 : t.hostMem = s.hostMem) : memoriesWf t = true := by
  rw [memoriesWf_iff] at *; rw [h1, h2, h3]; exact ⟨h.1, writeBytes_wf bs a h.2.1, h.2.2⟩

/-! ## Lines -/

theorem memoriesWf_touch {s : State} (line : Nat) (h : memoriesWf s = true) : memoriesWf (s.touch line) = true := by
  unfold State.touch
  split
  · exact h
  · split <;> exact h

theorem memoriesWf_remember {s : State} (sec : Nat) (old : List Byte) (h : memoriesWf s = true) :
    memoriesWf (s.remember sec old) = true := by
  unfold State.remember; split <;> exact h

theorem memoriesWf_fillWindows {s : State} (h : memoriesWf s = true) : memoriesWf s.fillWindows = true := h

theorem memoriesWf_fetchLine {s : State} (line cls : Nat) (inst : Option Nat) (stream : Bool) (h : memoriesWf s = true) :
    memoriesWf (s.fetchLine line cls inst stream) = true := by
  unfold State.fetchLine
  split_ifs
  · exact h
  · exact h
  · exact memoriesWf_fillWindows (s := s.addEntry line cls inst stream) h

theorem memoriesWf_postEvent {s : State} (code d : Nat) (h : memoriesWf s = true) : memoriesWf (s.postEvent code d) = true :=
  memoriesWf_of_eq h rfl rfl rfl

theorem memoriesWf_postError {s : State} (cls sev src info : Nat) (h : memoriesWf s = true) :
    memoriesWf (s.postError cls sev src info) = true := memoriesWf_of_eq h rfl rfl rfl

theorem memoriesWf_updStack {s : State} (k : Nat) (f : Stack → Stack) (h : memoriesWf s = true) : memoriesWf (s.updStack k f) = true :=
  memoriesWf_of_eq h rfl rfl rfl

theorem memoriesWf_countEvent {s : State} (i : Option Nat) (k p n : Nat) (h : memoriesWf s = true) :
    memoriesWf (s.countEvent i k p n) = true := memoriesWf_of_eq h rfl rfl rfl

theorem memoriesWf_issueWrite {s : State} (sec : Nat) (h : memoriesWf s = true) : memoriesWf (s.issueWrite sec) = true := by
  have marked : ∀ (t : State) (d p : List Nat) (bs : List Byte), memoriesWf t = true →
      memoriesWf { t with poisonMarks := p, deadMarks := d, back := writeBytes t.back (sec * 32) bs } = true :=
    fun t _ _ bs h => memoriesWf_of_back h (sec * 32) bs rfl rfl rfl
  have counted : ∀ (t : State) (r c u : Nat), memoriesWf t = true → memoriesWf (t.hbmCount r c u) = true :=
    fun t _ _ _ h => memoriesWf_updStack _ _ h
  have issued : memoriesWf { (s.openRow (sec * 32)).updStack (s.homeRegion (sec * 32)) (fun k => { k with wq := k.wq.erase sec }) with
      freeSeq := s.freeSeq + 1 } = true := memoriesWf_of_eq h rfl rfl rfl
  unfold State.issueWrite
  dsimp only
  split_ifs
  · exact marked _ _ _ _ (memoriesWf_postError _ _ _ _ (counted _ _ _ _ (memoriesWf_countEvent _ _ _ _ issued)))
  · exact memoriesWf_countEvent _ _ _ _ issued

theorem memoriesWf_drainWq {s : State} (a : Nat) (h : memoriesWf s = true) : memoriesWf (s.drainWq a) = true := by
  unfold State.drainWq
  dsimp only
  split_ifs
  · exact h
  · exact foldl_keeps (p := fun s => memoriesWf s = true) (fun _ _ h => memoriesWf_issueWrite _ h) _ _ h

theorem memoriesWf_queueWrite {s : State} (sec : Nat) (h : memoriesWf s = true) : memoriesWf (s.queueWrite sec) = true :=
  memoriesWf_drainWq _ (memoriesWf_updStack _ _ h)

theorem memoriesWf_writeBack {s : State} (l : Line) (h : memoriesWf s = true) : memoriesWf (s.writeBack l) = true := by
  unfold State.writeBack
  refine foldl_keeps (p := fun s => memoriesWf s = true) (fun s i h => ?_) _ s h
  dsimp only
  generalize l.line * 8 + i = sec at *
  have key : ∀ (d p : List Nat) (bs : List Byte),
      memoriesWf (State.queueWrite { s with back := writeBytes s.back (sec * 32) bs, deadMarks := d, poisonMarks := p } sec) = true :=
    fun d p bs => memoriesWf_queueWrite sec (memoriesWf_of_back h (sec * 32) bs rfl rfl rfl)
  split_ifs
  · exact h
  · exact key _ _ _
  · exact h
  · exact key _ _ _
  · exact key _ _ _
  · exact h

theorem memoriesWf_evict {s : State} (line : Nat) (h : memoriesWf s = true) : memoriesWf (s.evict line) = true := by
  unfold State.evict
  cases s.tag? line with
  | none => exact h
  | some l => exact memoriesWf_writeBack l h

theorem memoriesWf_allocate {s : State} (i : Option Nat) (line choice : Nat) (st : Bool) (h : memoriesWf s = true) :
    memoriesWf (s.allocate i line choice st) = true := by
  unfold State.allocate
  split
  · exact h
  · have key : ∀ t : State, memoriesWf t = true → ∀ ls : List Line,
        memoriesWf (if st then { t with llc := ls } else State.touch { t with llc := ls } line) = true := by
      intro t h1 ls
      split_ifs
      · exact h1
      · exact memoriesWf_touch (s := { t with llc := ls }) _ h1
    cases s.victimFor i line choice with
    | none => exact key s h _
    | some v => exact key _ (memoriesWf_evict v.line h) _

theorem memoriesWf_fillLine {s : State} (i : Option Nat) (line choice : Nat) (st : Bool) (h : memoriesWf s = true) :
    memoriesWf (s.fillLine i line choice st) = true := by
  unfold State.fillLine
  split
  · exact h
  · refine foldl_keeps (p := fun s => memoriesWf s = true) (fun s i h => ?_) _ _ (memoriesWf_allocate _ _ _ _ h)
    dsimp only
    split_ifs
    · exact h
    · exact memoriesWf_updTag _ _ h
    · exact memoriesWf_updTag _ _ h
    · exact memoriesWf_updTag _ _ h
    · exact memoriesWf_updTag _ _ (memoriesWf_mem _ _ h)

theorem memoriesWf_declareDead {s : State} (sec : Nat) (chk : Bool) (h : memoriesWf s = true) :
    memoriesWf (s.declareDead sec chk) = true := by
  have hp : memoriesWf (s.putDeadMark sec) = true := by
    rw [memoriesWf_iff] at *; simp only [State.putDeadMark]; exact ⟨h.1, writeBytes_wf _ _ h.2.1, h.2.2⟩
  have hm : memoriesWf ((s.putDeadMark sec).queueWrite sec) = true := memoriesWf_queueWrite sec hp
  unfold State.declareDead
  dsimp only
  cases s.tag? (sec / 8) with
  | none =>
    dsimp only
    split
    · exact h
    · split
      · exact hm
      · exact h
  | some l =>
    dsimp only
    split
    · exact h
    · exact memoriesWf_updTag _ _ h

/-! ## Records -/

theorem memoriesWf_writeSector {s : State} (i : Option Nat) (sec choice : Nat) (bs : List (Nat × Byte)) (h : memoriesWf s = true) :
    memoriesWf (s.writeSector i sec choice bs) = true := by
  unfold State.writeSector
  dsimp only
  split_ifs
  · exact h
  · exact memoriesWf_postError _ _ _ _ h
  · exact memoriesWf_updTag _ _ (memoriesWf_mem _ _ (memoriesWf_remember _ _ h))
  · exact memoriesWf_updTag _ _ (memoriesWf_mem _ _ (memoriesWf_remember _ _ (memoriesWf_touch _ (memoriesWf_allocate _ _ _ _ h))))

theorem memoriesWf_homeWrite {s : State} (i : Option Nat) (a choice : Nat) (bs : List Byte) (h : memoriesWf s = true) :
    memoriesWf (s.homeWrite i a choice bs) = true :=
  foldl_keeps (p := fun s => memoriesWf s = true) (fun _ _ h => memoriesWf_writeSector _ _ _ _ h) _ _ h

theorem memoriesWf_ctxWrite {s : State} (c : CtxRef) (a : Nat) (bs : List Byte) (h : memoriesWf s = true) :
    memoriesWf (s.ctxWrite c a bs) = true := by
  refine foldl_keeps (p := fun s => memoriesWf s = true) (fun s x h => ?_) _ _ h
  unfold State.ctxWriteSector
  split
  · unfold State.shadowWrite
    dsimp only
    split_ifs <;> exact h
  · exact memoriesWf_writeSector _ _ _ _ h

theorem memoriesWf_ctxFault {s : State} (c : CtxRef) (f : FaultInfo) (h : memoriesWf s = true) : memoriesWf (s.ctxFault c f) = true := h

theorem memoriesWf_countReread {s : State} (c : CtxRef) (n : Nat) (h : memoriesWf s = true) : memoriesWf (s.countReread c n) = true := by
  unfold State.countReread; split <;> exact h

theorem memoriesWf_msix {s : State} (fn v : Nat) (h : memoriesWf s = true) : memoriesWf (s.msix fn v) = true := by
  unfold State.msix; dsimp only; split_ifs <;> exact h

theorem memoriesWf_ringFault {s : State} (q : QRef) (h : memoriesWf s = true) : memoriesWf (s.ringFault q) = true := by
  cases q
  · exact h
  · exact memoriesWf_postError _ _ _ _ (memoriesWf_updQueue _ _ h)

theorem memoriesWf_ringAsk {s : State} (x : RingAccess) (h : memoriesWf s = true) : memoriesWf (s.ringAsk x) = true := by
  cases x with
  | line l => exact memoriesWf_fetchLine _ _ _ _ h
  | _ => exact h

theorem memoriesWf_haltAfter {s : State} (cid : Nat) (st : Status) (h : memoriesWf s = true) : memoriesWf (s.haltAfter cid st) = true := by
  unfold State.haltAfter
  split
  · exact h
  · split
    · exact memoriesWf_updQueue _ _ h
    · exact h

theorem memoriesWf_putRecord {s : State} (q : QRef) (x : Queue) (r : Record) (h : memoriesWf s = true) :
    memoriesWf (s.putRecord q x r).1 = true := by
  unfold State.putRecord
  split
  · exact h
  · exact memoriesWf_ringAsk _ h
  · exact memoriesWf_ringAsk _ h
  · exact memoriesWf_ringFault q h
  · have h1 := memoriesWf_updQueue q Queue.wrote (memoriesWf_hostMem (s := s) ‹_› (recordBytes r x.phase) h)
    dsimp only; split <;> first | exact memoriesWf_msix _ _ h1 | exact h1
  · have h1 := memoriesWf_updQueue q Queue.wrote (memoriesWf_homeWrite (s := s) none ‹_› 0 (recordBytes r x.phase) h)
    dsimp only; split <;> first | exact memoriesWf_msix _ _ h1 | exact h1

theorem memoriesWf_drainHeld {s : State} (q : QRef) (l : List Record) (h : memoriesWf s = true) :
    memoriesWf (s.drainHeld q l) = true := by
  induction l generalizing s with
  | nil => exact memoriesWf_updQueue _ _ h
  | cons r l ih =>
    unfold State.drainHeld
    split
    · exact h
    · rename_i x _
      split_ifs
      · exact memoriesWf_updQueue _ _ h
      · exact memoriesWf_updQueue _ _ h
      · have h1 := memoriesWf_putRecord q x r h
        split
        · rename_i heq; rw [heq] at h1; exact memoriesWf_updQueue _ _ h1
        · rename_i heq; rw [heq] at h1; exact ih h1

theorem memoriesWf_pushRecord {s : State} (q : QRef) (r : Record) (h : memoriesWf s = true) : memoriesWf (s.pushRecord q r) = true := by
  unfold State.pushRecord
  cases s.queue? q with
  | none => exact h
  | some x => exact memoriesWf_drainHeld q _ h

theorem memoriesWf_drainEvents_go {s : State} (l : List Record) (h : memoriesWf s = true) :
    memoriesWf (State.drainEvents.go s l) = true := by
  induction l generalizing s with
  | nil => exact h
  | cons r l ih =>
    unfold State.drainEvents.go
    split_ifs
    · exact h
    · have h1 := memoriesWf_putRecord .admin s.mg.queue r h
      split
      · rename_i heq; rw [heq] at h1; exact h1
      · rename_i heq; rw [heq] at h1; exact ih h1

theorem memoriesWf_drainEvents {s : State} (h : memoriesWf s = true) : memoriesWf s.drainEvents = true := by
  unfold State.drainEvents
  have h1 := memoriesWf_drainEvents_go s.events.pend h
  dsimp only
  generalize State.drainEvents.go s s.events.pend = t at h1
  have key : ∀ u : State, memoriesWf u = true → ∀ (x : Queue) (r : Record), memoriesWf (match u.putRecord .admin x r with
      | (s, true) => { s with events := { s.events with lost := 0 } }
      | (s, false) => s) = true := by
    intro u hu x r
    have h2 := memoriesWf_putRecord .admin x r hu
    split <;> rename_i heq <;> rw [heq] at h2 <;> exact h2
  have h2 := memoriesWf_updQueue .admin (fun x => { x with cqFull := true }) h1
  split_ifs
  · exact key _ h1 _ _
  · exact h1
  · exact key _ h2 _ _
  · exact h2

theorem memoriesWf_event {s : State} (code d : Nat) (h : memoriesWf s = true) : memoriesWf (s.event code d) = true :=
  memoriesWf_drainEvents (memoriesWf_postEvent code d h)

theorem memoriesWf_error {s : State} (cls sev src info : Nat) (h : memoriesWf s = true) : memoriesWf (s.error cls sev src info) = true :=
  memoriesWf_drainEvents (memoriesWf_postError cls sev src info h)

/-! ## Commands -/

theorem memoriesWf_endCmd {s : State} (cid : Nat) (st : Status) (d : Nat) (h : memoriesWf s = true) :
    memoriesWf (s.endCmd cid st d) = true := memoriesWf_updCmd _ _ (memoriesWf_haltAfter cid st h)

theorem memoriesWf_adminIdle {s : State} (h : memoriesWf s = true) : memoriesWf s.adminIdle = true := by
  unfold State.adminIdle; split <;> exact h

theorem memoriesWf_writeEnd {s : State} (cid : Nat) (h : memoriesWf s = true) : memoriesWf (s.writeEnd cid) = true := by
  unfold State.writeEnd
  split
  · exact h
  · rename_i c _
    split
    · have h1 : memoriesWf (if c.q = .admin && c.opcode = 0xA0 then
          State.newNonce { s with cmds := s.cmds.filter (fun x => x.cid != cid) }
          else { s with cmds := s.cmds.filter (fun x => x.cid != cid) }) = true := by
        split_ifs <;> exact memoriesWf_of_eq h rfl rfl rfl
      dsimp only
      generalize (if c.q = .admin && c.opcode = 0xA0 then
          State.newNonce { s with cmds := s.cmds.filter (fun x => x.cid != cid) }
          else { s with cmds := s.cmds.filter (fun x => x.cid != cid) }) = t at h1 ⊢
      split
      · exact h1
      · split_ifs
        · exact h1
        all_goals first
          | exact memoriesWf_adminIdle (memoriesWf_drainEvents (memoriesWf_pushRecord _ _ (memoriesWf_updQueue _ _ h1)))
          | exact memoriesWf_pushRecord _ _ (memoriesWf_updQueue _ _ h1)
          | exact memoriesWf_adminIdle (memoriesWf_updQueue _ _ h1)
          | exact memoriesWf_updQueue _ _ h1
    · exact h

theorem memoriesWf_finishDue {s : State} (cid : Nat) (h : memoriesWf s = true) : memoriesWf (s.finishDue cid) = true := by
  unfold State.finishDue
  split
  · exact h
  · split
    · exact memoriesWf_writeEnd _ h
    · exact h

theorem memoriesWf_finishCmd {s : State} (cid : Nat) (h : memoriesWf s = true) : memoriesWf (s.finishCmd cid) = true := by
  unfold State.finishCmd
  split
  · exact h
  · have h1 := memoriesWf_finishDue cid h
    dsimp only
    split
    · exact foldl_keeps (p := fun s => memoriesWf s = true) (fun _ _ h => memoriesWf_finishDue _ h) _ _ h1
    · exact h1

theorem memoriesWf_doneCmd {s : State} (cid : Nat) (st : Status) (d : Nat) (h : memoriesWf s = true) :
    memoriesWf (s.doneCmd cid st d) = true := memoriesWf_finishCmd cid (memoriesWf_endCmd cid st d h)

theorem memoriesWf_badParam {s : State} (cid off : Nat) (h : memoriesWf s = true) : memoriesWf (s.badParam cid off) = true :=
  memoriesWf_doneCmd cid _ off h

/-- A manager row keeps the memories canonical where its own effect does. -/
theorem memoriesWf_mgrRow {s : State} (cid op : Nat) (go : Cmd → State) (h : memoriesWf s = true)
    (hg : ∀ c, memoriesWf (go c) = true) : memoriesWf (s.mgrRow cid op go) = true := by
  unfold State.mgrRow
  split
  · split
    · exact hg _
    · exact h
  · exact h

theorem memoriesWf_checked {s : State} (c : Cmd) (l : List (Nat × Bool)) (go : State) (h : memoriesWf s = true)
    (hg : memoriesWf go = true) : memoriesWf (s.checked c l go) = true := by
  unfold State.checked
  split
  · exact memoriesWf_badParam _ _ h
  · exact hg

theorem memoriesWf_useRegion {s : State} (cid a : Nat) (h : memoriesWf s = true) : memoriesWf (s.useRegion cid a) = true := by
  refine memoriesWf_countEvent _ _ _ _ ?_
  unfold State.noteRegion
  dsimp only
  split_ifs
  · exact memoriesWf_updCmd _ _ h
  · exact h

theorem memoriesWf_useRange {s : State} (cid a len : Nat) (h : memoriesWf s = true) : memoriesWf (s.useRange cid a len) = true :=
  foldl_keeps (p := fun s => memoriesWf s = true) (f := fun s sec => s.useRegion cid (sec * 32))
    (fun _ _ h => memoriesWf_useRegion _ _ h) _ _ h

/-- A range keeps the memories canonical where what follows it does. -/
theorem memoriesWf_withMgr {s : State} (c : Cmd) (reads : Bool) (a len : Nat) (go : State → State) (h : memoriesWf s = true)
    (hg : ∀ t, memoriesWf t = true → memoriesWf (go t) = true) : memoriesWf (s.withMgr c reads a len go) = true := by
  unfold State.withMgr
  split
  · exact memoriesWf_doneCmd _ _ _ h
  · split_ifs
    · exact h
    · exact foldl_keeps (p := fun s => memoriesWf s = true) (fun _ _ h => memoriesWf_fetchLine _ _ _ _ h) _ _ h
    · have h1 := memoriesWf_useRange c.cid a len h
      dsimp only
      split
      · exact memoriesWf_doneCmd _ _ _ h1
      · exact hg _ h1
    · exact hg _ h

end Sys2Proof.Machine
end

