-- ==== Sys2Proof/Laws/Rows.lean ====
section
/-! SUPPORT. Everything that each shared operation of a command can do, said once: issuing an instruction, beginning a manager command,
its checks and its ranges, receiving a message, a doorbell. -/
namespace Sys2Proof.Machine
open Sys2Proof.Claims

/-! ## Instructions -/

/-- A herd issues exactly where it is there, its context is not being killed or dead, it waits at no barrier, and the clocks run. -/
theorem State.issuing?_eq_some {s : State} {r : HerdRef} {h : Herd} :
    s.issuing? r = some h ↔ s.herd? r = some h ∧ ∃ c, s.ctx? h.ctxRef = some c ∧ c.st ≠ 3 ∧ c.st ≠ 4 ∧ h.atBarrier = none ∧
      s.clocked = true := by
  unfold State.issuing?
  cases hh : s.herd? r with
  | none => simp
  | some g =>
    dsimp only
    cases hc : s.ctx? g.ctxRef with
    | none =>
      constructor
      · intro h1; cases h1
      · rintro ⟨hg, c, h1, -⟩; cases hg; rw [hc] at h1; cases h1
    | some c =>
      dsimp only
      constructor
      · intro h1
        split_ifs at h1 with h2
        cases h1
        refine ⟨rfl, c, hc, ?_⟩
        simpa [not_or, and_assoc] using h2
      · rintro ⟨hg, d, h1, h2, h3, h4, h5⟩
        cases hg
        rw [hc] at h1; cases h1
        exact if_neg (by simpa [h4, h5] using ⟨h2, h3⟩)

/-- `issue` does one of five things. -/
theorem State.issue_cases (s : State) (r : HerdRef) (f : Fields) (sh : Shape) (go : State → Herd → LaneMask → State) :
    (s.issuing? r = none ∧ s.issue r f sh go = s) ∨
    ∃ h, s.issuing? r = some h ∧
      ((h.acting f = 0 ∧ s.issue r f sh go = s.updHerd r Herd.next) ∨
       (h.acting f ≠ 0 ∧ sh.legal h.nreg = false ∧ s.issue r f sh go = s.herdFault r h .illegalInstr (lowLane (h.acting f)) 0) ∨
       (h.acting f ≠ 0 ∧ sh.legal h.nreg = true ∧ s.hazard r sh = true ∧ s.issue r f sh go = s) ∨
       (ready s r f sh h ∧ s.issue r f sh go = go s h (h.acting f))) := by
  unfold State.issue ready
  cases hi : s.issuing? r with
  | none => exact .inl ⟨rfl, rfl⟩
  | some h =>
    refine .inr ⟨h, rfl, ?_⟩
    by_cases h0 : h.acting f = 0
    · exact .inl ⟨h0, if_pos h0⟩
    · by_cases h1 : sh.legal h.nreg = true
      · by_cases h2 : s.hazard r sh = true
        · exact .inr (.inr (.inl ⟨h0, h1, h2, by simp only [if_neg h0, h1, h2]; simp⟩))
        · rw [Bool.not_eq_true] at h2
          exact .inr (.inr (.inr ⟨⟨rfl, h0, h1, h2⟩, by simp only [if_neg h0, h1, h2]; simp⟩))
      · rw [Bool.not_eq_true] at h1
        exact .inr (.inl ⟨h0, h1, by simp only [if_neg h0, h1]; simp⟩)

/-- A herd that is ready runs the instruction's own effect. -/
theorem State.issue_ready {s : State} {r : HerdRef} {f : Fields} {sh : Shape} {h : Herd} (hr : ready s r f sh h)
    (go : State → Herd → LaneMask → State) : s.issue r f sh go = go s h (h.acting f) := by
  obtain ⟨h1, h2, h3, h4⟩ := hr
  simp only [State.issue, h1, h3, h4]
  simp [h2]

/-- An instruction that only changes its herd, where the herd is ready. -/
theorem State.issueHerd_ready {s : State} {r : HerdRef} {f : Fields} {sh : Shape} {h : Herd} (hr : ready s r f sh h)
    (go : Herd → LaneMask → Herd) : s.issueHerd r f sh go = s.updHerd r (fun _ => (go h (h.acting f)).next) := by
  rw [State.issueHerd, State.issue_ready hr]

/-- No acting lane: the herd goes on at the next instruction and nothing else changes. -/
theorem State.issue_silent {s : State} {r : HerdRef} {f : Fields} {sh : Shape} {h : Herd} (hi : s.issuing? r = some h)
    (h0 : h.acting f = 0) (go : State → Herd → LaneMask → State) : s.issue r f sh go = s.updHerd r Herd.next := by
  simp [State.issue, hi, h0]

/-- An encoding that is not legal is `ILLEGAL_INSTR` in the lowest acting lane. -/
theorem State.issue_illegal {s : State} {r : HerdRef} {f : Fields} {sh : Shape} {h : Herd} (hi : s.issuing? r = some h)
    (h0 : h.acting f ≠ 0) (h1 : sh.legal h.nreg = false) (go : State → Herd → LaneMask → State) :
    s.issue r f sh go = s.herdFault r h .illegalInstr (lowLane (h.acting f)) 0 := by
  simp only [State.issue, hi, if_neg h0, h1]; simp

/-! ## Manager commands -/

/-- A command performs exactly where it has begun and holds the opcode. -/
theorem State.begun?_eq_some {s : State} {cid op : Nat} {c : Cmd} :
    s.begun? cid op = some c ↔ s.cmd? cid = some c ∧ c.phase = .begun ∧ c.opcode = op ∧ s.engineRuns c.q = true := by
  unfold State.begun?
  cases s.cmd? cid with
  | none => simp
  | some d =>
    simp only [Option.ite_none_right_eq_some, Option.some.injEq, Bool.and_eq_true, decide_eq_true_eq]
    constructor
    · rintro ⟨⟨⟨h1, h2⟩, h3⟩, rfl⟩; exact ⟨rfl, h1, h2, h3⟩
    · rintro ⟨rfl, h1, h2, h3⟩; exact ⟨⟨⟨h1, h2⟩, h3⟩, rfl⟩

/-- A manager row changes nothing, or a module that runs performs a begun command of its opcode. -/
theorem State.mgrRow_cases (s : State) (cid op : Nat) (go : Cmd → State) :
    s.mgrRow cid op go = s ∨ ∃ c, mgrBegun s cid op c ∧ s.mgrRow cid op go = go c := by
  unfold State.mgrRow mgrBegun
  cases s.begun? cid op with
  | none => exact .inl rfl
  | some c => cases s.running <;> simp

/-- A begun command at a module that runs performs. -/
theorem State.mgrRow_begun {s : State} {cid op : Nat} {c : Cmd} (h : mgrBegun s cid op c) (go : Cmd → State) :
    s.mgrRow cid op go = go c := by
  unfold mgrBegun at h; simp [State.mgrRow, h.1, h.2]

@[simp] theorem firstFail_nil : firstFail [] = none := rfl
@[simp] theorem firstFail_cons_true (o : Nat) (l : List (Nat × Bool)) : firstFail ((o, true) :: l) = firstFail l := rfl
@[simp] theorem firstFail_cons_false (o : Nat) (l : List (Nat × Bool)) : firstFail ((o, false) :: l) = some o := rfl

/-- No check fails exactly where every check holds. -/
theorem firstFail_eq_none {l : List (Nat × Bool)} : firstFail l = none ↔ ∀ x ∈ l, x.2 = true := by
  induction l with
  | nil => simp
  | cons x l ih => obtain ⟨o, b⟩ := x; cases b <;> simp [ih]

/-- The check that fails is one of the list, and it does not hold. -/
theorem firstFail_mem {l : List (Nat × Bool)} {o : Nat} (h : firstFail l = some o) : (o, false) ∈ l := by
  induction l with
  | nil => simp at h
  | cons x l ih =>
    obtain ⟨p, b⟩ := x
    cases b
    · simp at h; simp [h]
    · exact List.mem_cons_of_mem _ (ih (by simpa using h))

/-- The checks of a command: the first that fails ends it, else it goes on. -/
theorem State.checked_cases (s : State) (c : Cmd) (l : List (Nat × Bool)) (go : State) :
    (firstFail l = none ∧ s.checked c l go = go) ∨ ∃ o, firstFail l = some o ∧ s.checked c l go = s.badParam c.cid o := by
  unfold State.checked
  cases firstFail l with
  | none => exact .inl ⟨rfl, rfl⟩
  | some o => exact .inr ⟨o, rfl, rfl⟩

/-- A range that the command may use lets it go on; what it reads counts as HBM that it has used. -/
theorem State.withMgr_usable {s : State} {c : Cmd} {reads : Bool} {a len : Nat} (h : mgrUsable s reads a len) (go : State → State) :
    s.withMgr c reads a len go = go (if reads then s.useRange c.cid a len else s) := by
  obtain ⟨h1, h2, h3, h4⟩ := h
  simp only [State.withMgr, h1, h2, h3]
  cases reads
  · simp
  · simp [h4 rfl]

/-- A range ends the command, holds it, asks HBM for its lines, or lets it go on. -/
theorem State.withMgr_cases (s : State) (c : Cmd) (reads : Bool) (a len : Nat) (go : State → State) :
    (∃ t st d, (t = s ∨ t = s.useRange c.cid a len) ∧ s.withMgr c reads a len go = t.doneCmd c.cid st d) ∨
    s.withMgr c reads a len go = s ∨
    s.withMgr c reads a len go =
      (distinct ((s.mgrMissing reads a len).map (fun sec => sec / 8))).foldl (fun s l => s.fetchLine l 0 none false) s ∨
    (mgrUsable s reads a len ∧ s.withMgr c reads a len go = go (if reads then s.useRange c.cid a len else s)) := by
  cases hb : s.mgrBad a len with
  | some x => exact .inl ⟨s, x.1, x.2, .inl rfl, by simp only [State.withMgr, hb]⟩
  | none =>
    cases hh : (mgrSectors a len).any
        (fun sec => s.behindHbm (sec * 32) || s.inboundAt sec || (!reads && s.allocHeld none (sec / 8) 0)) with
    | true => exact .inr (.inl (by simp only [State.withMgr, hb, hh]; rfl))
    | false =>
      by_cases hm : s.mgrMissing reads a len = []
      · by_cases hp : reads = true → (mgrSectors a len).find? (fun sec => s.secPoisoned sec) = none
        · exact .inr (.inr (.inr ⟨⟨hb, hh, hm, hp⟩, State.withMgr_usable ⟨hb, hh, hm, hp⟩ go⟩))
        · obtain ⟨rfl, hn⟩ := Classical.not_imp.mp hp
          obtain ⟨sec, hs⟩ := Option.ne_none_iff_exists'.mp hn
          exact .inl ⟨_, .memUncorrectable, s.globalPa (sec * 32), .inr rfl, by simp only [State.withMgr, hb, hh, hm, hs]; rfl⟩
      · exact .inr (.inr (.inl (by simp [State.withMgr, hb, hh, hm])))

/-! ## Messages and doorbells -/

/-- A message of its type that the port takes frees its receive buffer and has its own effect. -/
theorem State.receive_heard {s : State} {typ port : Nat} {m : Msg} (h : heard s port m) (ht : m.typ.toNat = typ)
    (c : Option CollHdr) (data : List Byte) (go : State → State) : s.receive typ port m c data go = go (taken s port m data) := by
  obtain ⟨h1, h2, h3, h4, h5⟩ := h
  simp [State.receive, h1, h3, h4, h5, ht, Nat.not_le.mpr h2]

/-- What a message does that arrives: nothing; or its receive buffer is free again, and it is refused at a port that is not live, discarded for
its illegal header, forwarded, or has its own effect. -/
theorem State.receive_cases (s : State) (typ port : Nat) (m : Msg) (c : Option CollHdr) (data : List Byte) (go : State → State) :
    s.receive typ port m c data go = s ∨ s.receive typ port m c data go = taken (s.nackMsg port m 4) port m data ∨
    s.receive typ port m c data go = taken s port m data ∨
    s.receive typ port m c data go = taken (s.discardMsg port) port m data ∨ s.receive typ port m c data go = s.forward port m c data ∨
    s.receive typ port m c data go = go (taken s port m data) := by
  unfold State.receive
  dsimp only
  split_ifs <;> simp

/-- A doorbell changes nothing, waits behind posted writes of its function, or takes effect. -/
theorem State.bell_cases (s : State) (p : Party) (b : Bell) (q : QRef) (v : Word) :
    s.bell p b q v = s ∨
    (s.running = true ∧ s.partyUp p = true ∧ ownsDoorbell p q = true ∧ (s.bell p b q v = s.ringBell b q v ∨
      (s.postedOut (partyFn p) = true ∧ s.bell p b q v = s.postLater (.bell (partyFn p) b q v)))) := by
  unfold State.bell
  dsimp only
  split_ifs with h h1
  · exact .inl rfl
  all_goals
    simp only [Bool.or_eq_true, Bool.not_eq_true', not_or, Bool.not_eq_false] at h
    refine .inr ⟨h.1.1.1.1, h.1.1.1.2, h.1.2, ?_⟩
  · exact .inr ⟨h1, rfl⟩
  · exact .inl rfl

end Sys2Proof.Machine
end

