-- ==== Sys2Proof/WellFormed.lean ====
section
/-! DEFINITION. When the operands of a command name things that the module has: core, herd position, port, stack and
so on within their numbers, payloads of the length their message says. A command that is not well-formed cannot arrive; no meaning
relies on it (a name that does not exist is one that nothing answers to, log 5). -/
namespace Sys2Proof

/-- Cores 0 to 63, herd positions 0 to 127 (01 R14, 02 R32). -/
def HerdRef.wf (h : HerdRef) : Bool := decide (h.core < 64) && decide (h.pos < 128)

/-- Slots 0 to 63 of a core (02 R49). -/
def SlotRef.wf (r : SlotRef) : Bool := decide (r.core < 64) && decide (r.slot < 64)

/-- Instances 0 to 4,095, contexts 0 to 63 of one (02 R57, 10 R233). -/
def CtxRef.wf (c : CtxRef) : Bool := decide (c.inst < 4096) && decide (c.ctx < 64)

/-- Tenant queues 0 to 63 of an instance (09 R202). -/
def QRef.wf : QRef → Bool
  | .admin => true
  | .tenant i q => decide (i < 4096) && decide (q < 64)

/-- VFs 1 to 4,096 (13 R304). -/
def Party.wf : Party → Bool
  | .tenant vf | .untagged vf => decide (1 ≤ vf) && decide (vf ≤ 4096)
  | _ => true

/-- A message whose payload is whole sectors. -/
def payloadWf (data : List Byte) : Bool := decide (data.length % 32 = 0)

/-- The operands of a command are within their ranges. -/
def Instr.wf : Instr → Bool
  | .instructionFetch h _ => h.wf
  | .mov h _ | .add h _ | .sub h _ | .min h _ | .max h _ | .and h _ | .or h _ | .xor h _ | .shl h _ | .shr h _ | .pick h _
  | .cnt1 h _ | .lzc h _ | .bmux h _ | .rdsr h _ | .andn h _ | .bfx h _ | .bfi h _ => h.wf
  | .fadd h _ | .fmul h _ | .fma h _ | .fmin h _ | .fmax h _ | .mullo h _ | .mulhi h _ | .madlo h _ => h.wf
  | .conv h _ | .recip h _ | .rsqrt h _ | .sqrt h _ | .exp2 h _ | .log2 h _ | .sin h _ | .cos h _ | .tanh h _ => h.wf
  | .cmpi h _ | .cmpf h _ | .cmpv h _ => h.wf
  | .first h _ | .anyp h _ | .allp h _ | .lmask h _ | .lget h _ | .lrot h _ | .lswz h _ | .hsum h _ | .hmin h _
  | .hmax h _ => h.wf
  | .ld h _ _ | .st h _ | .atom h _ | .stAdd h _ => h.wf
  | .bra h _ | .call h _ | .ret h _ | .exit h _ | .trap h _ | .nop h _ | .fence h _ | .bar h _ | .hsync h _ => h.wf
  | .mxIssue h _ | .sbIssue h _ | .mxWait h _ => h.wf
  | .contextKill c | .contextKillComplete c => c.wf
  | .commandBegin q => q.wf
  | .sqTail p q _ | .cqHead p q _ | .resume p q _ => p.wf && q.wf
  | .launchSlotTake _ core | .residencyStall _ core => decide (core < 64)
  | .herdStart sl | .kernelComplete sl => sl.wf
  | .elandOpStart core | .elandOpComplete core _ | .springbokOpStart core | .springbokOpComplete core _ => decide (core < 64)
  | .coreDiagnose _ r u rf l1 us =>
    decide (1 ≤ r.toNat) && decide (r.toNat ≤ 3) && decide (us.toNat ≤ 500000) && (r != 1 || (u = 0 && rf = 0 && l1 = 0))
  | .configEpochBoundary r | .progressHoldBeacon r => decide (r < 16)
  | .hbmReadComplete _ _ ecc => decide (ecc.length = 8)
  | .fillArrival core _ _ | .landingCreditReturn core | .coreCheckerError core => decide (core < 64)
  | .perBankRefresh k pc bank => decide (k < 16) && decide (pc < 64) && decide (bank < 64)
  | .patrolScrub k _ _ | .hbmTempRead k _ | .hbmReady k _ _ _ _ => decide (k < 16)
  | .flitReceive p _ | .fastRetrain p | .fastRetrainComplete p _ _ | .heartbeat p _ | .heartbeatSend p | .heartbeatLoss p
  | .portSignalDetect p _ | .portTrainingComplete p _ _ | .portTrainingRestart p | .txnTimeout p _ | .heldFullResend p _
  | .pendingTimer p _ _ => decide (p < 16)
  | .rd p _ | .dead p _ | .collArrive p _ _ | .ack p _ | .nack p _ | .pending p _ | .progressHold p _ _ _
  | .peerAbort p _ _ _ => decide (p < 16)
  | .wr p _ d | .fabricAtom p _ d | .fabricAdd p _ d | .collData p _ _ d | .rdRsp p _ d => decide (p < 16) && payloadWf d
  | .routerStopFailure r k => decide (r < 16) && decide (k < 8)
  | .linkOutOfService l => decide (l < 20)
  | .bar2Read fn _ len _ => decide (fn ≤ 4096) && decide (1 ≤ len) && decide (len ≤ 4096)
  | .bar2Write fn _ d _ _ => decide (fn ≤ 4096) && decide (1 ≤ d.length) && decide (d.length ≤ 512)
  | .bar2Atomicop fn _ _ size _ _ _ => decide (fn ≤ 4096) && (decide (size = 4) || decide (size = 8))
  | .registerWrite p _ size _ => p.wf && (decide (size = 4) || decide (size = 8))
  | .configRequest fn o _ => decide (fn ≤ 4096) && decide (o < 4096)
  | .vfEnable n _ => decide (n ≤ 4096)
  | .busMasterEnable fn _ | .msixUnmask fn _ _ => decide (fn ≤ 4096)
  | .vfFlr vf | .invalidateRequest vf _ | .tdiLock vf _ | .tdiStart vf | .stopInterface vf =>
    decide (1 ≤ vf) && decide (vf ≤ 4096)
  | .ideKm k _ | .ideIntegrityFailure k => decide (k ≤ 64)
  | .dieResetAssert p d | .dieResetRelease p d => p.wf && decide (d < 8)
  | .regionResetAssert p r | .regionResetRelease p r => p.wf && decide (r < 16)
  | .commandProcessorWatchdog d _ | .commandProcessorWatchdogRelease d => decide (d < 8)
  | .adminQueueEnable p _ | .adminQueueDisable p | .pkgIdSet p _ => p.wf
  | .portEnable p k | .portDisable p k => p.wf && decide (k < 16)
  | .marginMeasure d _ _ | .gvarTrim d => decide (d < 8)
  | .contextWatchdog _ | .commandCompletion _ | .commandWatchdog _ | .nolzinNop _ | .nolzinFence _ | .signal _ | .wait _
  | .waitPoll _ | .waitTimeout _ | .launch _ | .dmaCopy _ | .dmaFill _ | .dmaCopyStrided _ | .hamperPin _ | .hamperUnpin _
  | .prefetch _ | .discard _ | .specBegin _ | .specCommit _ | .specAbort _ | .collAllreduce _ | .collReduceScatter _
  | .collAllgather _ | .collBroadcast _ | .collBarrier _ | .collectiveTimeout _ | .instanceCreate _ | .instanceDestroy _
  | .instanceQuiesce _ | .quiesceTimeout _ | .instanceReset _ | .instanceResetDrainEnd _ | .instanceResetContext _
  | .instanceQuery _ | .configStage _ | .configApply _ | .configStatus _ | .coreFence _ | .powerSetCap _ | .powerQuery _
  | .lifecycleAdvance _ | .resetCountersRead _ | .resetCountersClear _ | .ramblerRun _ | .ramblerRunEnd _ | .fwStage _
  | .fwActivate _ | .fabricRouteSet _ | .fabricGroupSet _ | .bankAccess _ _ _ | .addRequest _ _ _ | .deadDeclaration _
  | .hbmRequestAging _ | .thermalHoldExpiry _ | .internalFlitLoss _ | .hotReset | .pfFlr | .atsTranslationCompletion _ _ _ _ _
  | .spdmRequest _ _ | .mctpControl _ | .pldmGetSensor _ | .pldmSetEffecter _ | .pldmEventFetch | .requestUpdate _
  | .activateFirmware | .entdaa _ _ | .tapInstruction _ | .tapReset | .powerUp _ _ _ | .porRelease _ | .por _
  | .perstNAssert _ _ | .modRstNAssert _ _ | .coldBoot | .imageVerified | .firmwareReady | .moduleWarm _
  | .moduleWarmRelease | .resetExitComplete _ | .packageControllerWatchdog | .pllLockLoss | .pllRestartRetry _
  | .controlPeriod _ _ _ _ _ _ | .pwrAlertN _ _ | .powerAlertHoldEnd | .thermalSample _ | .thermalLimitRaise | .gvarStore
  | .energyAttribution _ _ | .powerAlertEnd _ | .pcieLinkUp _ _ | .pcieCompletion _ _ _ _ => true

end Sys2Proof
end

