-- ==== Sys2Proof/Tests/Slice0.lean ====
section
/-! SUPPORT. Small tests: ill-formed commands are refused, words written out from 03 R60 decode, and for every statement with hypotheses
a witness: a concrete state and operands that meet the hypotheses of each clause. -/
namespace Sys2Proof.Test
open Sys2Proof Sys2Proof.Machine Sys2Proof.Claims
set_option Elab.async false

/-! ## A small machine -/

/-- Bytes of a packet or record of `n` bytes: fields as (offset, bytes, value), 0 elsewhere. -/
def packet (n : Nat) (fs : List (Nat × Nat × Nat)) : List Byte :=
  (List.range n).map (fun i => (fs.findSome? (fun f =>
    if f.1 ≤ i ∧ i < f.1 + f.2.1 then some (BitVec.ofNat 8 (f.2.2 / 2 ^ (8 * (i - f.1)))) else none)).getD 0)

/-- A herd of 8 registers at position 0 of slot 0, every lane active. -/
def herd : Herd :=
  { pos := 0, slot := 0, inst := 0, ctx := 0, cid := 0, index := 0, nreg := 8, pc := 0x8000, fetched := none, regs := [], uregs := []
    preds := List.replicate 7 1, active := BitVec.allOnes 32, exited := 0, stack := [], atBarrier := none, acquire := none, releases := [] }

/-- A kernel of 4 herds on one core. -/
def kernel : Kernel :=
  { cid := 0, code := 0x8000, args := 0, nreg := 8, scratchBytes := 65536, herds := 4, ordinal := 0, ncores := 1, next := 1, startTime := 0
    startCycles := 0, since := 0, started := true }

def slot : Slot :=
  { num := 0, inst := 0, st := .running, ctx := some 0, lastCtx := some 0, q := 128, h := 16, w := 14, scratch := [], l1 := []
    kernel := some kernel, mxq := [], barriers := List.replicate 16 0 }

def ctx : Ctx :=
  { num := 0, deadchk := true, wdEn := true, wdPeriod := 1000, entryDeadchk := true, entryWdEn := true, entryWdPeriod := 1000, st := 0
    stopped := false, cause := 0, fCore := 0, fHerd := 0, fLane := 0, fLaneValid := false, faultPc := 0, faultAddr := 0, faultCount := 0
    deadReread := 0, epochs := [], nextEpoch := 1 }

/-- A running queue with its rings in instance memory. -/
def queue : Queue :=
  { Queue.disabled with sqAddr := 0x10000, cqAddr := 0x20000, sqHost := false, cqHost := false, st := .running }

/-- Instance 0: the first MiB, page tables at 0x1000, one queue, one context. -/
def inst : Inst :=
  { id := 0, ptRoot := 0x1000, bwg := 0, tsWeight := 1, exclCh := false, rampUs := 0, privWays := [], hamper := [], extents := [(0, 0x100000)]
    queues := [queue], ctxs := [ctx], st := .running, energyMj := 0, energyNj := 0, stalls := 0, kills := 0, tdi := .unlocked, tdiStream := 0 }

/-- Page tables at 0x1000, 0x2000, 0x3000: virtual address 0 to 1 GiB is local address 0 to 1 GiB, read, written and executed; the next GiB
is host memory, the third GiB is memory of module 1. -/
def tables : Memory :=
  [⟨0x1000, 1⟩, ⟨0x1001, 0x20⟩, ⟨0x2000, 1⟩, ⟨0x2001, 0x30⟩, ⟨0x3000, 0x0F⟩, ⟨0x3008, 0x1F⟩, ⟨0x3010, 0x0F⟩, ⟨0x3015, 0x04⟩]

/-- A line that its half holds whole, clean. -/
def lineIn (n : Nat) : Line :=
  { line := n, mru := true, way := 0, valid := 0xFF, dirty := 0, dead := 0, deadChk := 0, poison := 0, under := 0, streamIn := false, pinned := false }

/-- Bytes of a state's memory, from `a` on, in HBM and in their halves; all their lines are held whole. -/
def stored (s : State) (a : Nat) (bs : List Byte) : State :=
  { s with mem := writeBytes s.mem a bs, back := writeBytes s.back a bs
           llc := s.llc ++ ((List.range (bs.length / 256 + 1)).map (fun i => lineIn (a / 256 + i))).filter (fun l => !s.llc.any (fun x => x.line = l.line)) }

/-- A module that runs, out of every reset, with instance 0 and one herd on core 0. -/
def on : State :=
  { State.reset with
    time := 20000000000
    nextId := 100
    clk := { State.reset.clk with pllLocked := true }
    back := tables
    mem := tables
    llc := [lineIn 0x10, lineIn 0x20, lineIn 0x30]
    cores := { Core.reset with slots := [slot], herds := [herd] } :: List.replicate 63 Core.reset
    insts := [inst]
    hbm := List.replicate 16 { Stack.reset with trained := true, sticky := true }
    fx := { Fx.reset with valid := true }
    host := { HostIf.reset with linkUp := true, width := 16, rate := 128, ready := true, numVfs := 8, vfEn := true }
    rs := { Rs.reset with boot := .ready, ready := 0xFFFF }
    pins := { Pins.reset with perstN := true, modRstN := true } }

def r0 : HerdRef := { core := 0, pos := 0 }
def sl0 : SlotRef := { core := 0, slot := 0 }
def c0 : CtxRef := { inst := 0, ctx := 0 }

/-- Fields of form R with two sources: v2 from v4 and v6, type `t`. -/
def two (t : Nat) : Fields :=
  { form := false, pred := 7, pneg := false, dst := 2, sa := 4, sb := 6, low := BitVec.ofNat 26 (0xFF * 2 ^ 18 + t * 2 ^ 8) }
/-- One source. -/
def one (t : Nat) : Fields := { two t with sb := 0xFF }
/-- Three sources, the third v0. -/
def three (t : Nat) : Fields := { two t with low := BitVec.ofNat 26 (t * 2 ^ 8) }
/-- No register. -/
def bare (low : Nat) : Fields := { form := false, pred := 7, pneg := false, dst := 0xFF, sa := 0xFF, sb := 0xFF, low := BitVec.ofNat 26 low }

/-- The herd of `on` can issue an instruction of this shape. -/
def can (f : Fields) (sh : Fields → Shape) : Bool := decide (ready on r0 f (sh f) herd)

/-! ## Ill-formed commands -/

/-- One ill-formed command for each kind of operand: every one is refused. -/
theorem test_wf_herds_slots_queues :
    [Instr.instructionFetch ⟨64, 0⟩ false, .mov ⟨0, 128⟩ (one 0), .fadd ⟨64, 0⟩ (two 4), .conv ⟨0, 128⟩ (one 4), .cmpi ⟨64, 0⟩ (two 0),
     .first ⟨0, 128⟩ (bare 0), .ld ⟨64, 0⟩ (one 0) .none, .bra ⟨0, 128⟩ (bare 0), .mxIssue ⟨64, 0⟩ (one 0), .contextKill ⟨4096, 0⟩,
     .contextKill ⟨0, 64⟩, .commandBegin (.tenant 4096 0), .commandBegin (.tenant 0 64), .sqTail (.tenant 0) .admin 0,
     .sqTail (.tenant 4097) .admin 0, .cqHead .manager (.tenant 0 64) 0, .launchSlotTake 0 64, .herdStart ⟨0, 64⟩, .herdStart ⟨64, 0⟩,
     .elandOpStart 64, .coreDiagnose 0 0 0 0 0 0, .coreDiagnose 0 4 0 0 0 0, .coreDiagnose 0 3 0 0 0 500001].all (fun i => !i.wf) = true := by decide

theorem test_wf_ports_and_payloads :
    [Instr.heartbeatSend 16, .rd 16 (Msg.to 1 0), .wr 0 (Msg.to 2 0) [0], .rdRsp 16 (Msg.to 16 0) [], .portEnable .manager 16,
     .portDisable (.tenant 0) 0, .pkgIdSet (.tenant 0) 1].all (fun i => !i.wf) = true := by decide

theorem test_wf_module_parts :
    [Instr.configEpochBoundary 16, .hbmReadComplete 0 0 [], .fillArrival 64 0 0, .perBankRefresh 16 0 0, .perBankRefresh 0 64 0,
     .perBankRefresh 0 0 64, .patrolScrub 16 0 .clean, .routerStopFailure 16 0, .routerStopFailure 0 8, .linkOutOfService 20,
     .dieResetAssert .manager 8, .regionResetAssert .manager 16, .commandProcessorWatchdog 8, .gvarTrim 8].all (fun i => !i.wf) = true := by
  decide

theorem test_wf_host :
    [Instr.bar2Read 4097 0 1 false, .bar2Read 0 0 0 false, .bar2Read 0 0 4097 false, .bar2Write 0 0 [] false false,
     .bar2Write 0 0 (List.replicate 513 0) false false, .bar2Atomicop 0 0 .swap 2 0 0 false, .registerWrite .manager 0 2 0, .configRequest 0 4096,
     .configRequest 4097 0, .vfEnable 4097 true, .busMasterEnable 4097 true, .vfFlr 0, .vfFlr 4097, .ideKm 65 false,
     .adminQueueEnable (.tenant 0) 0].all (fun i => !i.wf) = true := by decide +kernel

theorem test_wf_accepts :
    [Instr.instructionFetch r0 false, .wr 0 (Msg.to 2 0) (List.replicate 32 0), .coreDiagnose 0 1 0 0 0 0, .vfFlr 4096, .coldBoot,
     .hbmReadComplete 0 0 (List.replicate 8 .clean), .bar2Read 0 0 4096 true].all (fun i => i.wf) = true := by decide

/-! ## Words of 03 R60, written out: CLASS, FUNC, PRED, PNEG, DST, SA, SB, class-specific -/

def w (cls : BitVec 4) (func : BitVec 6) (pred : BitVec 3) (pneg : BitVec 1) (dst sa sb : BitVec 8) (low : BitVec 26) : Word64 :=
  cls ++ func ++ pred ++ pneg ++ dst ++ sa ++ sb ++ low

/-- `ADD.U32 v2, v4, v6`, every lane. -/
theorem test_decode_add :
    decodeWord r0 (w 0b0000 0b000001 0b111 0 0b00000010 0b00000100 0b00000110 0b11111111000000000000000000) = some (.add r0 (two 0)) := by
  decide

/-- Form I of `ADD`: `FUNC` bit 5 set. -/
theorem test_decode_add_form_i :
    decodeWord r0 (w 0b0000 0b100001 0b111 0 0b00000010 0b00000100 0b00000000 0b00000000000000000000010100) =
      some (.add r0 { two 0 with form := true, sb := 0, low := 0b10100 }) := by decide

theorem test_decode_fma :
    decodeWord r0 (w 0b0001 0b000010 0b111 0 0b00000010 0b00000100 0b00000110 0b00000000000000010000000000) = some (.fma r0 (three 4)) := by
  decide

theorem test_decode_tanh :
    decodeWord r0 (w 0b0010 0b001000 0b111 0 0b00000010 0b00000100 0b11111111 0b11111111000000010000000000) = some (.tanh r0 (one 4)) := by
  decide

theorem test_decode_cmpf :
    decodeWord r0 (w 0b0011 0b000001 0b111 0 0b00000010 0b00000100 0b00000110 0b11111111000000010000000000) = some (.cmpf r0 (two 4)) := by
  decide

theorem test_decode_hsum :
    decodeWord r0 (w 0b0100 0b000111 0b111 0 0b00000010 0b00000100 0b11111111 0b11111111000000000000000000) = some (.hsum r0 (one 0)) := by
  decide

theorem test_decode_memory :
    decodeWord r0 (w 0b0101 0b000000 0b111 0 2 4 0xFF 0) = some (.ld r0 { one 0 with low := 0 } .none) ∧
    decodeWord r0 (w 0b0110 0b000000 0b111 0 0xFF 4 6 0) = some (.st r0 { two 0 with dst := 0xFF, low := 0 }) ∧
    decodeWord r0 (w 0b0111 0b000000 0b111 0 2 4 6 0) = some (.atom r0 { two 0 with low := 0 }) ∧
    decodeWord r0 (w 0b1000 0b000000 0b111 0 0xFF 4 6 0) = some (.stAdd r0 { two 0 with dst := 0xFF, low := 0 }) := by decide

theorem test_decode_control :
    decodeWord r0 (w 0b1001 0b000000 0b001 1 0xFF 0xFF 0xFF 0) = some (.bra r0 { bare 0 with pred := 1, pneg := true }) ∧
    decodeWord r0 (w 0b1001 0b000011 0b111 0 0xFF 0xFF 0xFF 0) = some (.exit r0 (bare 0)) ∧
    decodeWord r0 (w 0b1010 0b000010 0b111 0 0xFF 0xFF 0xFF 0) = some (.hsync r0 (bare 0)) ∧
    decodeWord r0 (w 0b1011 0b000001 0b111 0 5 4 0xFF 0) = some (.sbIssue r0 { one 0 with dst := 5, low := 0 }) := by decide

/-- Reserved classes and unlisted functions name no instruction (03 R63); form I exists in classes 0x0 and 0x1 only. -/
theorem test_decode_refuses :
    decodeWord r0 (w 0b1100 0 7 0 0 0 0 0) = none ∧ decodeWord r0 (w 0b1111 0 7 0 0 0 0 0) = none ∧
    decodeWord r0 (w 0b0000 0b010010 7 0 0 0 0 0) = none ∧ decodeWord r0 (w 0b0001 0b001000 7 0 0 0 0 0) = none ∧
    decodeWord r0 (w 0b0101 0b100000 7 0 0 0 0 0) = none := by decide

/-! ## Instructions of a herd: a ready herd for every shape -/

/-- A command waits; the block idles with a faster setting that is due, and with one that is not; the clocks are stopped; a die is held. -/
theorem witness_StepRunsFront :
    ({ on with pending := [Instr.coldBoot] } : State).pending = Instr.coldBoot :: [] ∧ on.pending = [] ∧ on.clk.stopped = false ∧
    on.pw.tripped = false ∧ ({ on.pw with rise := some (64, 20000000010) } : Pw).rise = some (64, 20000000010) ∧ 20000000010 ≤ on.time + 10 ∧
    on.time + 10 < 20000000011 ∧ ({ on.clk with stopped := true } : Clk).stopped = true ∧ on.clk.dies.length = 8 ∧
    on.rs.dieHeld.getLsbD 7 = false ∧ ({ on.rs with dieHeld := 0x80 } : Rs).dieHeld.getLsbD 7 = true ∧ on.dieSetting 7 = (192, 0) ∧
    (on.dieClk 7).pos < 64 := by decide +kernel

theorem witness_StepKeepsMemories : memoriesWf on = true ∧ on.mem ≠ [] ∧ on.hostMem = [] := by decide +kernel

theorem witness_DecodeEncodeAgree :
    (Instr.ld r0 { one 0 with low := 0 } .none).opcode = some (r0, 5, 0, { one 0 with low := 0 }) ∧ ({ one 0 with low := 0 } : Fields).form = false ∧
    decodeWord r0 (packWord 0 1 (two 0)) = some (.add r0 (two 0)) := by decide

theorem witness_MemoryLaws : Memory.wf tables = true ∧ ((∀ a, spGet tables a = spGet tables a)) ∧ ¬ (0x1000 < 0x1000) := by
  exact ⟨by decide, fun _ => rfl, by decide⟩

theorem witness_RegisterLaws : filesWf { herd with regs := [(32, 5), (64, 7)], uregs := [(0, 1)] } := by decide

/-- A ready herd; one with no acting lane; one whose encoding is not legal; one that still waits for a load; one at a barrier; one that
fetches `NOP` from its page. -/
theorem witness_IssueRules :
    (shapeOf (.add r0 (two 0)) = some (r0, two 0, (intForm addTypes 2 true).shape (two 0)) ∧ on.issuing? r0 = some herd) ∧
    herd.acting { two 0 with pred := 7, pneg := true } = 0#32 ∧
    (herd.acting (two 5) ≠ 0#32 ∧ ((intForm addTypes 2 true).shape (two 12)).legal herd.nreg = false) ∧
    ({ on with reqs := [{ herdReq 1 1 r0 herd .read .home 0 [⟨0, 0, 0, 4, 0, 0⟩] with dst := 2 }] } : State).hazard r0
      ((intForm addTypes 2 true).shape (two 0)) = true ∧
    (on.updHerd r0 (fun h => { h with atBarrier := some (0, 2) })).issuing? r0 = none := by decide +kernel

def code : State := stored on 0x8000 (leBytes (w 0b1001 0b000101 7 0 0xFF 0xFF 0xFF 0).toNat 8)

theorem witness_IssueRules_fetch :
    code.issuing? r0 = some herd ∧ herd.fetched = none ∧ (code.herdReqs r0).all (fun q => q.kind != .fetch) = true ∧
    code.herdXlat r0 herd .fetch herd.pc.toNat = .device 0x8000 true ∧ code.isLocal 0x8000 = true ∧
    code.secMissing (paLocal 0x8000 / 32) = false ∧ code.secPoisoned (paLocal 0x8000 / 32) = false ∧
    decodeWord r0 (code.newChoice.fetchWord r0 herd true (paLocal 0x8000)) = some (.nop r0 (bare 0)) := by decide +kernel

theorem witness_IntegerResults :
    filesWf herd ∧ can (one 0) (intForm [0] 1 true).shape = true ∧ can (two 9) (intForm addTypes 2 true).shape = true ∧
    can (two 2) (intForm [0, 2] 2 true).shape = true ∧ can (two 3) (intForm [0, 1, 2, 3] 2 true).shape = true ∧
    can (one 2) (intForm [0, 2] 1 false).shape = true ∧ can (three 2) (intForm [0, 2] 3 false).shape = true ∧
    can { two 1 with low := 0xFF * 2 ^ 18 + 0x100 + 31 } ({ intForm [0, 1] 2 false with xmask := 31 } : AluForm).shape = true ∧
    can { three 0 with low := 31 } ({ intForm [0] 3 false with xmask := 31 } : AluForm).shape = true ∧
    can { two 0 with low := 0xFF * 2 ^ 18 + 6 } ({ intForm [0, 2] 2 false with xmask := 7 } : AluForm).shape = true ∧
    can { one 0 with sa := 0 } rdsrShape = true ∧ can { one 0 with sa := 5, dst := 2 } rdsrShape = true := by decide +kernel

theorem witness_FloatResults :
    can (two 4) (fltForm 2 1 true).shape = true ∧ can (three 4) (fltForm 3 3 true).shape = true ∧
    can (two 5) (fltForm 2 1 false).shape = true ∧ can (two 1) (mulForm 2 1).shape = true ∧ can (three 1) (mulForm 3 3).shape = true := by
  decide +kernel

theorem witness_ConversionResults : can (one 4) convShape = true ∧ can (one 4) (fun f => transShape f true) = true ∧
    can (one 4) (fun f => transShape f false) = true := by decide +kernel

theorem witness_PredicateAndHerdWideResults :
    can { two 3 with dst := 7 } (cmpPredShape [0, 1, 2, 3]) = true ∧ can { two 5 with dst := 0 } (cmpPredShape [4, 5]) = true ∧
    can { bare (0xFF * 2 ^ 18) with dst := 6 } (votePredShape false) = true ∧
    can { bare (0xFF * 2 ^ 18) with dst := 0, sa := 7 } (votePredShape true) = true ∧ herd.preds.length = 7 ∧
    can (two 5) cmpvShape = true ∧ can { one 0 with sa := 7 } lmaskShape = true ∧ can (two 0) moveShape = true ∧
    can (one 0) reduceShape = true := by decide +kernel

/-- `BRA`: no lane, every lane, some lanes; and some lanes with a full stack. -/
theorem witness_BranchRules :
    on.issuing? r0 = some herd ∧ herd.active ≠ 0#32 ∧ (bare 0).form = false ∧ lowBits (bare 0) 1 0 = 0 ∧
    herd.acting { bare 0 with pneg := true } = 0#32 ∧ herd.acting (bare 0) = herd.active ∧
    (herd.acting { bare 0 with pred := 0 } ≠ 0#32 ∧ herd.acting { bare 0 with pred := 0 } ≠ herd.active) ∧
    (List.replicate 63 (StackEntry.call 0 0)).length < 64 ∧ 64 ≤ (List.replicate 64 (StackEntry.call 0 0)).length ∧
    (on.updHerd r0 (fun h => { h with stack := List.replicate 64 (.call 0 0) })).issuing? r0 =
      some { herd with stack := List.replicate 64 (.call 0 0) } := by decide +kernel

/-- Targets and reconvergence points in executable pages, a target in a page that does not permit it, and both in none. -/
theorem witness_BranchRules_targets :
    on.herdXlat r0 herd .fetch (herd.pc + BitVec.ofInt 64 (8 * signed (fTarget (bare 0)) 24)).toNat = .device 0x7FF8 true ∧
    on.newChoice.herdXlat r0 herd .fetch (herd.pc + BitVec.ofInt 64 (8 * signed (fReconv { bare 0 with pred := 0 }) 24)).toNat = .device 0x8000 true ∧
    ((on.updHerd r0 (fun h => { h with pc := 0 })).herdXlat r0 { herd with pc := 0 } .fetch
      ((0 : Word64) + BitVec.ofInt 64 (8 * signed (fTarget (bare 0)) 24)).toNat).cause = some .addressFault ∧
    (let h := { herd with pc := 0xC0000008 }
     let s := on.updHerd r0 (fun _ => h)
     (s.herdXlat r0 h .fetch (h.pc + BitVec.ofInt 64 (8 * signed (fTarget (bare 0)) 24)).toNat).cause = some .addressFault ∧
     (s.herdXlat r0 h .fetch (h.pc + BitVec.ofInt 64 (8 * signed (fReconv (bare 0)) 24)).toNat).cause = some .addressFault ∧ h.stack.length < 64) ∧
    (let exited : LaneMask := 1; let taken : LaneMask := 3
     (1 : LaneMask) ≠ 0#32 ∧ (8 : Word64) ≠ 0 ∧ taken &&& ~~~exited ≠ 0#32) := by decide +kernel

/-- A herd whose stack holds 63 call entries. -/
def deep : Herd := { herd with stack := List.replicate 63 (.call 0 (BitVec.allOnes 32)) }
/-- A herd of which lane 0 has exited, and only lane 1 is active. -/
def apart : Herd := { herd with active := 2, exited := 1 }

theorem witness_ControlRules :
    (ready (on.updHerd r0 (fun _ => deep)) r0 (bare 0) (callShape (bare 0)) deep ∧ deep.stack.length < 64) ∧
    (ready (on.updHerd r0 (fun _ => deep)) r0 (bare 0) (ctrlShape (bare 0)) deep ∧
      deep.stack = .call 0 (BitVec.allOnes 32) :: List.replicate 62 (.call 0 (BitVec.allOnes 32))) ∧
    (ready on r0 (bare 0) (ctrlShape (bare 0)) herd ∧ herd.active = ~~~herd.exited ∧ herd.acting (bare 0) = herd.active ∧ herd.stack = []) ∧
    (ready (on.updHerd r0 (fun _ => apart)) r0 (bare 0) (ctrlShape (bare 0)) apart ∧ apart.active ≠ ~~~apart.exited) := by decide +kernel

/-- A store of the herd on its way to a host page. -/
def storing : State := { on with reqs := [herdReq 5 5 r0 herd .write .host 0 [⟨0, 0x40000000, 0, 4, 0, 0⟩]] }
/-- A full fence at `CORE`, a release fence, a load fence at `SYSTEM`; fences behind a store that has not reached their scope, one of them a
release fence at `PACKAGE`; a barrier with `COUNT` 0 and with `COUNT` 2. -/
theorem witness_FenceAndBarrierRules :
    (storing.allReached r0 5 = false ∧ storing.allReached r0 4 = true ∧ lowBits (bare 0xA0) 7 5 = 5 ∧ lowBits (bare 0xA0) 1 0 = 0 ∧
      ready storing r0 (bare 0xA0) (fenceShape (bare 0xA0)) herd ∧
      (let s := { on with reqs := [herdReq 5 5 r0 herd .write .home 128 []] }
       s.allReached r0 4 = false ∧ ready s r0 (bare 0x82) (fenceShape (bare 0x82)) herd ∧ lowBits (bare 0x82) 1 0 = 2 ∧ lowBits (bare 0x82) 7 5 = 4)) ∧
    (ready on r0 (bare 0x40) (fenceShape (bare 0x40)) herd ∧ herd.acquire = none ∧ lowBits (bare 0x40) 1 0 ≠ 2 ∧
      on.allReached r0 (lowBits (bare 0x40) 7 5) = true) ∧
    (ready on r0 (bare 0x42) (fenceShape (bare 0x42)) herd ∧ lowBits (bare 0x42) 1 0 = 2) ∧
    (ready on r0 (bare 0xC1) (fenceShape (bare 0xC1)) herd ∧ lowBits (bare 0xC1) 1 0 = 1 ∧ on.loadsDone r0 = true) ∧
    (ready on r0 (bare 0) (barShape (bare 0)) herd ∧ on.allReached r0 2 = true ∧ lowBits (bare 0) 21 14 = 0) ∧
    (ready on r0 (bare 0x8000) (barShape (bare 0x8000)) herd ∧ lowBits (bare 0x8000) 21 14 = 2) := by decide +kernel

/-! ## Memory instructions, matrix queue, contexts -/

/-- `LD`, 4 bytes, scratchpad, v2 from offset v4; `ST`; `ATOM` ADD of v6. -/
def ldS : Fields := { one 0 with low := 0x900 }
def stS : Fields := { two 0 with dst := 0xFF, low := 0x900 }
def atS : Fields := { two 0 with low := 0x3FC0940 }
/-- A herd with only lane 31 active, whose offset is the last word of scratchpad. -/
def last : Herd := { herd with active := 0x80000000, regs := [(32 * 4 + 31, 65532)] }
def onLast : State := on.updHerd r0 (fun _ => last)

theorem witness_ScratchpadAccess :
    (readyMem onLast r0 ldS (ldShape ldS) false last ∧ fSpace ldS = 1 ∧ ∀ l ∈ loadLanes ldS (last.acting ldS),
      scratchOff last ldS (fOFS ldS) l % fSize ldS = 0 ∧ scratchOff last ldS (fOFS ldS) l < onLast.scratchSize r0 last) ∧
    (readyMem onLast r0 stS (stShape stS) true last ∧ fSpace stS = 1 ∧ ∀ l ∈ laneList (last.acting stS),
      scratchOff last stS (fOFS stS) l % fSize stS = 0 ∧ scratchOff last stS (fOFS stS) l < onLast.scratchSize r0 last) ∧
    (readyMem onLast r0 atS (atomShape atS) true last ∧ fSpace atS = 1 ∧ lowBit atS 1 = false ∧
      ∀ l ∈ laneList (last.acting atS), scratchOff last atS 0 l % fSize atS = 0 ∧ scratchOff last atS 0 l < onLast.scratchSize r0 last) := by
  decide +kernel

/-- A herd whose lane 0 points at the last word of a local page and lane 31 at the first word of a host page. -/
def point : Herd := { herd with active := 0x80000001, regs := [(128, 0xFFFFC), (159, 0x40000000)] }
def onPoint : State := { on.updHerd r0 (fun _ => point) with host := { on.host with
  fns := [{ fn := 1, busMaster := true, msixEn := true, fnMask := false, ats := false, masked := [], pendingBits := [], table := [] }] } }
def ldG : Fields := { one 0 with low := 0x840 }
def stG : Fields := { two 0 with dst := 0xFF, low := 0x840 }
def atG : Fields := { two 0 with low := 0x3FC08C0 }
def dest (l : Nat) : LaneTo := if l = 0 then .home 0xFFFFC else .host 0

theorem witness_GlobalLoad :
    readyMem onPoint r0 ldG (ldShape ldG) false point ∧ fSpace ldG = 0 ∧
    (∀ l ∈ loadLanes ldG (point.acting ldG), (entered onPoint r0).laneTo point.inst ((entered onPoint r0).kernelSince r0.core point.slot) .read
      (globalVa point ldG (fOFS ldG) l) (fSize ldG) = .ok (dest l)) ∧
    (entered onPoint r0).newChoice.missFits 0 [(.home, 4095), (.host, 0)] = true ∧
    (let full := { onPoint with reqs := (List.range 16).map (fun op => herdReq op op r0 { point with pos := 5 } .read .home 4095 []) }
     (entered full r0).newChoice.missFits 0 [(.home, 4095), (.host, 0)] = false) ∧
    (entered onPoint r0).newChoice.hostFits 1 = true ∧ (entered onPoint r0).newChoice.landFar 0 0 = true ∧
    ({ onPoint with reqs := List.replicate 4096 (herdReq 1 1 r0 point .read .host 0 []) } : State).hostFits 1 = false ∧
    onPoint.landFar 0 1537 = false ∧
    onPoint.sendAll 0 [] = (onPoint, true) := by decide +kernel

theorem witness_GlobalStoresAndAtomics :
    (readyMem onPoint r0 stG (stShape stG) true point ∧ fSpace stG = 0 ∧ lowBit stG 1 = false ∧
      (∀ l ∈ laneList (point.acting stG), (entered onPoint r0).laneTo 0 ((entered onPoint r0).kernelSince 0 0) .write (globalVa point stG (fOFS stG) l) (fSize stG) = .ok (dest l))) ∧
    (readyMem onPoint r0 atG (atomShape atG) true point ∧ fSpace atG = 0 ∧ lowBit atG 1 = false ∧ (hostAtomKind (fAOP atG)).isSome = true ∧
      (∀ l ∈ laneList (point.acting atG), (entered onPoint r0).laneTo 0 ((entered onPoint r0).kernelSince 0 0) .write (globalVa point atG 0 l) (fSize atG) = .ok (dest l))) ∧
    onPoint.sendAll 0 [] = (onPoint, true) := by decide +kernel

/-- `ST.ADD` of one FP32 element. -/
def addG : Fields := { two 0 with dst := 0xFF, low := 0 }
def near : Herd := { point with active := 1 }
theorem witness_GlobalStoresAndAtomics_add :
    readyMem (onPoint.updHerd r0 (fun _ => near)) r0 addG (stAddShape addG) true near ∧
    (∀ l ∈ laneList (near.acting addG), (entered onPoint r0).laneTo 0 ((entered onPoint r0).kernelSince 0 0) .write (globalVa near addG (fOFS addG) l) (addSize addG) = .ok (dest l)) ∧
    (∀ l ∈ laneList (near.acting addG), dest l ≠ .host 0) := by decide +kernel

/-- Scratchpad with an Eland descriptor at 0 and a Springbok descriptor at 64: M 1, N 1, K 32, everything in scratchpad. -/
def desc (kind : Nat) : List Byte :=
  packet 64 [(0, 8, kind + 0xB000000 + 2 ^ 32), (8, 8, 1 + 32 * 2 ^ 20), (32, 8, 0x1000), (48, 8, 0x8000)]
def mxHerd : Herd := { herd with regs := [(128, 0)] }
def onMx (q : List MxOp) : State :=
  on.updSlot sl0 (fun x => { x with scratch := writeBytes (writeBytes [] 0 (desc 1)) 64 (desc 0x2 |>.set 3 0x0A), mxq := q })
def mxF : Fields := { one 0 with dst := 15, low := 0 }
def mxOp (springbok started : Bool) (round : Nat) : MxOp :=
  { id := 7, springbok := springbok, pos := 0, live := true, token := 3
    desc := descWords (writeBytes (writeBytes [] 0 (desc 1)) 64 (desc 0x2 |>.set 3 0x0A)) (if springbok then 64 else 0), pc := 0, lane := 0
    started := started, round := round, tile := 0, reads := [], lands := [], dead := [], combine := [], writes := [] }

theorem witness_MatrixRules_issue :
    ready (onMx []) r0 mxF (mxShape mxF) herd ∧ ((onMx []).slot? sl0).isSome = true ∧ 0 + 64 ≤ (onMx []).scratchSize r0 herd ∧
    (List.replicate 15 (mxOp false false 0)).length < 16 ∧ on.releasesDone herd = true ∧ herd.acquire = none ∧
    (List.replicate 15 (mxOp false false 0)).all (fun o => !(o.live && o.pos = 0 && o.token = 15)) = true ∧
    (mxDesc false (descWords ((onMx []).scratch r0 herd) 0)).valid 65536 = true ∧
    (mxDesc true (descWords ((onMx []).scratch r0 herd) 64)).valid 65536 = true := by decide +kernel

theorem witness_MatrixRules_wait :
    ready (onMx [mxOp false false 0]) r0 (bare 0x7) (mxWaitShape (bare 0x7)) herd ∧
    [mxOp false false 0].all (fun o => !(o.live && o.pos = 0 && (bare 0x7).low.getLsbD o.token)) = true := by decide +kernel

/-- What `mxOp` is to its engine. -/
def opAt (b started : Bool) (round : Nat) : OpAt :=
  { core := 0, slot := 0, inst := 0, ctx := 0, op := mxOp b started round, desc := mxDesc b (mxOp b started round).desc }

theorem witness_MatrixRules_start : ∀ b ∈ [false, true],
    (onMx [mxOp b false 0]).workingOp 0 b = none ∧ (onMx [mxOp b false 0]).takeOp 0 b = some (opAt b false 0) ∧
    (onMx [mxOp b false 0]).opStopped (opAt b false 0) = false ∧ (onMx [mxOp b false 0]).canBegin (opAt b false 0) = true ∧
    (opAt b false 0).op.springbok = b ∧ 0 < on.cores.length := by decide +kernel

/-- A stage of an operation: with K 32 it is the only one of its round, and with K 1,024 the first of several. -/
def deepOp (b : Bool) : MxOp := { mxOp b true 0 with desc := (mxOp b true 0).desc.set 1 (1 + 1024 * 2 ^ 20) }
theorem witness_MatrixRules_stage : ∀ b ∈ [false, true],
    (((onMx [mxOp b true 0]).slot? sl0).bind (fun x => x.mxq.find? (fun o => o.id = 7)) = some (mxOp b true 0) ∧ (opAt b true 0).op.id = 7 ∧
      0 % (opAt b true 0).desc.tiles + 1 = (opAt b true 0).desc.tiles ∧ 0 < on.cores.length) ∧
    (((onMx [deepOp b]).slot? sl0).bind (fun x => x.mxq.find? (fun o => o.id = 7)) = some (deepOp b) ∧
      0 % (mxDesc b (deepOp b).desc).tiles + 1 ≠ (mxDesc b (deepOp b).desc).tiles) := by decide +kernel

theorem witness_MatrixRules_complete : ∀ b ∈ [false, true],
    let s := onMx [mxOp b true 1]
    let t := s.opRest (opAt b true 1) ((opAt b true 1).desc.rounds (s.width 0 b))
    s.runningOp 0 b = some (opAt b true 1) ∧ s.opStopped (opAt b true 1) = false ∧ t.opStopped (t.refresh (opAt b true 1)) = false ∧
    t.worked 0 (t.refresh (opAt b true 1)).op = true ∧ (t.refresh (opAt b true 1)).op.writes = [] ∧ (t.refresh (opAt b true 1)).op.dead = [] ∧
    (b = true → t.outputsAccepted (t.refresh (opAt b true 1)) = true) := by decide +kernel

def dying : Ctx := { ctx with st := 3, cause := 1 }
def onCtx (f : Ctx → Ctx) : State := on.updCtx c0 f
/-- A begun command. -/
def cmd (q : QRef) (pkt : List Byte) : Cmd :=
  { cid := 9, q := q, pkt := pkt, start := 0, since := 0, wdMs := 2000, capped := false, derated := false, determ := false, peerHeld := false
    phase := .begun, ending := none, heldFrom := none, cores := [], took := [], left := [], stalled := [], mark := 0, herdRan := false, todo := [], out := [], parts := []
    used := 0, hot := 0, unmeasured := 0 }

theorem witness_ContextKillRules :
    (ctx.st ≠ 4#3 ∧ ctx.cause = 0#4) ∧ on.clocked = true ∧ (dying.st ≠ 4#3 ∧ dying.cause ≠ 0#4) ∧ ({ dying with st := 4 } : Ctx).st = 4#3 ∧
    ((onCtx (fun _ => dying)).ctx? c0 = some dying ∧ dying.st = 3#3 ∧ dying.stopped = false) ∧
    (on.ctx? c0 = some ctx ∧ ctx.st ≠ 3#3) ∧
    ((onCtx (fun _ => { dying with stopped := true })).ctx? c0 = some { dying with stopped := true } ∧ { dying with stopped := true }.stopped = true) := by decide +kernel

/-- A `LAUNCH` whose first herd began exactly one watchdog period ago. -/
def launched : Cmd := { cmd (.tenant 0 0) [0x10] with phase := .active, herdRan := true, mark := 19000000000 }
theorem witness_ContextKillRules_watchdog :
    ({ on with cmds := [launched] } : State).cmd? 9 = some launched ∧ on.qCtx launched.q = some c0 ∧ on.ctx? c0 = some ctx ∧
    launched.opcode = 0x10 ∧ launched.phase = .active ∧ launched.herdRan = true ∧ ctx.wdEn = true ∧ ctx.st ≠ 3#3 ∧ ctx.st ≠ 4#3 ∧
    launched.cores = [] ∧ launched.mark + launched.unmeasured + ctx.wdPeriod.toNat * 1000000 = on.time := by decide +kernel

/-! ## Queues and their commands -/

/-- Instance 0 runs as a TDI whose stream is not secured. -/
def insecure : State := { on with insts := [{ inst with tdi := .run }] }
theorem witness_DoorbellRules :
    on.queue? (.tenant 0 0) = some queue ∧ on.running = true ∧ on.partyUp (.tenant 1) = true ∧ ownsDoorbell (.tenant 1) (.tenant 0 0) = true ∧
    queue.st ≠ .disabled ∧ queue.st ≠ .resetting ∧ on.postedOut (partyFn (.tenant 1)) = false ∧
    ({ on with fx := { on.fx with txns := [{ port := 0, num := 0, owner := .bar2Write 1, dst := 1, addr := 0, since := 0, first := 0, resendAt := none }] } } :
      State).postedOut (partyFn (.tenant 1)) = true ∧ (63 : Word).toNat % 2 ^ 16 < 2 ^ queue.sqLog2 ∧ 2 ^ queue.sqLog2 ≤ (64 : Word).toNat % 2 ^ 16 ∧
    QRef.tenant 0 0 ≠ .admin ∧ queue.held = [] ∧ ({ queue with st := .halted } : Queue).st = .halted ∧ (1 : Word).getLsbD 0 = true ∧
    ownsDoorbell (.tenant 2) (.tenant 0 0) = false ∧ ownsDoorbell .other .admin = false ∧ on.partyDrops (.tenant 1) = false ∧
    insecure.partyDrops (.tenant 1) = true := by decide +kernel

/-- A `NOP` packet of one entry waits at index 63 of the ring. -/
def rung : Queue := { queue with sqHead := 63, sqTail := 0 }
def onRung : State :=
  stored (on.updQueue (.tenant 0 0) (fun _ => rung)) (0x10000 + 63 * 64) (packet 64 [(0, 1, 1), (1, 1, 1)])
theorem witness_CommandBegins :
    onRung.queue? (.tenant 0 0) = some rung ∧ onRung.running = true ∧ onRung.served (.tenant 0 0) rung = true ∧
    (onRung.qCtx (.tenant 0 0)).elim false (fun c => (onRung.ctx? c).elim false (fun y => y.st = 3)) = false ∧ rung.st = .running ∧
    rung.full = false ∧ rung.held = [] ∧ onRung.queueCmds (.tenant 0 0) = [] ∧ (∀ d ∈ onRung.cmds, d.cid ≠ onRung.nextId) ∧
    rung.sqHead ≠ rung.sqTail ∧ onRung.readEntries (.tenant 0 0) rung 1 = .ok (packet 64 [(0, 1, 1), (1, 1, 1)]) ∧
    1 ≤ 2 ^ rung.sqLog2 - rung.sqHead ∧ 1 ≤ rung.covered ∧ headerCheck (.tenant 0 0) rung 1 1 0 = none := by decide +kernel

/-- A queue at the last index of its ring; a command of a tenant queue that succeeds without a record. -/
theorem witness_CompletionRingRules :
    ({ queue with cqWrite := 63 } : Queue).cqWrite + 1 = 2 ^ queue.cqLog2 ∧ ({ queue with cqWrite := 63 } : Queue).full = true ∧ queue.cqWrite < 2 ^ queue.cqLog2 ∧
    queue.cqWrite + 1 ≠ 2 ^ queue.cqLog2 ∧
    (let c := cmd (.tenant 0 0) [1]
     ({ on with cmds := [c] } : State).cmd? c.cid = some c ∧ on.queue? c.q = some queue ∧ c.phase = .begun ∧ queue.st = .running ∧
     isDmaOp c.opcode = false ∧ recordsAlways c.opcode = false ∧ c.flags.testBit 1 = false ∧ c.flags.testBit 2 = false) := by decide +kernel

/-- A state with these commands begun, in order. -/
def with' (l : List Cmd) : State := { stored (stored on 0x8000 (List.replicate 32 0)) 0xFFFF8 (List.replicate 8 0) with cmds := l }
def sig : Cmd := cmd (.tenant 0 0) (packet 64 [(0, 1, 3), (16, 8, 0xFFFF8), (24, 8, 5)])
def wait : Cmd := cmd (.tenant 0 0) (packet 64 [(0, 1, 4), (16, 8, 0x8000), (32, 8, 0xFF), (40, 1, 1), (41, 1, 2), (44, 4, 60000)])
def before : Cmd := { cmd (.tenant 0 0) [1] with cid := 8 }

theorem witness_QueueControlRules :
    (with' [cmd (.tenant 0 0) [1]]).begun? 9 1 = some (cmd (.tenant 0 0) [1]) ∧
    ((with' [cmd (.tenant 0 0) [2]]).begun? 9 2 = some (cmd (.tenant 0 0) [2]) ∧ (with' [cmd (.tenant 0 0) [2]]).earlier (cmd (.tenant 0 0) [2]) = []) ∧
    (with' [before, cmd (.tenant 0 0) [2]]).earlier (cmd (.tenant 0 0) [2]) ≠ [] ∧
    ((with' [sig]).begun? 9 3 = some sig ∧ (with' [sig]).cmdCtx sig = some c0 ∧ (with' [sig]).earlier sig = [] ∧ sig.pointer 16 = true ∧ sig.byte 32 ≤ 2 ∧ sig.byte 32 ≠ 2 ∧
      sig.field 16 8 % sigBytes sig = 0 ∧ sig.zero 33 64 = true ∧ (with' [sig]).rangeBad 0 sig.since .write (sig.field 16 8) (sigBytes sig) = none ∧
      (with' [sig]).cmdTo 0 sig.since .write (sig.field 16 8) = .ok (.home 0xFFFF8) ∧
      (let u := (with' [sig]).newChoice.useRegion 9 0xFFFF8
       u.cmdBehind 9 0xFFFF8 = false ∧ u.ctxMissing c0 (0xFFFF8 / 32) = false ∧ u.allocHeld (some 0) (0xFFFF8 / 256) 0 = false ∧
       u.ctxReadSector c0 (0xFFFF8 / 32) = .ok (List.replicate 32 0))) ∧
    (cmd (.tenant 0 0) (packet 64 [(0, 1, 3), (32, 1, 2)])).byte 32 = 2 ∧
    ((with' [wait]).begun? 9 4 = some wait ∧ (with' [wait]).cmdCtx wait = some c0 ∧ (with' [wait]).cmdTo 0 wait.since .read 0x8000 = .ok (.home 0x8000) ∧
      ((with' [wait]).newChoice.useRegion 9 0x8000).cmdBehind 9 0x8000 = false ∧
      ((with' [wait]).newChoice.useRegion 9 0x8000).ctxMissing c0 (0x8000 / 32) = false ∧
      ((with' [wait]).newChoice.useRegion 9 0x8000).ctxReadSector c0 (0x8000 / 32) = .ok (List.replicate 32 0) ∧ wait.field 44 4 ≠ 0 ∧
      wait.pointer 16 = true ∧ wait.byte 40 ≤ 3 ∧ wait.byte 41 = 2 ∧ wait.field 16 8 % waitBytes wait = 0 ∧ wait.zero 42 44 = true ∧ wait.field 44 4 ≤ 60000 ∧
      wait.zero 48 64 = true) ∧
    (let c := { wait with pkt := packet 64 [(0, 1, 4), (16, 8, 0x8000), (32, 8, 0xFF), (40, 1, 1), (41, 1, 2)] }
     let u := (with' [c]).newChoice.useRegion 9 0x8000
     (with' [c]).begun? 9 4 = some c ∧ (with' [c]).cmdTo 0 c.since .read (c.field 16 8) = .ok (.home 0x8000) ∧ c.field 44 4 = 0 ∧ c.pointer 16 = true ∧
      c.byte 40 ≤ 3 ∧ c.byte 41 = 2 ∧ c.field 16 8 % waitBytes c = 0 ∧ c.zero 42 44 = true ∧ c.zero 48 64 = true ∧ u.cmdBehind 9 0x8000 = false ∧
      u.ctxMissing c0 (0x8000 / 32) = false ∧ u.ctxReadSector c0 (0x8000 / 32) = .ok (List.replicate 32 0) ∧ waitHolds c 0 = false) ∧
    (let c := { wait with phase := .active, mark := on.time }
     (with' [c]).waiting? 9 = some c ∧ c.mark ≤ on.time ∧ (with' [c]).cmdTxns 9 = []) ∧
    (let c := { wait with phase := .active, pkt := packet 64 [(0, 1, 4), (44, 4, 20000)] }
     (with' [c]).waiting? 9 = some c ∧ c.start + c.field 44 4 * 1000000 = on.time ∧ c.field 44 4 ≠ 0 ∧ c.opcode = 4 ∧
     (with' [c]).queue? c.q = some queue) := by decide +kernel

theorem witness_CommandCompletes :
    (∀ op ∈ [0x2A, 0x28, 0x31, 0x18], let c := { cmd (.tenant 0 0) [op] with phase := .active }
      (with' [c]).cmd? 9 = some c ∧ (with' [c]).cmdServed c = true ∧ (with' [c]).quiet c = true ∧ (with' [c]).engineRuns c.q = true ∧ c.opcode = op.toNat ∧
      (with' [c]).cmdCtx c = some c0 ∧ (∀ d ∈ (with' [c]).earlier c, isDmaOp d.opcode = false) ∧ c.todo = [] ∧ c.out = [] ∧
      (with' [c]).cmdTxns 9 = [] ∧ (∀ d ∈ (with' [c]).cmds, d.cid = 9 → d = c) ∧ c.ending = none ∧ c.heldFrom = none ∧
      (with' [c]).engineDown c = false) ∧
    (let c := { cmd (.tenant 0 0) [1] with phase := .ended 0 0 }
     (with' [c]).cmd? 9 = some c ∧ (with' [c]).cmdServed c = true) ∧
    (∀ op ∈ [0x82, 0x83, 0x81], let c := { cmd .admin (packet 64 [(0, 1, op)]) with phase := .active, herdRan := true }
      (with' [c]).cmd? 9 = some c ∧ (with' [c]).cmdServed c = true ∧ c.opcode = op ∧ (with' [c]).engineRuns c.q = true ∧ (with' [c]).instInFlight (c.field 16 2) = [] ∧
      (with' [c]).ringLines (c.field 16 2) = []) ∧
    (let c := cmd (.tenant 0 0) [0x18]
     (with' [c]).cmdServed c = true ∧ watchdogCovers c.opcode = true ∧ c.phase = .begun ∧ c.opcode ≠ 0x98 ∧
     c.start + c.wdMs * 1000000 + (with' [c]).descriptorWait c ≤ on.time ∧ on.rambler = none) ∧
    (let c := cmd (.tenant 0 0) [0x10]
     (with' [c]).cmd? 9 = some c ∧ c.opcode ∈ [0x10, 4, 0x20, 0x21, 0x22, 0x23, 0x24, 0x81, 0x83]) := by decide +kernel

/-! ## Launch, DMA, caches, speculation -/

/-- A `LAUNCH` of 4 herds of 8 registers on core 0, entry 0x8000. -/
def launch : Cmd := cmd (.tenant 0 0) (packet 64 [(0, 1, 0x10), (16, 8, 0x8000), (32, 4, 4), (36, 1, 8), (37, 1, 14), (40, 8, 1)])
def taking : Cmd := { launch with phase := .active, cores := [0] }
/-- The slot of core 0 idle; and bound with a draining kernel of command 9. -/
def onIdle : State := { on.updSlot sl0 (fun x => { x with st := .idle, ctx := none, kernel := none }) with cmds := [taking] }
def onDrain : State :=
  { on.updSlot sl0 (fun x => { x with st := .draining, kernel := some { kernel with cid := 9 } }) with
    cmds := [{ taking with cores := [], left := [sl0] }] }

theorem witness_LaunchRules :
    ((with' [launch]).begun? 9 0x10 = some launch ∧ (with' [launch]).cmdCtx launch = some c0 ∧ launch.pointer 16 = true ∧ launch.field 16 8 % 8 = 0 ∧ launch.pointer 24 = true ∧ launch.byte 36 ≠ 0 ∧
      launch.byte 37 ≤ 14 ∧ launch.zero 38 40 = true ∧ launch.field 40 8 ≠ 0 ∧ launch.zero 48 64 = true ∧ (with' [launch]).launchBad launch 0 = none) ∧
    (onIdle.launchOn? 9 0 = some taking ∧ onIdle.cmdCtx taking = some c0 ∧ onIdle.regionDown (regionOfCore 0) = false ∧
      (onIdle.ctx? c0).elim true (fun y => y.st = 3 || y.st = 4) = false ∧ (onIdle.pickSlot taking c0 0).isSome = true) ∧
    ((with' [taking]).launchOn? 9 0 = some taking ∧ taking.stalled.contains 0 = false ∧ (with' [taking]).pickSlot taking c0 0 = none ∧
      taking.start + (on.region 0).stallMs * 1000000 < on.time) ∧
    ((onDrain.slot? sl0).map (fun x => (x.kernel, x.st, x.mxq)) = some (some { kernel with cid := 9 }, .draining, []) ∧
      onDrain.storesOut sl0 = false ∧ onDrain.slotFaulted slot = false ∧ onDrain.cmd? 9 = some { taking with cores := [], left := [sl0] }) := by decide +kernel

theorem witness_HerdStarts :
    on.slot? sl0 = some slot ∧ slot.kernel = some kernel ∧ slot.ctx = some 0 ∧ slot.st = .running ∧ kernel.next < kernel.herds ∧
    (on.ctx? { inst := slot.inst, ctx := 0 }).elim true (fun y => y.st = 3 || y.st = 4) = false ∧ on.freePos 0 slot kernel.nreg = some 1 := by
  decide +kernel

def copy : Cmd := cmd (.tenant 0 0) (packet 64 [(0, 1, 0x18), (16, 8, 0x8000), (24, 8, 0x8021), (32, 8, 0x21)])
def fill : Cmd := cmd (.tenant 0 0) (packet 64 [(0, 1, 0x19), (16, 8, 0x8000), (24, 8, 0x28), (32, 8, 0x1122334455667788), (40, 1, 3)])
def strided : Cmd := cmd (.tenant 0 0)
  (packet 128 [(0, 1, 0x1A), (16, 8, 0x8000), (24, 8, 0x9000), (32, 8, 16), (40, 4, 2), (44, 4, 2), (48, 8, 64), (56, 8, 32), (64, 8, 256), (72, 8, 256)])

theorem witness_CopyAndFillStart :
    (∀ c ∈ [copy, fill, strided], (with' [c]).engineDown c = false ∧ ({ with' [c] with rs := { on.rs with ready := 0 } } : State).engineDown c = true ∧
      ({ with' [c] with rs := { on.rs with ready := 0 } } : State).dmaTurn c = true ∧
      ({ with' [c] with rs := { on.rs with ready := 0 } } : State).engineRuns c.q = true ∧ (with' [c]).cmd? 9 = some c ∧ (with' [c]).cmdCtx c = some c0 ∧ (with' [c]).dmaTurn c = true ∧ c.phase = .begun ∧
      (with' [c]).engineRuns c.q = true) ∧
    (copy.opcode = 0x18 ∧ copy.pointer 16 = true ∧ copy.pointer 24 = true ∧ copy.byte 40 ≤ 1 ∧ copy.zero 41 64 = true ∧
      (∀ v ∈ (with' [copy]).srcWants copy 0 (copy.field 16 8) (copy.field 32 8), (with' [copy]).rangeBad 0 copy.since v.1 v.2.1 v.2.2 = none) ∧
      (with' [copy]).rangeBad 0 copy.since .write (copy.field 24 8) (copy.field 32 8) = none ∧
      ((with' [copy]).rangeTo 0 copy.since (copy.field 16 8) (copy.field 32 8)).any (fun a =>
        ((with' [copy]).rangeTo 0 copy.since (copy.field 24 8) (copy.field 32 8)).any (fun b => pieceMeets a b)) = false) ∧
    (fill.opcode = 0x19 ∧ fill.pointer 16 = true ∧ fill.byte 40 ≤ 3 ∧ fill.field 16 8 % patBytes fill = 0 ∧ fill.field 24 8 % patBytes fill = 0 ∧
      fill.zero (32 + patBytes fill) 40 = true ∧ fill.zero 41 64 = true ∧ (with' [fill]).rangeBad 0 fill.since .write (fill.field 16 8) (fill.field 24 8) = none) ∧
    (strided.opcode = 0x1A ∧ strided.pointer 16 = true ∧ strided.pointer 24 = true ∧ strided.zero 80 128 = true ∧ (stridedRows strided).length = 4 ∧
      ∀ r ∈ stridedRows strided, (with' [strided]).rangeBad 0 0 .read r.1 16 = none ∧ (with' [strided]).rangeBad 0 0 .write r.2 16 = none) ∧
    (let c := cmd (.tenant 0 0) (packet 64 [(0, 1, 0x18), (16, 8, 2 ^ 57)])
     (with' [c]).cmd? 9 = some c ∧ (with' [c]).cmdCtx c = some c0 ∧ (with' [c]).dmaTurn c = true ∧ c.phase = .begun ∧
      (with' [c]).engineRuns c.q = true ∧ c.opcode = 0x18 ∧ c.pointer 16 = false) := by
  decide +kernel

theorem witness_CopyPiecesCover : copyPieces 31 100 34 ≠ [] ∧ 0x27 < 0x28 ∧ splitSectors 31 [1, 2, 3] ≠ [] := by decide +kernel

/-- A cache command on 512 bytes at 0x8000, in an instance with one Hamper way in every half. -/
def cache (op : Byte) : Cmd := cmd (.tenant 0 0) (packet 64 [(0, 1, op.toNat), (16, 8, 0x8000), (24, 8, 512)])
def wayed : Inst := { inst with hamper := List.replicate 16 1 }
def onWay (c : Cmd) : State := { on with insts := [wayed], cmds := [c] }

theorem witness_CacheCommandsStart :
    (∀ op ∈ [0x2A, 0x2B, 0x28, 0x29], let c := cache op
      (onWay c).cmdCtx c = some c0 ∧ (onWay c).begun? 9 op.toNat = some c ∧ (onWay c).dmaTurn c = true ∧ c.pointer 16 = true ∧ c.zero 32 64 = true ∧
      (pagesOf 0x8000 512).findSome? (fun p => (onWay c).localPage 0 0 p.1) = none ∧
      (pagesOf 0x8000 512).any (fun p => (onWay c).hostPage 0 0 p.1) = false ∧ (onWay c).rangeBad 0 0 .write 0x8000 512 = none ∧ (onWay c).inst? 0 = some wayed ∧
      (onWay c).pinFits wayed 9 ((onWay c).linesOf 0 0 0x8000 512) = none ∧ (onWay c).engineDown c = false) ∧
    (cache 0x28).field 16 8 % 256 = 0 ∧ (cache 0x28).field 24 8 % 256 = 0 ∧ (cache 0x2A).byte 32 ≤ 1 := by decide +kernel

/-- Line 128 (local address 0x8000) in its half: every sector valid and dirty but sector 7, which is dead with `DEADCHK`. -/
def tag : Line :=
  { line := 128, mru := false, way := 0, valid := 0x7F, dirty := 0x7F, dead := 0x80, deadChk := 0x80, poison := 0x40, under := 0, streamIn := false, pinned := false }
def onTag : State := { on with llc := [tag] }
theorem witness_DeadSectorRules :
    (onTag.tag? (1024 / 8) = some tag ∧ tag.pinned = false ∧ inWindow (1024 * 32) = false ∧ onTag.inOpenEpoch (1024 / 8) = false) ∧
    onTag.epochOf c0 (1031 / 8) = none ∧ onTag.secPoisoned 1031 = false ∧ onTag.poisonMode.getLsbD (onTag.homeRegion (1031 * 32)) = false ∧
    (let s := { onTag with poisonMode := 0xFFFF }
     s.epochOf c0 (1031 / 8) = none ∧ s.poisonMode.getLsbD (s.homeRegion (1031 * 32)) = true) ∧
    (let s := { onTag with poisonMarks := [1031], llc := [{ tag with dead := 0x80, deadChk := 0, valid := 0, under := 0x80 }] }
     s.secDead 1031 = true ∧ s.secPoisoned 1031 = true) ∧ (onTag.secDead 1031 = true ∧ onTag.deadchk c0 = true) ∧
    (onTag.updCtx c0 (fun x => { x with deadchk := false })).deadchk c0 = false ∧
    (onTag.secDead 1030 = false ∧ onTag.secPoisoned 1030 = true) ∧ (onTag.secDead 1024 = false ∧ onTag.secPoisoned 1024 = false) := by
  decide +kernel

theorem witness_HomeWriteReadBack :
    onTag.mem.wf = true ∧ (onTag.llc.map (fun l => l.line)).Nodup ∧ onTag.canonSec 1024 = 1024 ∧ onTag.canonSec 1030 = 1030 ∧ onTag.poisonMode.getLsbD (onTag.homeRegion (1024 * 32)) = false ∧ onTag.secPoisoned 1024 = false ∧
    (onTag.secPoisoned 1030 = true ∧ (List.range 32).all (fun o => ((List.range 32).map (fun i => (i, (0 : Byte)))).any (fun x => x.1 = o)) = true) ∧
    onTag.deadMarks.count 1024 ≤ 1 := by decide +kernel

/-- `SPEC_BEGIN` over one range of two lines, listed at 0x6000; the epoch it opens; `SPEC_COMMIT` keeping 32 bytes of it; `SPEC_ABORT`. -/
def specCmd : Cmd := cmd (.tenant 0 0) (packet 64 [(0, 1, 0x30), (16, 8, 0x6000), (24, 4, 1)])
def commit : Cmd := cmd (.tenant 0 0) (packet 64 [(0, 1, 0x31), (16, 4, 1), (24, 8, 0x7000)])
def abort : Cmd := cmd (.tenant 0 0) (packet 64 [(0, 1, 0x32), (16, 4, 1)])
def epoch : Epoch :=
  { num := 1, st := .opened, ranges := [(0x8000, 512)], lines := [(0, 0, 128), (0, 256, 129)], shadow := [], touched := [], poison := [], keep := [] }
def onSpec (es : List Epoch) (c : Cmd) : State :=
  { stored (stored (on.updCtx c0 (fun x => { x with epochs := es })) 0x6000 (packet 16 [(0, 8, 0x8000), (8, 8, 512)])) 0x7000 (leBytes 32 8) with
    cmds := [c] }

theorem witness_SpeculationRules_begin :
    let s := onSpec [] specCmd
    s.begun? 9 0x30 = some specCmd ∧ s.cmdCtx specCmd = some c0 ∧ s.ctx? c0 = some ctx ∧ specCmd.pointer 16 = true ∧ 1 ≤ specCmd.field 24 4 ∧ specCmd.field 24 4 ≤ 4096 ∧ specCmd.zero 28 64 = true ∧
    s.rangeBad 0 specCmd.since .read (specCmd.field 16 8) (16 * specCmd.field 24 4) = none ∧
    ((splitRange 0x6000 16).map (fun p => s.listPiece specCmd c0 p.1 p.2)).foldl ListRead.join (.ok [] 0)
      = .ok (packet 16 [(0, 8, 0x8000), (8, 8, 512)]) 0 ∧
    rangeList (packet 16 [(0, 8, 0x8000), (8, 8, 512)]) 1 = [(0x8000, 512)] ∧ s.newChoice.rangeListBad 0 specCmd.since [(0x8000, 512)] = none ∧
    s.newChoice.epochLines 0 specCmd.since [(0x8000, 512)] = epoch.lines ∧ sharedLine epoch.lines = false ∧ [128, 129].any (fun l => s.inOpenEpoch l) = false ∧
    (ctx.epochs.filter (fun e => e.st != .closed)).length < 4 ∧ openBytes ctx.epochs + 512 ≤ 2 ^ 26 ∧ s.newChoice.noShadow 0 [128, 129] = none := by
  decide +kernel

theorem witness_SpeculationRules_end :
    (let s := onSpec [epoch] commit
     s.begun? 9 0x31 = some commit ∧ s.cmdCtx commit = some c0 ∧ s.openNamed c0 commit = some epoch ∧ commit.zero 20 24 = true ∧
     commit.pointer 24 = true ∧ commit.zero 32 64 = true ∧ s.rangeBad 0 commit.since .read (commit.field 24 8) 8 = none ∧
     ((splitRange 0x7000 8).map (fun p => s.listPiece commit c0 p.1 p.2)).foldl ListRead.join (.ok [] 0) = .ok (leBytes 32 8) 0 ∧
     ((keepList (leBytes 32 8) 1).zip epoch.ranges).all (fun p => p.1 % 32 = 0 && decide (p.1 ≤ p.2.2)) = true) ∧
    (let s := onSpec [epoch] abort
     s.begun? 9 0x32 = some abort ∧ s.openNamed c0 abort = some epoch ∧ abort.zero 20 64 = true ∧ s.epochOf c0 (1024 / 8) = some epoch) := by
  decide +kernel

/-! ## Collectives -/

/-- Group 3: this module with region 0 and module 1 with region 4, reached through port 0. -/
def group : Group :=
  { id := 3, inst := 0, rank := 0, timeoutMs := 100, members := [(0, 0), (1, 4)], seq := 0, broken := none, coll := none, held := [], beaconAt := 0 }
def alone : Group := { group with members := [(0, 0)] }
def live : Port := { Port.reset with st := .live, inc := 1, peerPkg := 1, peerValid := true, peerReady := true, heard := true, peerInc := 5 }
def onFx (g : Group) (cs : List Cmd) : State :=
  { on with cmds := cs, fx := { on.fx with ports := live :: List.replicate 15 Port.reset, routes := [(1, 0x80)], groups := [g] } }
def collective (op : Byte) (n : Nat) : Cmd :=
  cmd (.tenant 0 0) (packet 64 [(0, 1, op.toNat), (16, 2, 3), (24, 8, n), (32, 8, 0x8000), (40, 8, 0x9000)])

theorem witness_CollectiveRules_enter : ∀ p ∈ [((0x20 : Byte), 8), (0x21, 8), (0x22, 8), (0x23, 8), (0x24, 0)],
    let c := collective p.1 p.2
    let s := onFx group [c]
    s.cmd? 9 = some c ∧ c.opcode = p.1.toNat ∧ c.phase = .begun ∧ s.engineRuns c.q = true ∧ s.cmdCtx c = some c0 ∧ s.group? (c.field 16 2) = some group ∧
    group.inst = 0 ∧ firstFail (c.collChecks (some group)) = none ∧ s.rangeBad 0 c.since .read (c.field 32 8) (c.srcLen 0) = none ∧
    s.rangeBad 0 c.since .write (c.field 40 8) (c.dstLen 2 0) = none ∧
    s.stageBad 0 c = none ∧ s.shardOnHost 0 c group = none ∧ group.broken = none ∧ group.coll = none ∧ s.unreachable group = none ∧
    { c with phase := .active }.phase = .active ∧ s.engineDown c = false ∧
    ({ s with rs := { on.rs with ready := 0 } } : State).engineDown c = true ∧ ({ s with rs := { on.rs with ready := 0 } } : State).engineRuns c.q = true := by decide +kernel

def barrier : Cmd := { collective 0x24 0 with phase := .active }
def running (arrived : List Nat) : Coll :=
  { cid := 9, seq := 0, hdr := collHdr barrier 0 0 0, entered := 10000000000, restart := 10000000000, beacons := false, came := 10000000000, arrived := arrived, got := []
    finals := [], sends := [] }
def onColl (k : Coll) : State := onFx { group with coll := some k } [barrier]

theorem witness_CollectiveRules_end :
    (∀ a ∈ [[0], [0, 1]], let s := onColl (running a)
      s.cmd? 9 = some barrier ∧ s.cmdServed barrier = true ∧ barrier.phase = .active ∧ s.engineRuns barrier.q = true ∧ 0x20 ≤ barrier.opcode ∧ barrier.opcode ≤ 0x24 ∧
      s.collOf 9 = some ({ group with coll := some (running a) }, running a)) ∧
    (onColl (running [0, 1])).collDone barrier { group with coll := some (running [0, 1]) } (running [0, 1]) = true ∧
    (onColl (running [0])).collDone barrier { group with coll := some (running [0]) } (running [0]) = false ∧
    barrier.missing group (running [0]) = true ∧ barrier.missing group (running [0, 1]) = false ∧
    (running [0]).restart + 100 * 1000000 ≤ on.time ∧ (running [0]).entered + 10000000000 = on.time ∧ (1 : Nat) ≤ 2 ∧
    (onFx { group with broken := some 1 } [collective 0x24 0]).group? 3 = some { group with broken := some 1 } := by decide +kernel

/-- An arrival flit that was refused with `HELD_FULL` and is due. -/
def refused : Txn :=
  { port := 0, num := 4, owner := .coll 9 (collHdr barrier 0 0 0) [], dst := 1, addr := 0, since := 0, first := 0, resendAt := some 20000000000 }
def onRefused : State := { onColl (running [0]) with fx := { (onColl (running [0])).fx with txns := [refused] } }
theorem witness_CollectiveRules_resend :
    onRefused.fx.txns.find? (fun t => t.port = 0 && t.num = 4) = some refused ∧ refused.resendAt = some onRefused.time ∧
    onRefused.cmd? 9 = some barrier ∧ onRefused.collOf 9 = some ({ group with coll := some (running [0]) }, running [0]) ∧
    (match (onRefused.endTxn 0 4).collSend barrier group (running [0])
        ((group.members.zipIdx.find? (fun m => m.1.1 = refused.dst)).elim 0 (fun m => m.2)) 0 [] with
      | .ok _ => true
      | _ => false) = true := by decide +kernel

/-! ## Manager commands -/

/-- A state whose admin command is begun, with bytes at 0x200000, outside every grant. -/
def adm (c : Cmd) (bs : List Byte) : State := { stored on 0x200000 bs with cmds := [c] }
def mgr (fs : List (Nat × Nat × Nat)) : Cmd := cmd .admin (packet 64 fs)

/-- A creation record: one slot on core 1, 64 MiB in block 1, one queue, one context. -/
def record : List Byte :=
  packet 160 [(0, 8, 1 + 2 ^ 16 + 2 ^ 24 + 2 ^ 32), (8, 8, 2 ^ 30), (0x10, 8, 0x100), (64, 8, 1 + 4 * 2 ^ 8 + 4 * 2 ^ 17), (72, 8, 2 ^ 30),
              (80, 8, 2 ^ 26), (88, 8, 2 ^ 30 + 0x10000), (96, 8, 2 ^ 30 + 0x20000), (104, 8, 6 + 6 * 2 ^ 5), (152, 8, 1000 * 2 ^ 32)]
def create : Cmd := mgr [(0, 1, 0x80), (16, 8, 0x200000), (24, 4, 160)]

theorem witness_InstanceCreates :
    let s := stored (adm create record) (2 ^ 30) (List.replicate 8 0)
    let t := s.useRange 9 0x200000 160
    mgrBegun s 9 0x80 create ∧ create.field 16 8 < 2 ^ 42 ∧ create.zero 28 64 = true ∧ 64 ≤ create.field 24 4 ∧
    mgrUsable s true (create.field 16 8) (create.field 24 4) ∧ recLen (t.homeBytes 0x200000 64) = 160 ∧ t.homeBytes 0x200000 160 = record ∧
    t.recordOk record 160 = true ∧ t.poolBad record = none ∧
    (t.makeInst record).ringLines t.freeInst = [] ∧ (0 < 4096 ∧ ∀ i ∈ on.insts, i.id ≠ 1) := by decide +kernel

def mgrOf (op : Nat) (fs : List (Nat × Nat × Nat)) : Cmd := mgr ((0, 1, op) :: fs)
theorem witness_InstanceEndRules :
    (∀ op ∈ [0x82, 0x83, 0x81], let c := mgrOf op []
      mgrBegun (with' [c]) 9 op c ∧ ((with' [c]).inst? (c.field 16 2)).isSome = true ∧ c.zero 18 64 = true ∧ c.byte 18 = 0) ∧
    (let c := { mgrOf 0x82 [] with phase := .active, start := 19000000000 }
     let s := with' [cmd (.tenant 0 0) [1] |> fun d => { d with cid := 8 }, c]
     s.cmd? 9 = some c ∧ c.opcode = 0x82 ∧ c.start + 1000000000 = s.time ∧ s.instInFlight (c.field 16 2) ≠ []) ∧
    (let c := { mgrOf 0x81 [] with phase := .active, mark := on.time - 150000 }
     (with' [c]).cmd? 9 = some c ∧ c.opcode = 0x81 ∧ c.herdRan = false ∧ c.mark + 150000 = on.time) ∧
    (let c := mgrOf 0x83 [(18, 1, 1)]
     mgrBegun (with' [c]) 9 0x83 c ∧ c.byte 18 = 1 ∧ (with' [c]).ringLines (c.field 16 2) = [] ∧ ((with' [c]).ctx? { inst := c.field 16 2, ctx := c.byte 19 }).isSome = true ∧ c.zero 20 64 = true) := by
  decide +kernel

theorem witness_QueriesAnswer :
    (let c := mgrOf 0x84 [(24, 8, 0x200000)]
     mgrBegun (with' [c]) 9 0x84 c ∧ (with' [c]).inst? (c.field 16 2) = some inst ∧ c.zero 18 24 = true ∧ c.zero 32 64 = true ∧
     mgrUsable (with' [c]) false 0x200000 256) ∧
    (∀ op ∈ [0x99, 0xA1], let c := mgrOf op [(24, 8, 0x200000)]
     mgrBegun (with' [c]) 9 op c ∧ c.zero 16 24 = true ∧ c.field 24 8 = 0x200000 ∧ c.zero 32 64 = true ∧ mgrUsable (with' [c]) false 0x200000 64) ∧
    (let c := mgrOf 0x91 [(16, 1, 63), (24, 8, 0x200000)]
     let s := { with' [c] with health := { on.health with fenced := 1 <<< 63 } }
     mgrBegun s 9 0x91 c ∧ c.byte 16 < 64 ∧ c.zero 17 24 = true ∧ c.zero 32 64 = true ∧ s.coreFenced (c.byte 16) = true ∧
     mgrUsable s false 0x200000 64 ∧ diagnosable 1 0 0 0 500000 = true ∧ diagnosable 3 1 0 0 0 = true) ∧
    (let c := mgrOf 0xA2 [(16, 2, 0x8001)]
     mgrBegun (with' [c]) 9 0xA2 c ∧ c.zero 18 64 = true ∧ on.lc.st = 2#3 ∧ ({ on.lc with st := 1 } : Lc).st ≠ 2#3 ∧
     ({ on.lc with st := 1 } : Lc).st ≠ 4#3) := by decide +kernel

/-- A record that changes the stall period only. -/
def change : List Byte := packet 16 [(0, 8, 2 ^ 18), (8, 4, 100)]
def stage : Cmd := mgrOf 0x88 [(16, 8, 0x200000), (24, 4, 16)]
def staged : Change := changeOf change 1
theorem witness_ConfigurationRules_stage :
    let s := adm stage change
    let t := s.useRange 9 0x200000 16
    mgrBegun s 9 0x88 stage ∧ stage.field 16 8 < 2 ^ 42 ∧ stage.zero 28 64 = true ∧ 16 ≤ stage.field 24 4 ∧ mgrUsable s true 0x200000 16 ∧
    cfgLen (t.homeBytes 0x200000 16) = 16 ∧ t.homeBytes 0x200000 16 = change ∧ t.cfgOk change 16 = true ∧
    t.changeBusy (changeOf change t.cf.nextToken) [] = false ∧ cfgPlaces change = [] ∧
    (match t.placed change with
      | .ok ps => ps == []
      | .error _ => false) = true := by decide +kernel

def withCf (cf : Cf) (c : Cmd) : State := { on with cf := cf, cmds := [c] }
theorem witness_ConfigurationRules_apply :
    (let c := mgrOf 0x89 [(16, 4, 1)]
     let s := withCf { on.cf with staged := some staged } c
     mgrBegun s 9 0x89 c ∧ s.cf.staged = some staged ∧ staged.token = c.field 16 4 ∧ c.zero 20 64 = true ∧ s.cf.applying = none ∧
     s.changeBusy staged (staged.places.map (fun p => p.block)) = false) ∧
    (let s := { on with cf := { on.cf with applying := some staged, pendingRegions := 0x8000 } }
     s.cf.applying = some staged ∧ 15 < 16 ∧ s.running = true ∧ s.cf.pendingRegions.getLsbD 15 = true) ∧
    (let c := mgrOf 0x8A [(16, 4, 1)]
     mgrBegun (with' [c]) 9 0x8A c ∧ c.zero 20 64 = true ∧ (some staged).elim false (fun ch => ch.token = c.field 16 4) = true ∧
     on.cf.applying = none ∧ on.cf.staged = none ∧ c.field 16 4 ≠ 0 ∧ ({ on.cf with token := 1 } : Cf).token.toNat = c.field 16 4) := by
  decide +kernel

theorem witness_FenceAndCapRules :
    (let c := mgrOf 0x90 [(16, 1, 63)]
     mgrBegun (with' [c]) 9 0x90 c ∧ c.byte 16 < 64 ∧ c.zero 17 64 = true ∧ (with' [c]).coreFenced 63 = false ∧ (with' [c]).coreEnabled 63 = true ∧
     on.cf.applying = none ∧ ({ on with health := { on.health with fenced := 1 <<< 63 } } : State).coreFenced 63 = true ∧
     ({ on with fuse := { on.fuse with coreEn := 1 } } : State).coreEnabled 63 = false) ∧
    (∀ w ∈ [1500, 4000], let c := mgrOf 0x98 [(16, 2, w)]
     mgrBegun (with' [c]) 9 0x98 c ∧ 1500 ≤ c.field 16 2 ∧ c.field 16 2 ≤ 4000 ∧ c.byte 18 = 0 ∧ c.zero 19 64 = true) ∧
    (let c := mgrOf 0x98 [(16, 2, 4000), (18, 1, 1)]
     c.byte 18 = 1 ∧ c.field 16 2 = 4000) ∧
    (mgrOf 0x98 [(16, 2, 1499)]).field 16 2 < 1500 ∧ 4000 < (mgrOf 0x98 [(16, 2, 4001)]).field 16 2 := by decide +kernel

def advance : Cmd := mgrOf 0xA0 [(16, 1, 3), (24, 8, 0x200000), (32, 4, 288)]
theorem witness_LifecycleTransitions :
    (mgrBegun (with' [mgrOf 0xA0 [(16, 1, 5)]]) 9 0xA0 (mgrOf 0xA0 [(16, 1, 5)]) ∧ 4 < (mgrOf 0xA0 [(16, 1, 5)]).byte 16) ∧
    (mgrBegun (adm advance (List.replicate 288 0)) 9 0xA0 advance ∧ advance.byte 16 ≤ 4 ∧ advance.zero 17 24 = true ∧ advance.field 24 8 < 2 ^ 42 ∧
      advance.field 32 4 = 288 ∧ advance.zero 36 64 = true ∧ mgrUsable (adm advance (List.replicate 288 0)) true 0x200000 288 ∧
      authLegal (List.replicate 288 0) = true ∧ authLegal (packet 288 [(1, 1, 2)]) = false) ∧
    lcKey on.lc.st.toNat 3 = some 1 ∧ on.cf.applying = none ∧ lcKey on.lc.st.toNat 1 = none ∧
    (let c := { advance with phase := .ended 0 0 }
     let s := { on with cmds := [c] }
     s.cmd? 9 = some c ∧ c.q = .admin ∧ c.opcode = 0xA0 ∧ (s.queue? .admin).isSome = true ∧ on.mg.queue.st = .disabled ∧
     ({ on.mg.queue with st := .running } : Queue).st ≠ .ringFault ∧ bit c.flags 1 = false ∧ bit c.flags 2 = false ∧ (1 : Nat) ≠ 0) := by decide +kernel

/-- One pass of channel 31 of stack 15, in a module without instances and with one Hamper way in every half; the record and the table lie in
the Hamper window, on no channel. -/
def ramble : Cmd := mgrOf 0xA8 [(16, 8, 2 ^ 40), (24, 8, 2 ^ 40 + 0x10000)]
def rambleRec (mask passes : Nat) : List Byte := packet 128 [(0, 64, mask), (0x40, 4, passes * 2 ^ 16)]
def onRamble (mask passes : Nat) : State :=
  { on with insts := [], cmds := [ramble], mem := writeBytes [] (2 ^ 40) (rambleRec mask passes)
            cf := { on.cf with regions := List.replicate 16 { RegionCfg.reset with h := 1 } } }
theorem witness_RamblerRules :
    let s := onRamble (2 ^ 511) 1
    let t := s.useRange 9 (2 ^ 40) 128
    let bs := rambleRec (2 ^ 511) 1
    mgrBegun s 9 0xA8 ramble ∧ ramble.zero 32 64 = true ∧ mgrUsable s true (2 ^ 40) 128 ∧ mgrUsable t false (2 ^ 40 + 0x10000) 16384 ∧
    t.homeBytes (2 ^ 40) 128 = bs ∧ rambleOk bs = true ∧ t.rambleTime bs ≤ 9000 ∧
    (mgrSectors (2 ^ 40) 128 ++ mgrSectors (2 ^ 40 + 0x10000) 16384).any (fun sec => t.onChannels (2 ^ 511) (sec * 32)) = false ∧
    t.channelBusy (2 ^ 511) = false ∧ t.stackHot (2 ^ 511) = false ∧ bits (fld bs 0x40 4) 31 16 ≠ 0 ∧
    fld (rambleRec 0 1) 0 64 = 0 ∧ bits (fld (rambleRec (2 ^ 511) 0) 0x40 4) 31 16 = 0 := by decide +kernel

theorem witness_RamblerRules_end :
    let r : Rambler := { cid := 9, channels := 1 <<< 511, op := 0, pattern := 0, seed := 0, passes := 1, raw := false, started := 0, lasts := 100
                         inOrder := false, stopped := 0, found := [] }
    let s := { onRamble (2 ^ 511) 1 with rambler := some r }
    s.rambler = some r ∧ s.cmd? 9 = some ramble ∧ r.started + r.lasts * 100000 ≤ s.time ∧ r.channels &&& ~~~({ r with stopped := 1 <<< 511 } : Rambler).stopped = 0#512 ∧
    s.clocked = true ∧ s.time < r.started + ({ r with lasts := 200001 } : Rambler).lasts * 100000 ∧ r.channels &&& ~~~r.stopped ≠ 0#512 := by
  decide +kernel

/-- A firmware image of one byte. -/
def image : List Byte := packet 161 [(0, 2, 1), (2, 1, 1), (8, 4, 1)]
def stageFw : Cmd := mgrOf 0xB0 [(16, 8, 0x200000), (24, 4, 161)]
theorem witness_FirmwareRules :
    (let s := adm stageFw image
     mgrBegun s 9 0xB0 stageFw ∧ stageFw.field 24 4 ≠ 0 ∧ stageFw.zero 28 64 = true ∧ mgrUsable s true 0x200000 161 ∧
     (s.useRange 9 0x200000 161).homeBytes 0x200000 161 = image ∧ imageOk image 161 = true ∧ (s.useRange 9 0x200000 161).imageAllowed image = true ∧ imageOk (packet 161 []) 161 = false ∧
     ({ s with fuse := { s.fuse with fwSvn := 1 } } : State).imageAllowed image = false) ∧
    (let c := mgrOf 0xB1 []
     mgrBegun (with' [c]) 9 0xB1 c ∧ c.zero 16 64 = true ∧ on.lc.heldType = 0#2 ∧ ({ on.lc with heldType := 1 } : Lc).heldType ≠ 0#2 ∧
     on.cf.applying = none) := by decide +kernel

/-- Routes of packages 4094 and 4095; a group of this module and module 1. -/
def routes : Cmd := mgrOf 0xC0 [(16, 8, 0x200000), (24, 2, 4094), (26, 2, 2)]
def groups : Cmd := mgrOf 0xC1 [(16, 8, 0x200000), (24, 4, 72)]
def groupRec : List Byte := packet 72 [(0, 4, 5), (4, 4, 2), (8, 4, 10000), (68, 4, 1 + 4 * 2 ^ 12)]
theorem witness_FabricTableRules :
    (let s := adm routes (leBytes 0x80 8 ++ leBytes 0x81 8)
     mgrBegun s 9 0xC0 routes ∧ routes.field 24 2 < 4096 ∧ routes.field 24 2 + routes.field 26 2 ≤ 4096 ∧ routes.zero 28 64 = true ∧
     mgrUsable s true 0x200000 16 ∧
     (let t := s.useRange 9 0x200000 16
      ((List.range 2).map (fun k => (4094 + k, leNat (t.homeBytes (0x200000 + 8 * k) 8)))).all (fun e => t.routeOk e.1 e.2) = true)) ∧
    (let s := adm groups groupRec
     let t := s.useRange 9 0x200000 72
     mgrBegun s 9 0xC1 groups ∧ groups.zero 28 64 = true ∧ 64 ≤ groups.field 24 4 ∧ mgrUsable s true 0x200000 72 ∧
     t.homeBytes 0x200000 (min 72 (64 + 4 * bits (leNat (t.homeBytes (0x200000 + 4) 4)) 12 0)) = groupRec ∧ t.descOk groupRec 72 = true ∧
     (t.group? (descGroup groupRec).id).elim false (fun x => x.coll.isSome) = false) := by decide +kernel

/-! ## Homes, HBM, thermal steps -/

def lane (n pa : Nat) : LaneAcc := { lane := n, va := pa, pa := pa, size := 4, data := 1, cmp := 0 }
def req (k : ReqKind) : Req := herdReq 5 5 r0 herd k .home 128 [lane 0 0x8000, lane 31 0x8004]
def onReq (k : ReqKind) : State := { onTag with reqs := [req k] }
/-- The line of the request lies in HBM alone. -/
def unread : State := { on with reqs := [req .read] }
/-- What a half may meet in its SRAM. -/
def errs : List LlcErr := [.none, .corrected, .dataUncorrectable, .tagsUncorrectable 3]
/-- On its way, with its home held in reset; in its bank's queue, alone; with 32 requests before it there; behind one of its path; and with
a message of another module that is held for its sector. -/
theorem witness_BankRules_queues :
    (let s := { onReq .read with rs := { on.rs with ready := 0 } }
     s.queued? 5 = some (req .read) ∧ s.running = true ∧ (bankRowOf (req .read).kind).isSome = true ∧ s.homeUp (req .read).line = false ∧
     s.pathClear (req .read) = true) ∧
    (∀ e ∈ errs, let s := { onReq .write with bankq := [5] }
      s.queued? 5 = some (req .write) ∧ s.homeUp (req .write).line = true ∧ s.bankq.contains 5 = true ∧ (bankTakes s (req .write) e).bankq.contains 5 = true) ∧
    ((bankRowOf (req (.add 0 0)).kind).isSome = true ∧ (bankRowOf (req (.declare true)).kind).isSome = true) ∧
    (∀ e ∈ errs, bankComes (onReq .read) 5 (req .read) ∧ (bankTakes (onReq .read) (req .read) e).bankq.contains 5 = false ∧
      (bankTakes (onReq .read) (req .read) e).pathClear (req .read) = true ∧
      ((bankTakes (onReq .read) (req .read) e).bankQueue (req .read).line).length < 32 ∧
      (bankTakes (onReq .read) (req .read) e).ingressHeld (req .read) = false ∧
      (req .read).sectors.any (fun sec => (bankTakes (onReq .read) (req .read) e).inboundAt sec) = false) ∧
    (let s := { onTag with bankq := (List.range 32).map (fun n => n + 10)
                           reqs := (List.range 32).map (fun n => { req .read with rid := n + 10, pos := 1 }) ++ [req .read] }
     bankComes s 5 (req .read) ∧ 32 ≤ ((bankTakes s (req .read) .none).bankQueue (req .read).line).length) ∧
    (let s := { onTag with reqs := [{ req .write with rid := 4 }, req .read] }
     s.queued? 5 = some (req .read) ∧ s.bankq.contains 5 = false ∧ s.pathClear (req .read) = false) ∧
    (let s := { onReq .read with fx := { on.fx with inbound := [{ port := 0, msg := { Msg.to 1 0 with addr := 0x8000, nsect := 1 }, data := [], lastPending := 0, missed := true }] } }
     bankComes s 5 (req .read) ∧ (req .read).sectors.any (fun sec => (bankTakes s (req .read) .none).inboundAt sec) = true) := by decide +kernel

/-- A bank performs the request as it arrives. -/
def performs (s : State) (x : Req) (e : LlcErr) : Bool := decide (bankReady s 5 0 x e)

theorem witness_BankRules :
    (∀ k ∈ [ReqKind.read, .operand 7, .write, .atomic 0 4, .add 0 0], ∀ e ∈ errs, performs (onReq k) (req k) e = true) ∧
    performs (onReq (.declare true)) (req (.declare true)) .none = true ∧ (req .read).stream = false ∧
    (∀ e ∈ errs, performs { onTag with reqs := [{ req .read with stream := true }] } { req .read with stream := true } e = true) := by decide +kernel

theorem witness_BankRules_performs :
    (∀ k ∈ [ReqKind.read, .atomic 0 4], ∀ e ∈ [LlcErr.none, .corrected],
      (req k).fault ((req k).sectors.map (fun sec => (sec, (banked (onReq k) (req k) e).ctxReadSector c0 sec))) = none) ∧
    (∀ e ∈ [LlcErr.none, .corrected], ∀ sec ∈ (req (.add 0 0)).sectors,
      (banked (onReq (.add 0 0)) (req (.add 0 0)) e).ctxReadSector c0 sec ≠ .deadFatal ∧
      (banked (onReq (.add 0 0)) (req (.add 0 0)) e).ctxReadSector c0 sec ≠ .poison) ∧
    ((onReq .read).reqs.all (fun y => y.rid != 5 || y = req .read)) = true := by decide +kernel

/-- A line in HBM alone; another read of its line waits; a store whose way a held stack keeps; a group with no entries. -/
theorem witness_BankRules_misses :
    (∀ k ∈ [ReqKind.read, .write], let s := { on with reqs := [req k] }
      bankArrives s 5 (req k) .none ∧ (atBank s (req k) .none).reqMisses (req k) = true ∧
      (atBank s (req k) .none).entriesFull ((atBank s (req k) .none).homeRegion ((req k).line * 256))
        ((atBank s (req k) .none).bwgOf (some (req k).inst)) = false) ∧
    (let s := { onTag with reqs := [{ req .read with rid := 4, phase := .hbm }, req .read] }
     bankArrives s 5 (req .read) .none ∧ (atBank s (req .read) .none).behindMiss (req .read) = true ∧
     ({ s with hbmEntries := [{ line := 128, waiters := [4], since := 0, cls := 1, grp := 0, inst := some 0, entered := some 0, stream := false }] }
       : State).hbmEntries.any (fun e => e.line = (req .read).line) = true) ∧
    (let s := { unread with cf := { unread.cf with regions := List.replicate 16 { RegionCfg.reset with shares := List.replicate 64 ⟨0, 0, 0⟩ } } }
     bankComes s 5 (req .read) ∧ (bankTakes s (req .read) .none).bankq.contains 5 = false ∧
     (bankTakes s (req .read) .none).ingressHeld (req .read) = true) := by decide +kernel

def entry : HbmEntry :=
  { line := 128, waiters := [5], since := 0, cls := 1, grp := 0, inst := some 0, entered := some 0, stream := false }
def waiting : State := { on with reqs := [{ req .read with phase := .hbm }], hbmEntries := [entry] }
def served : Req := { req .read with phase := .served [(0, 7)] 0xFF 7 }
def streaming : Req := { req .read with stream := true }
theorem witness_HbmReadServes :
    (waiting.hbmEntries.find? (fun e => e.line = 128) = some entry ∧ waiting.running = true ∧ waiting.canIssue entry.read = true ∧
      waiting.allocHeld entry.inst 128 0 = false ∧ (∀ x ∈ waiting.waitersOf entry, x.streamOf 128 = false) ∧ waiting.waitersOf entry ≠ []) ∧
    ({ entry with entered := none } : HbmEntry).entered = none ∧
    (({ waiting with hbm := List.replicate 16 { Stack.reset with step := 3 } } : State).stack (waiting.homeRegion (128 * 256))).step = 3#3 ∧
    ([served].filter (fun y => y.core = 0 && y.line = 128 && y.fetches && (!y.blocked || y.target != .home)
      && !({ on with reqs := [served] } : State).fillHeld y.rid && (match y.phase with
        | .served _ _ _ => true
        | _ => false)) = [served] ∧ served.target = .home ∧ served.kind = .read ∧ ({ on with reqs := [served] } : State).joinedTo served.rid = []) ∧
    ([streaming].find? (fun y => y.core = 0 && y.owesCredit) = some streaming ∧ (on.core 0).landing ≠ 0 ∧ on.clocked = true) := by decide +kernel

/-- The first sector of a stack's memory, which is read for scrubbing; another read of its pseudo-channel, of class 0, goes before. -/
def scrub : HbmRead := { scrub := true, sec := 1024, cls := 3, since := 20000000000, entered := some 20000000000 }
def home0 : Nat := on.homeRegion 0x8000
theorem witness_StackRules :
    (on.outOfCold = true ∧ (on.stack home0).trained = true ∧ (on.stack home0).step ≠ 3#3 ∧ on.scrubEn = true ∧ on.homedHbm home0 (1024 * 32) = true) ∧
    (let u := on.askScrub home0 1024
     (u.stack home0).scrubs.find? (fun r => r.sec = 1024) = some scrub ∧ u.canIssue scrub = true ∧ u.pcFailed (1024 * 32) = false ∧
     u.poisonMarks.contains 1024 = false ∧ u.inWq 1024 = false ∧ ({ u with poisonMarks := [1024] } : State).poisonMarks.contains 1024 = true) ∧
    (({ on with hbmEntries := [{ entry with cls := 0 }] } : State).askScrub home0 1024).canIssue scrub = false ∧
    ({ on with hbm := List.replicate 16 { Stack.reset with trained := true, pcFail := BitVec.allOnes 64 } } : State).pcFailed (1024 * 32) = true ∧
    ({ on with hbm := List.replicate 16 { Stack.reset with trained := true, wq := [1024] } } : State).inWq 1024 = true ∧
    ((on.askScrub home0 1024).corrected 1024).poisonMarks.contains 1024 = false ∧ home0 < on.hbm.length ∧
    (let s := { on with hbm := List.replicate 16 { Stack.reset with sticky := true } }
     s.rs.warm = false ∧ s.regionHold 15 = false ∧ (s.stack 15).trained = false ∧ (s.stack 15).sticky = true) ∧
    (on.homedHbm 0 (2 ^ 41) = false) := by decide +kernel

def held : State := { on with hbm := List.replicate 16 { Stack.reset with trained := true, step := 3, heldSince := 0 } }
/-- A `PREFETCH` that began to wait for a held stack 10 s ago. -/
def late : Cmd := { cmd (.tenant 0 0) (packet 64 [(0, 1, 0x2A), (16, 8, 0x8000), (24, 8, 1)]) with
  phase := .active, heldFrom := some 10000000000, todo := linePieces [128] }
theorem witness_ThermalRules :
    (hbmStep 0 80 = 0 ∧ (0 : Nat) ≤ 3) ∧ (hbmStep (on.stack 15).step.toNat 85 = (on.stack 15).step.toNat ∧ (on.stack 15).step ≠ 3#3) ∧ 110 < 111 ∧
    (let s := { held with cmds := [late] }
     s.cmd? 9 = some late ∧ s.running = true ∧ late.opcode ∈ [0x18, 0x19, 0x1A, 0x2A, 0x2B, 0x28, 0x29, 0x20, 0x21, 0x22, 0x23, 0x24] ∧
     10000000000 + 10000000000 ≤ s.time ∧ s.time < 10000000001 + 10000000000 ∧ ({ late with heldFrom := none } : Cmd).heldFrom = none) ∧
    (∀ op ∈ [(0x18 : Byte), 0x20], { late with pkt := [op] }.opcode = op.toNat) ∧
    (∀ x ∈ [(0, 90, 1), (1, 70, 0), (1, 96, 2), (2, 106, 3), (3, 100, 2), (3, 106, 3)], hbmStep x.1 x.2.1 = x.2.2) := by decide +kernel

/-! ## The fabric -/

/-- A message of module 1 for group 3. -/
def msg (typ : Nat) (m : Msg → Msg) : Msg :=
  m { Msg.to typ 0 with srcPkg := 1, txn := 4, groupId := 3 }
def ask (typ : Nat) : Msg := msg typ (fun m => { m with addr := 0x8000, nsect := 1, firstMask := 0xFFFFFFFF, lastMask := 0xFFFFFFFF })

/-- A live port to module 1, and the line that it asks for in its half. -/
def onAsk : State := stored (onFx group []) 0x8000 (List.replicate 32 0)
theorem witness_FabricRequests :
    (∀ n ∈ [1, 2, 3, 4, 5], let t := taken onAsk 0 (ask n) []
      heard onAsk 0 (ask n) ∧ (ask n).typ = BitVec.ofNat 8 n ∧ t.fabricGrant (ask n) = .inl 0 ∧ t.msgWaits 0 (ask n) = false ∧
      t.behindInbound (ask n) = false ∧ (ask n).typ ∈ fabricRequestRows.map (fun p => p.1)) ∧
    (let s := onFx group []
     heard s 0 (ask 1) ∧ (taken s 0 (ask 1) []).fabricGrant (ask 1) = .inl 0 ∧ (taken s 0 (ask 1) []).msgWaits 0 (ask 1) = true ∧
     (taken s 0 { ask 1 with groupId := 4 } []).fabricGrant { ask 1 with groupId := 4 } = .inr 1) ∧
    (∀ st ∈ [PortState.up, .duplicate], let u := onAsk.updPort 0 (fun x => { x with st := st })
     u.outOfCold = true ∧ (u.port 0).st = st) ∧ (onAsk.port 15).st = .down := by decide +kernel

def far (k : ReqKind) : Req := { herdReq 5 5 r0 herd k .remote (2 ^ 34 + 128) [⟨0, 0x80008000, 2 ^ 42 + 0x8000, 4, 0, 0⟩] with dst := 2 }
def txn : Txn := { port := 0, num := 4, owner := .herd 5, dst := 1, addr := 0x8000, since := 0, first := 0, resendAt := none }
def onFar : State := { onFx group [] with reqs := [far .read], fx := { (onFx group []).fx with txns := [txn], txnTimeout := 20000 } }
def answer (typ status : Nat) : Msg := msg typ (fun m => { m with srcPort := 0, status := BitVec.ofNat 8 status, nsect := 1 })
/-- A contribution is on its way to module 1. -/
def onSent : State := { onFar with fx := { onFar.fx with txns := [{ txn with owner := .coll 9 (collHdr barrier 0 0 0) [] }] } }

theorem witness_FabricResponses :
    (∀ p ∈ [(0x10, 0), (0x11, 0), (0x12, 1), (0x12, 2), (0x12, 4), (0x13, 0)], let u := taken onFar 0 (answer p.1 p.2) []
      heard onFar 0 (answer p.1 p.2) ∧ u.answered 0 (answer p.1 p.2) = some txn ∧ txn.owner = .herd 5 ∧ u.reqOf 5 = some (far .read) ∧
      (answer p.1 p.2).typ = BitVec.ofNat 8 p.1 ∧ (answer p.1 p.2).status = BitVec.ofNat 8 p.2) ∧
    (answer 0x10 0).poisonMask.getLsbD 0 = false ∧ (answer 0x10 0).deadMask.getLsbD 0 = false ∧ (far .read).kind = .read ∧
    ({ answer 0x10 0 with poisonMask := 1 } : Msg).poisonMask.getLsbD 0 = true ∧ ({ answer 0x10 0 with deadMask := 1 } : Msg).deadMask.getLsbD 0 = true ∧
    onFar.deadchk (far .read).ctxRef = true ∧ (onFar.updCtx c0 (fun x => { x with deadchk := false })).deadchk (far .read).ctxRef = false ∧
    (heard onSent 0 (answer 0x12 5) ∧ (taken onSent 0 (answer 0x12 5) []).answered 0 (answer 0x12 5)
      = some { txn with owner := .coll 9 (collHdr barrier 0 0 0) [] } ∧ (answer 0x12 5).typ = 0x12#8 ∧ (answer 0x12 5).status = 5#8) ∧
    (onFar.fx.txns.find? (fun t => t.port = 0 && t.num = 4) = some txn ∧ txn.owner = .herd (far .read).rid ∧ txn.resendAt = none ∧
      txn.since + onFar.fx.txnTimeout.toNat * 1000000 = onFar.time) ∧
    (let i : Inbound := { port := 0, msg := ask 1, data := [], lastPending := 19999000000, missed := true }
     let s := { held with fx := { held.fx with inbound := [i] } }
     s.fx.inbound.find? (fun i => i.port = 0 && i.msg.srcPkg = 1 && i.msg.txn = 4) = some i ∧
     2#3 ≤ (s.stack (s.homeRegion i.msg.addr.toNat)).step ∧ i.lastPending + 1000000 = s.time) := by decide +kernel

def part (typ seq : Nat) : Msg × CollHdr :=
  (msg typ (fun m => if typ = 8 then { m with cmd := true, nsect := 1, firstMask := 0xFF, lastMask := 0xFF } else { m with cmd := true }),
   { collHdr barrier seq 1 0 with rank := 1 })
theorem witness_CollectiveMessages :
    (∀ n ∈ [8, 9], let s := taken (onFx group []) 0 (part n 0).1 []
      heard (onFx group []) 0 (part n 0).1 ∧ (part n 0).1.typ = BitVec.ofNat 8 n ∧
      s.group? (part n 0).1.groupId.toNat = some group ∧ group.members.any (fun x => x.1 = (part n 0).1.srcPkg.toNat) = true ∧
      group.broken = none ∧ group.coll = none ∧ group.seq = (part n 0).2.seq.toNat ∧ s.heldBytes 0 ≤ 2 ^ 20 ∧ s.regionDown 0 = false ∧
      ({ s with rs := { on.rs with ready := 0 } } : State).regionDown 0 = true) ∧
    group.seq ≠ (part 8 7).2.seq.toNat ∧
    (∀ n ∈ [8, 9], let s := taken (onColl (running [0])) 0 (part n 0).1 []
      heard (onColl (running [0])) 0 (part n 0).1 ∧ s.group? 3 = some { group with coll := some (running [0]) } ∧
      (running [0]).seq = (part n 0).2.seq.toNat ∧ hdrMatches (part n 0).2 (running [0]).hdr = true ∧
      hdrMatches { (part n 0).2 with opcode := 0x20 } (running [0]).hdr = false) ∧
    (∀ n ∈ [0x21, 0x22], let m := msg n (fun m => { m with status := 2 })
      heard (onColl (running [0])) 0 m ∧ (taken (onColl (running [0])) 0 m []).fromMember m = some { group with coll := some (running [0]) } ∧
      m.typ = BitVec.ofNat 8 n) ∧
    (taken (onFx group []) 0 (msg 0x22 (fun m => m)) []).fromMember (msg 0x22 (fun m => m)) = some group ∧
    (held.running = true ∧ 2#3 ≤ (held.stack 0).step) := by decide +kernel

/-- A flit but for its `CRC`. -/
def flit (f ftype : Nat) (nak : Bool) : Flit :=
  { payload := [], fseq := BitVec.ofNat 16 f, ack := 0, ftype := BitVec.ofNat 2 ftype, nak := nak, pool := 0, crPool := 1, crCount := 1, reserved := 0, crc := 0 }
/-- With its `CRC`, and with every bit of it wrong. -/
def whole (f : Flit) : Flit := { f with crc := crc64 (flitBytes f) }
def damaged (f : Flit) : Flit := { f with crc := ~~~crc64 (flitBytes f) }
theorem witness_LinkLayer_crc (f : Flit) : flitIntact (whole f) = true ∧ flitIntact (damaged f) = false := by
  refine ⟨decide_eq_true rfl, decide_eq_false (fun h => ?_)⟩
  have := congrArg (fun c => c.getLsbD 0) h
  simp [damaged, flitBytes] at this
theorem witness_LinkLayer :
    let s := onFx group []
    (s.portUp 0 = true ∧ (s.port 0).st ≠ .down ∧ (s.port 0).retraining = false) ∧
    (whole (flit 1 2 false)).fseq ≠ (s.port 0).rxNext ∧ (whole (flit 0 2 false)).fseq = (s.port 0).rxNext ∧
    (∀ b ∈ [false, true], flitLegal (whole (flit 0 2 b)) = true ∧ (whole (flit 0 2 b)).nak = b) ∧ flitLegal (whole (flit 0 3 false)) = false ∧
    8 ≤ ({ live with resends := List.replicate 8 1 } : Port).resends.length ∧
    (let u := s.updPort 0 (fun x => { x with retraining := true })
     u.portUp 0 = true ∧ (u.port 0).retraining = true) := by decide +kernel

/-- `n` flits discarded now. -/
theorem witness_LinkLayer_losses (s : State) (n : Nat) (h : 1000 < n) :
    1000 < ((List.replicate n s.time).filter (fun t => decide (s.time < t + oneSec))).length := by
  simp [oneSec, h]

def onPort (f : Port → Port) : State := (onFx group []).updPort 0 f
def beat (inc : Nat) (pkg : Nat) : Beat := { pkg := BitVec.ofNat 12 pkg, valid := true, ready := true, port := 0, inc := BitVec.ofNat 32 inc }
theorem witness_PortRules :
    (on.portUp 15 = true ∧ (on.port 15).en = true ∧ (on.port 15).st = .down ∧ (on.port 15).training = false) ∧
    (let s := onPort (fun x => { x with st := .down, training := true, trainSince := 19900000000 })
     s.portUp 0 = true ∧ (s.port 0).en = true ∧ (s.port 0).training = true ∧ portMode (s.port 0).rateCap 1 1 = none ∧
     portMode (s.port 0).rateCap 0x17 0 = some (false, false, 4) ∧ (s.port 0).trainSince + 100000000 = s.time) ∧
    ((0xF#5 &&& 0xF#5) = 0xF#5) ∧
    (let s := onPort (fun x => { x with lastBeat := 19999700000 })
     s.portUp 0 = true ∧ (s.port 0).st ≠ .down ∧ (s.port 0).retraining = false ∧ (s.port 0).heard = true ∧ (s.port 0).peerInc ≠ (beat 6 1).inc ∧
     (s.port 0).peerInc = (beat 5 1).inc ∧ (beat 5 1).pkg ≠ s.fx.pkgId ∧ (s.port 0).st = .live ∧ (s.port 0).unacked < 4096 ∧
     (s.port 0).lastBeat + 300000 = s.time) ∧
    (let s := onPort (fun x => { x with st := .up, heard := false, lastBeat := 19999700001 })
     (s.port 0).heard = false ∧ s.fx.valid = true ∧ (beat 6 0).valid = true ∧ (beat 6 0).pkg = s.fx.pkgId ∧ (s.port 0).st = .up ∧
     s.time < (s.port 0).lastBeat + 300000) ∧
    on.running = true ∧ on.fx.valid = true ∧ ({ on.fx with valid := false } : Fx).valid = false := by decide +kernel

/-- Request and command 5 are at risk now. -/
def risky (s : State) : State := { s with health := { s.health with atRisk := [(5, s.time)] } }
theorem witness_InternalFaultRules :
    (on.firmwareUp = true ∧ on.stopFailed 15 3 = false ∧ on.stopFailed 15 7 = false ∧ on.regionHold 15 = false) ∧
    (on.health.bridgeOos.getLsbD 11 = false ∧ on.health.rlinkOos.getLsbD (19 - 12) = false ∧
      ({ on.health with bridgeOos := 1 } : Health).bridgeOos.getLsbD 0 = true) ∧
    (let s := risky onFar
     s.health.atRisk.any (fun p => p.1 = 5 && decide (s.time ≤ p.2)) = true ∧ s.reqOf 5 = some (far .read) ∧
     onFar.health.atRisk.any (fun p => p.1 = 5 && decide (onFar.time ≤ p.2)) = false) ∧
    (let c := { cmd .admin (packet 64 []) with cid := 5, phase := .active }
     let s := risky { on with cmds := [c] }
     s.reqOf 5 = none ∧ s.cmd? 5 = some c ∧ s.health.atRisk.any (fun p => p.1 = 5 && decide (s.time ≤ p.2)) = true) := by decide +kernel

/-! ## Host interface, registers, sideband -/

/-- Two lines are in their halves; VF 1 has a posted write on its way. -/
def onBar : State := stored (stored on 0xFE0 (List.replicate 32 7)) 0x8000 (List.replicate 32 7)
def onPosted : State := { onBar with fx := { onBar.fx with txns := [{ txn with owner := .bar2Write 1 }] } }
theorem witness_Bar2Rules :
    (onBar.hostUp = true ∧ onBar.vfTakes 1 false = true ∧ Machine.barShape 0xFE0 32 = true ∧ onBar.postedOut 1 = false ∧
      onBar.bar2To 1 .read 0xFE0 32 = .home (some 0) 0xFE0 ∧ onBar.barWaits (some 0) 0xFE0 32 true = false ∧
      onBar.bar2To 1 .write 0xFE0 32 = .home (some 0) 0xFE0 ∧ onBar.barWaits (some 0) 0xFE0 32 false = false) ∧
    (onPosted.hostUp = true ∧ onPosted.vfTakes 1 false = true ∧ onPosted.postedOut 1 = true ∧ onPosted.bar2To 1 .write 0xFE0 32 = .home (some 0) 0xFE0 ∧
      onPosted.barWaits (some 0) 0xFE0 32 false = false) ∧
    (Machine.barShape 0x200000 4096 = true ∧ on.bar2To 0 .write 0x200000 32 = .home none 0x200000 ∧ on.barWaits none 0x200000 32 false = false ∧
      on.bar2To 0 .read (2 ^ 41) 32 = .none ∧ on.bar2To 0 .write (2 ^ 41) 32 = .none) ∧
    ({ on with host := { on.host with ready := false }, rs := { on.rs with boot := .starting } } : State).hostUp = false ∧
    (insecure.vfTakes 1 false = false ∧ (1 : Nat) ≠ 0 ∧ insecure.ideDrops 1 true = true ∧ insecure.drainPosted = insecure ∧ insecure.host.linkUp = true) ∧
    (onBar.drainPosted = onBar ∧ onPosted.drainPosted = onPosted ∧ onBar.ideDrops 1 false = false ∧ onBar.barWaits (some 0) 0x9000 32 true = true ∧
      onBar.bar2To 1 .read 0x9000 32 = .home (some 0) 0x9000 ∧ onBar.barWaits (some 0) 0x9000 8 false = true) ∧
    (let s := { onBar with host := { onBar.host with posted := [.bar2 1 0x8000 [1, 2]] } }
     s.running = true ∧ s.fx.txns = [] ∧ s.bar2To 1 .write 0x8000 2 = .home (some 0) 0x8000 ∧ s.barWaits (some 0) 0x8000 2 false = false) ∧
    (onBar.bar2To 1 .write 0x8000 8 = .home (some 0) 0x8000 ∧ (0x8000 : Word64).toNat % 8 = 0 ∧ onBar.secPoisoned (0x8000 / 32) = false ∧
      onBar.barWaits (some 0) 0x8000 8 true = false) ∧
    (let s := { onBar with poisonMarks := [0x8000 / 32], llc := { lineIn 0x80 with poison := 1 } :: on.llc }
     s.bar2To 1 .write 0x8000 8 = .home (some 0) 0x8000 ∧ s.barWaits (some 0) 0x8000 8 true = false ∧ s.secDead (0x8000 / 32) = false ∧
     s.secPoisoned (0x8000 / 32) = true) ∧
    (let s := { on with llc := tag :: on.llc }
     s.secDead 1031 = true ∧ s.bar2To 1 .write (1031 * 32) 8 = .home (some 0) (1031 * 32) ∧ s.barWaits (some 0) (1031 * 32) 8 true = false) := by decide +kernel

theorem witness_RegisterRules :
    on.running = true ∧ Machine.bar0Shape .manager 0x18 4 = true ∧ Machine.bar0Shape .manager 0 8 = true ∧ Machine.bar0Shape .manager 2 4 = false ∧
    Machine.bar0Shape .manager 4 8 = false ∧ Machine.bar0Shape .other 0x1FFFFFC 4 = true ∧ on.hbm.length = 16 ∧
    ({ on with rs := { on.rs with warm := true } } : State).running = false ∧ 0x10000 / 0x10000 = 1 ∧ on.partyUp .manager = true ∧
    on.partyDrops .manager = false ∧ insecure.partyDrops (.tenant 1) = true ∧ on.partyUp .other = true ∧
    (1000 : Word64).toNat ≤ 1000 ∧ (60000 : Word64).toNat ≤ 60000 ∧ (9 : Word64).toNat < 10 ∧
    (let cfg : Word := 0x0010 + 6 * 0x20 + 0x400
     on.mg.en = false ∧ bit cfg.toNat 10 = true ∧ bits cfg.toNat 4 0 = 16 ∧ bits cfg.toNat 9 5 = 6) ∧
    ({ on.mg with en := true } : Mg).en = true := by decide +kernel

def page (k : ReqKind) : Req := { herdReq 5 5 r0 herd k .host 0 [⟨0, 0x40000000, 0, 4, 0, 0⟩] with dst := 2 }
theorem witness_HostFunctionRules :
    (on.host.linkUp = true ∧ ({ on.host with ready := false } : HostIf).ready = false ∧ on.rs.boot ≠ .imageFailed ∧ (4 : Nat) ≠ 0) ∧
    (({ on.rs with boot := .imageFailed } : Rs).boot = .imageFailed ∧ 1000000000 ≤ on.time) ∧
    (on.host.ready = true ∧ on.fnExists 9 = false ∧ on.fnExists 8 = true ∧ on.hostUp = true) ∧
    (({ on.host with vfEn := false } : HostIf).vfEn = false ∧ (4096 : Nat) ≤ 4096) ∧ (7 < vectorsOf 8 ∧ 2047 < vectorsOf 0) ∧
    (on.outOfCold = true ∧ on.rs.warm = false ∧ ({ on.host with linkUp := false } : HostIf).linkUp = false ∧ 16 ∈ [4, 8, 16] ∧ 128 ∈ [16, 32, 64, 128]) ∧
    ((on.inst? 0).isSome = true ∧ (on.fnCfg 1).ats = true) ∧
    (((on.updFn 1 (fun c => { c with msixEn := false })).fnCfg 1).msixEn = false ∧ (on.fnCfg 1).msixEn = true ∧
      ((on.updFn 1 (fun c => { c with fnMask := true })).fnCfg 1).fnMask = true ∧
      3 ∈ ((on.updFn 1 (fun c => { c with masked := [3] })).fnCfg 1).masked) ∧
    (∀ k ∈ [ReqKind.read, .write],
      let s := { on with reqs := [page k] }
      s.hostPageBusy 0 0 = true ∧ on.hostPageBusy 0 0 = false ∧ s.reqs.find? (fun x => x.rid = 5 && x.target = .host) = some (page k) ∧
      (page k).lanes = [⟨0, 0x40000000, 0, 4, 0, 0⟩] ∧ (page k).kind = k) ∧ HostReply.unsupported ≠ HostReply.ok := by decide +kernel

def tdi (t : TdiState) : Inst := { inst with tdi := t }
theorem witness_LinkResetAndSecurityRules :
    (on.host.linkUp = true ∧ on.pins.perstN = true ∧ on.hostUp = true ∧ on.fnExists 1 = true ∧ on.fnExists 8 = true ∧ (64 : Nat) < 65) ∧
    (on.ringLines (1 - 1) = [] ∧ on.ringLines inst.id = [] ∧ on.ringLines (8 - 1) = [] ∧ ({ on.host with keys := [64] } : HostIf).keys.contains 64 = true) ∧
    (let s := { on with insts := [], host := { on.host with ide := on.host.ide.set 64 .secure } }
     s.host.ide.getD 64 .insecure = .secure ∧ s.insts = []) ∧
    (∀ t ∈ [TdiState.unlocked, .locked, .run, .error], ({ on with insts := [tdi t] } : State).inst? (1 - 1) = some (tdi t) ∧ (tdi t).tdi = t ∧
      ({ on with insts := [tdi t] } : State).ringLines (tdi t).id = []) ∧
    on.lc.st = 2#3 ∧ ({ on.lc with st := 1 } : Lc).st ≠ 2#3 ∧ on.firmwareUp = true ∧ on.clocked = true ∧
    ({ on.host with doe := .secured } : HostIf).doe = .secured ∧ on.host.doe = .idle ∧ on.side.spdm = .idle ∧ ([0x12, 0x84] : List Byte).length ≤ 65536 ∧
    ([0x12, 0xE0] : List Byte).getD 0 0 = 0x12#8 ∧ ([0x12, 0xE0] : List Byte).getD 1 0 ≠ 0x84#8 := by decide +kernel

theorem witness_SidebandRules :
    (on.firmwareUp = true ∧ ({ on.lc with st := 1 } : Lc).st ≠ 2#3) ∧
    (State.reset.outOfCold = false ∧ on.outOfCold = true ∧ on.side.dynAddr = none ∧ ({ on.side with dynAddr := some 9 } : Side).dynAddr.isSome = true) ∧
    (0x50 + on.pins.straps.toNat < 128 ∧ (0x7F : BitVec 7).toNat ≠ 0x50 + on.pins.straps.toNat) ∧
    (eidOf [0x80, 1, 0, 254] = some 254 ∧ eidOf [0x80, 1, 0, 7] = none ∧ ([0x80, 1, 0, 7] : List Byte).getD 1 0 ≠ 5#8 ∧
      ([0x80, 5] : List Byte).getD 1 0 = 5#8 ∧ eidOf [0x80, 5] = none ∧ on.rs.boot ≠ .imageFailed) ∧
    (({ on with cmds := [cmd .admin [1]] } : State).inFlight .admin ≠ [] ∧ ({ on.lc with st := 1 } : Lc).st ≠ 2#3 ∧ on.firmwareUp = true) ∧ on.pldmUp = true ∧ 15 < 16 ∧ on.rs.warm = false ∧
    (on.updateUp = true ∧ on.inFlight .admin = [] ∧ on.lc.heldType = 0#2 ∧ ({ on.lc with heldType := 1 } : Lc).heldType ≠ 0#2 ∧
      on.rs.boot ≠ .imageFailed ∧ on.configBusy = false) ∧
    (on.pins.v3p3sb = true ∧ on.lc.st = 2#3 ∧ on.rs.boot ≠ .cold) ∧ (State.reset.rs.boot = .cold ∧ State.reset.pins.perstN = false) := by
  decide +kernel

/-! ## Reset, power, guardband -/

def boot (b : BootPhase) : State := { State.reset with rs := { Rs.reset with boot := b } }
/-- An image that is not signed. -/
def unsigned : FwImage := { FwImage.reset with sigOk := false }
theorem witness_ModuleResetRules :
    (on.rs.boot ≠ .por ∧ (boot .por).rs.boot = .por ∧ (boot .por).pins.v48 = true ∧ (boot .por).pins.v3p3sb = true) ∧
    (State.reset.rs.boot = .cold ∧ State.reset.pw.tripped = false ∧ State.reset.clk.restarts = 0) ∧
    ((boot .loaded).rs.boot = .loaded ∧ (boot .loaded).outOfCold = true ∧ (boot .loaded).slotPasses (boot .loaded).flash.activeImage = true) ∧
    (let s := { boot .loaded with flash := { State.reset.flash with active := false, slotA := unsigned } }
     s.slotPasses s.flash.activeImage = false ∧ s.slotPasses s.flash.slotB = true) ∧
    (let s := { boot .loaded with flash := { State.reset.flash with active := false, slotA := unsigned, slotB := unsigned } }
     s.slotPasses s.flash.activeImage = false ∧ s.slotPasses s.flash.slotB = false) ∧
    ((boot .starting).rs.boot = .starting ∧ (boot .starting).outOfCold = true ∧ (boot .starting).rs.warm = false) ∧
    (on.pins.v3p3sb = true ∧ lowCounts 1000 false = true ∧ lowCounts 100 true = true ∧ on.pins.perstN = true ∧ on.pins.modRstN = true) ∧
    (on.firmwareUp = true ∧ on.clk.pllLocked = true ∧ on.running = true ∧ on.rs.boot ≠ .cold) ∧
    (let c : Clk := { on.clk with pllLocked := false, stopped := true, restarts := 1 }
     c.pllLocked = false ∧ c.restarts ≠ 0) ∧
    (let s := { on with rs := { on.rs with warm := true } }
     s.rs.warm = true ∧ s.outOfCold = true) := by decide +kernel

/-- The way from reset to a running module: the module boots, its stacks train, the Blankets open. -/
theorem test_boot_runs :
    let go := fun (s : State) (i : Instr) => match exec i s with
      | .next t => t
      | _ => s
    let s := [Instr.coldBoot, .imageVerified, .firmwareReady].foldl go State.reset
    s.running = true ∧ s.rs.ready = 0 ∧ s.rs.exiting.any (fun e => e.1 = .module) = true := by decide +kernel

theorem witness_DieAndRegionResetRules :
    (on.running = true ∧ on.rs.holdDie.getLsbD 7 = false ∧ on.rs.holdRegion.getLsbD 15 = false) ∧
    (({ on.rs with holdDie := 0x80 } : Rs).holdDie.getLsbD 7 = true ∧ ({ on.rs with holdRegion := 0x8000 } : Rs).holdRegion.getLsbD 15 = true) ∧
    (let s := { on with rs := { on.rs with exiting := [(.region 15, 0)] } }
     s.outOfCold = true ∧ s.rs.warm = false ∧ s.rs.exiting.any (fun e => e.1 = ResetUnit.region 15) = true ∧
     (s.exitRegions (.region 15)).all (fun r => (s.stack r).trained) = true ∧
     (({ s with hbm := List.replicate 16 Stack.reset } : State).exitRegions (.region 15)).all (fun _ => (Stack.reset).trained) = false) ∧
    (on.firmwareUp = true ∧ on.rs.dieHeld.getLsbD 7 = false) ∧
    (let r := { on.rs with wdHeld := 0x80, wdSince := List.replicate 8 19999000000 }
     r.wdHeld.getLsbD 7 = true ∧ r.wdSince.getD 7 0 + 1000000 = on.time) := by decide +kernel

theorem witness_PowerRules :
    (on.firmwareUp = true ∧ on.pw.newCap = none ∧ on.pw.pdet = false ∧ on.pw.limit = none ∧ on.pw.forced = false ∧ on.alertHeld = false) ∧
    (on.needLevel 100 100 64 0 ≤ on.preqLevel ∧ on.preqLevel < on.needLevel 100 100 192 0) ∧
    ({ on.pw with newCap := some (3000, false, 9) } : Pw).newCap = some (3000, false, 9) ∧
    (on.lastMs.sum ≤ (on.lastMs.length + 1) * on.capWithin 2000000 ∧ on.level = 192 ∧ on.clocked = true ∧
      ({ on with pw := { on.pw with alerts := [.pin] } } : State).alertHeld = true) ∧
    (let s := { on with pw := { on.pw with capHist := [(19999000000, 5000)] } }
     (19999000000, 5000) ∈ s.pw.capHist ∧ s.time < 19999000000 + 2000000 ∧ s.capWithin 2000000 = 5000) ∧
    (let s := { on with rs := { on.rs with boot := .loaded } }
     s.outOfCold = true ∧ s.firmwareUp = false ∧ 118 < hottest (List.replicate 8 (119, 90))) ∧
    (on.outOfCold = true ∧ on.pw.alerts.contains .pin = false ∧ 200 ≤ 200) ∧ ({ on.pw with alerts := [.pin] } : Pw).alerts = [.pin] ∧
    (let p := { on.pw with holdUntil := some on.time }
     p.holdUntil = some on.time ∧ p.alerts = [] ∧ on.time ≤ on.time ∧ on.time < on.time + 1) ∧
    (on.pw.overTherm = false ∧ hottest (List.replicate 8 (100, 90)) = 100 ∧ hottest (List.replicate 8 (101, 90)) = 101 ∧
      hottest (List.replicate 8 (105, 90)) = 105) ∧ ({ on.pw with limit := some 3000 } : Pw).limit = some 3000 := by decide +kernel

theorem witness_GuardbandAndEnergyRules :
    (on.firmwareUp = true ∧ on.rs.dieHeld.getLsbD 7 = false ∧ (5 : Int) ≤ 5 ∧ (0 : Int) ≤ 4 ∧ (4 : Int) < 5) ∧
    (({ on.pw with gvar := List.replicate 8 34 } : Pw).gvar.getD 7 0 + (-1 : Int).natAbs + 5 = 40) ∧
    (35 < on.pw.gvar.getD 7 0 + (-1 : Int).natAbs ∧ on.pw.gvar.getD 7 0 + (-20 : Int).natAbs = 60) ∧
    (60 < on.pw.gvar.getD 7 0 + (-21 : Int).natAbs ∧ dieOfCore 63 = 7) ∧
    (let s := { on with time := 86400000000000 }
     s.pw.gvarSpare.getD 7 0 + 86400000000000 = s.time ∧ 10 < s.pw.gvar.getD 7 0 ∧ ({ s.pw with gvar := List.replicate 8 10 } : Pw).gvar.getD 7 0 ≤ 10) ∧
    ((∀ c ∈ [({ owner := 0, kind := 5, part := 64, n := 3 } : Count)], c.owner ≠ 0 + 1) ∧ [0, 1].Nodup ∧ inst.energyMj.toNat + (inst.energyNj + 5) / 1000000 < 2 ^ 64) := by
  decide +kernel

end Sys2Proof.Test
end

section
/-! PROOF. Memories: what is written is read back, and a canonical memory is what it reads as. -/
namespace Sys2Proof.Machine

/-- A write of bytes leaves every address outside the range that it covers. -/
theorem spGet_writeBytes_other (bs : List Byte) : ∀ (m : Memory) (a : Nat) {c : Nat}, c < a ∨ a + bs.length ≤ c →
    spGet (writeBytes m a bs) c = spGet m c := by
  induction bs with
  | nil => intros; rfl
  | cons b bs ih =>
    intro m a c hc
    rw [List.length_cons] at hc
    have hrest : spGet (writeBytes (spSet m a b) (a + 1) bs) c = spGet (spSet m a b) c := ih _ _ (by omega)
    exact hrest.trans (spGet_spSet_other m a b (by omega))

/-- Bytes written to a canonical memory are read back. -/
theorem readBytes_writeBytes (bs : List Byte) : ∀ {m : Memory} (a : Nat), m.wf = true →
    readBytes (writeBytes m a bs) a bs.length = bs := by
  induction bs with
  | nil => intros; rfl
  | cons b bs ih =>
    intro m a h
    have hfirst : spGet (writeBytes (spSet m a b) (a + 1) bs) a = b :=
      (spGet_writeBytes_other bs _ _ (.inl (Nat.lt_succ_self a))).trans (spGet_spSet_same a b h)
    simp only [List.length_cons, readBytes, writeBytes, hfirst, ih (a + 1) (spSet_wf a b h)]

/-- The first entry of a canonical memory is what its address reads as. -/
theorem spGet_cons_same {w : Nat} (k : Nat) (v : BitVec w) (m : List (Nat × BitVec w)) : spGet ((k, v) :: m) k = v := if_pos rfl

/-- In a canonical memory an address below its first entry reads 0. -/
theorem spGet_lt_head {w : Nat} {k a : Nat} {v : BitVec w} {m : List (Nat × BitVec w)} (h : spWf ((k, v) :: m) = true) (ha : a < k) :
    spGet ((k, v) :: m) a = 0 := by
  obtain ⟨-, hlow, -⟩ := spWf_cons.mp h
  refine spGet_below fun c hc => ?_
  rcases List.mem_cons.mp hc with rfl | hc
  · exact ha
  · exact ha.trans (hlow c hc)

/-- Canonical memories that read the same everywhere do so without their first entries, which have one address. -/
theorem spGet_tail_eq {w : Nat} {k : Nat} {v v' : BitVec w} {m n : List (Nat × BitVec w)} (hm : spWf ((k, v) :: m) = true)
    (hn : spWf ((k, v') :: n) = true) (h : ∀ a, spGet ((k, v) :: m) a = spGet ((k, v') :: n) a) (a : Nat) : spGet m a = spGet n a := by
  obtain ⟨-, hlm, -⟩ := spWf_cons.mp hm
  obtain ⟨-, hln, -⟩ := spWf_cons.mp hn
  by_cases ha : a = k
  · rw [ha, spGet_below hlm, spGet_below hln]
  · simpa [spGet, ha] using h a

/-- Canonical memories that read the same everywhere are equal. -/
theorem eq_of_spGet_eq {w : Nat} {m : List (Nat × BitVec w)} : ∀ {n : List (Nat × BitVec w)}, spWf m = true → spWf n = true →
    (∀ a, spGet m a = spGet n a) → m = n := by
  induction m with
  | nil =>
    rintro (_ | ⟨⟨k, v⟩, n⟩) - hn h
    · rfl
    · exact absurd ((spGet_cons_same k v n).symm.trans (h k).symm) (spWf_cons.mp hn).1
  | cons c m ih =>
    obtain ⟨k, v⟩ := c
    rintro (_ | ⟨⟨k', v'⟩, n⟩) hm hn h
    · exact absurd ((spGet_cons_same k v m).symm.trans (h k)) (spWf_cons.mp hm).1
    · obtain ⟨hv, -, hm'⟩ := spWf_cons.mp hm
      obtain ⟨hv', -, hn'⟩ := spWf_cons.mp hn
      have hk : k = k' := by
        rcases Nat.lt_trichotomy k k' with hlt | heq | hlt
        · exact absurd ((spGet_cons_same k v m).symm.trans ((h k).trans (spGet_lt_head hn hlt))) hv
        · exact heq
        · exact absurd ((spGet_cons_same k' v' n).symm.trans ((h k').symm.trans (spGet_lt_head hm hlt))) hv'
      subst hk
      have hvv : v = v' := by simpa only [spGet_cons_same] using h k
      rw [hvv, ih hm' hn' (spGet_tail_eq hm hn h)]

/-- Settles O5: reads after writes by induction on the bytes, extensionality by induction on the entries. -/
theorem memoryLaws : Obligations.MemoryLaws := by
  refine ⟨fun m a bs h => ⟨writeBytes_wf bs a h, readBytes_writeBytes bs a h, fun b hb => spGet_writeBytes_other bs m a hb⟩, ?_⟩
  exact fun m n hm hn h => eq_of_spGet_eq hm hn h

end Sys2Proof.Machine
end

section
/-! PROOF. The registers of PF BAR0 and the admin queue. -/
namespace Sys2Proof.Machine

/-! ## Registers of PF BAR0 (13 R306 to R308) -/

section
variable {s : State} {p : Party} {off size : Nat} {v : Word64}

/-- A register write is discarded where the module does not run, the access has no legal shape, the party is not there, or its stream drops it. -/
theorem execRegisterWrite_discarded
    (h : s.running = false ∨ bar0Shape p off size = false ∨ s.partyUp p = false ∨ s.partyDrops p = true) :
    exec (.registerWrite p off size v) s = .next s := by
  have hc : (!s.running || !bar0Shape p off size || !s.partyUp p || s.partyDrops p) = true := by
    rcases h with h | h | h | h <;> simp [h]
  simp only [exec, execRegisterWrite, hc, if_true]

/-- An accepted register write writes its lower word, and then the upper one of two. -/
theorem execRegisterWrite_accepted (hr : s.running = true) (hs : bar0Shape p off size = true) (hu : s.partyUp p = true)
    (hd : s.partyDrops p = false) : exec (.registerWrite p off size v) s = .next
      (if size = 8 then (s.writeWord p off (v.toNat % 2 ^ 32)).writeWord p (off + 4) (v.toNat / 2 ^ 32)
       else s.writeWord p off (v.toNat % 2 ^ 32)) := by
  simp [exec, execRegisterWrite, hr, hs, hu, hd]

/-- A word that the manager writes at a legal place reaches its register. -/
theorem execRegisterWrite_manager (hr : s.running = true) (hs : bar0Shape .manager off 4 = true) :
    exec (.registerWrite .manager off 4 v) s = .next (s.writeWord .manager off (v.toNat % 2 ^ 32)) :=
  execRegisterWrite_accepted hr hs rfl rfl

/-- A word that the manager reads at a legal place is the register's. -/
theorem readReg_manager (hr : s.running = true) (hs : bar0Shape .manager off 4 = true) :
    s.readReg .manager off 4 = some (s.readPf off) := by
  simp [State.readReg, State.readWord, State.partyUp, hr, hs]

/-- A word that the manager writes at a legal place, and what is read there next. -/
theorem registerWrite_read {n : Nat} (hr : s.running = true) (hs : bar0Shape .manager off 4 = true)
    (hk : (s.writeWord .manager off (v.toNat % 2 ^ 32)).running = true)
    (hn : (s.writeWord .manager off (v.toNat % 2 ^ 32)).readPf off = n) :
    ∃ t, exec (.registerWrite .manager off 4 v) s = .next t ∧ t.readReg .manager off 4 = some n :=
  ⟨_, execRegisterWrite_manager hr hs, by rw [readReg_manager hk hs, hn]⟩

/-- No other party writes a register. -/
theorem writeWord_other (o w : Nat) : s.writeWord .other o w = s := rfl

/-- The blocks of `IN_`, `CF_`, `TL_` and `LC_` and the pending bits have no register that is written. -/
theorem writeWord_readOnly (h : off / 0x10000 = 1 ∨ off / 0x10000 = 2 ∨ off / 0x10000 = 6 ∨ off / 0x10000 = 8 ∨ off / 0x10000 = 10)
    (w : Nat) : s.writeWord .manager off w = s := by
  have hlt : ¬ 0xB0000 ≤ off := by omega
  rcases h with h | h | h | h | h <;> simp [State.writeWord, hlt, h]

end

section
variable {s : State} {v : Nat}

/-- The error counts of a stack are what was written to them: `HB_CE_COUNT` at 0x14 of its block. -/
theorem writeHb_ceCount {r : Nat} (hr : r < 16) : s.writeHb (0x40 * r + 0x14) v = s.updStack r (fun k => { k with ce := BitVec.ofNat 32 v }) := by
  have h1 : 0x40 * r + 0x14 ≠ 0x400 := by omega
  have h2 : 0x40 * r + 0x14 < 0x400 := by omega
  have h3 : (0x40 * r + 0x14) % 0x40 = 0x14 := by omega
  have h4 : (0x40 * r + 0x14) / 0x40 = r := by omega
  simp [State.writeHb, h1, h2, h3, h4]

/-- `HB_UE_COUNT` at 0x18 of a stack's block. -/
theorem writeHb_ueCount {r : Nat} (hr : r < 16) : s.writeHb (0x40 * r + 0x18) v = s.updStack r (fun k => { k with ue := BitVec.ofNat 32 v }) := by
  have h1 : 0x40 * r + 0x18 ≠ 0x400 := by omega
  have h2 : 0x40 * r + 0x18 < 0x400 := by omega
  have h3 : (0x40 * r + 0x18) % 0x40 = 0x18 := by omega
  have h4 : (0x40 * r + 0x18) / 0x40 = r := by omega
  simp [State.writeHb, h1, h2, h3, h4]

theorem readHb_ceCount {r : Nat} (hr : r < 16) : s.readHb (0x40 * r + 0x14) = (s.stack r).ce.toNat := by
  have h1 : 0x40 * r + 0x14 ≠ 0x400 := by omega
  have h2 : ¬ 0x400 ≤ 0x40 * r + 0x14 := by omega
  have h3 : (0x40 * r + 0x14) % 0x40 = 0x14 := by omega
  have h4 : (0x40 * r + 0x14) / 0x40 = r := by omega
  simp [State.readHb, h1, h2, h3, h4]

theorem readHb_ueCount {r : Nat} (hr : r < 16) : s.readHb (0x40 * r + 0x18) = (s.stack r).ue.toNat := by
  have h1 : 0x40 * r + 0x18 ≠ 0x400 := by omega
  have h2 : ¬ 0x400 ≤ 0x40 * r + 0x18 := by omega
  have h3 : (0x40 * r + 0x18) % 0x40 = 0x18 := by omega
  have h4 : (0x40 * r + 0x18) / 0x40 = r := by omega
  simp [State.readHb, h1, h2, h3, h4]

/-- A stack of the module, changed. -/
theorem stack_updStack_same {r : Nat} (hr : r < s.hbm.length) (f : Stack → Stack) : (s.updStack r f).stack r = f (s.stack r) := by
  simp [State.stack, State.updStack, List.getD_eq_getElem?_getD, updAt_getElem?, List.getElem?_eq_getElem hr]

/-- A word of the management block (09 R231). -/
theorem writeWord_mg {o : Nat} (ho : o < 0x10000) : s.writeWord .manager o v = s.writeMg o v := by
  have h1 : ¬ 0xB0000 ≤ o := by omega
  simp only [State.writeWord, if_neg h1, Nat.div_eq_of_lt ho, Nat.mod_eq_of_lt ho]

theorem readPf_mg {o : Nat} (ho : o < 0x10000) : s.readPf o = s.readMg o := by
  have h1 : ¬ 0x1000000 ≤ o := by omega
  simp only [State.readPf, if_neg h1, Nat.div_eq_of_lt ho, Nat.mod_eq_of_lt ho]

/-- A word of the stacks' block (11 R277). -/
theorem writeWord_hb {o : Nat} (ho : o < 0x10000) : s.writeWord .manager (0x30000 + o) v = s.writeHb o v := by
  have h1 : ¬ 0xB0000 ≤ 0x30000 + o := by omega
  have h2 : (0x30000 + o) / 0x10000 = 3 := by omega
  have h3 : (0x30000 + o) % 0x10000 = o := by omega
  simp only [State.writeWord, if_neg h1, h2, h3]

theorem readPf_hb {o : Nat} (ho : o < 0x10000) : s.readPf (0x30000 + o) = s.readHb o := by
  have h1 : ¬ 0x1000000 ≤ 0x30000 + o := by omega
  have h2 : (0x30000 + o) / 0x10000 = 3 := by omega
  have h3 : (0x30000 + o) % 0x10000 = o := by omega
  simp only [State.readPf, if_neg h1, h2, h3]

/-- A word of the fabric block (12 R302). -/
theorem writeWord_fx {o : Nat} (ho : o < 0x10000) : s.writeWord .manager (0x40000 + o) v = s.writeFx o v := by
  have h1 : ¬ 0xB0000 ≤ 0x40000 + o := by omega
  have h2 : (0x40000 + o) / 0x10000 = 4 := by omega
  have h3 : (0x40000 + o) % 0x10000 = o := by omega
  simp only [State.writeWord, if_neg h1, h2, h3]

theorem readPf_fx {o : Nat} (ho : o < 0x10000) : s.readPf (0x40000 + o) = s.readFx o := by
  have h1 : ¬ 0x1000000 ≤ 0x40000 + o := by omega
  have h2 : (0x40000 + o) / 0x10000 = 4 := by omega
  have h3 : (0x40000 + o) % 0x10000 = o := by omega
  simp only [State.readPf, if_neg h1, h2, h3]

/-- The transaction timeout takes a value of its range (12 R302). -/
theorem writeFx_txnTimeout (h1 : 1 ≤ v) (h2 : v ≤ 1000) :
    s.writeFx 4 v = { s with fx := { s.fx with txnTimeout := BitVec.ofNat 16 v } } := by
  have h3 : v % 65536 = v := by omega
  simp [State.writeFx, h1, h2, h3]

/-- The watchdog of the admin queue takes a value of its range (09 R231), and no other. -/
theorem writeMg_watchdog (h1 : 10 ≤ v) (h2 : v ≤ 60000) : s.writeMg 0x18 v = { s with mg := { s.mg with wdMs := BitVec.ofNat 32 v } } := by
  simp [State.writeMg, h1, h2]

theorem writeMg_watchdog_low (h : v < 10) : s.writeMg 0x18 v = s := by
  have h1 : ¬ 10 ≤ v := by omega
  simp [State.writeMg, h1]

end

/-- The manager's window of whole words. -/
theorem bar0Shape_manager {off : Nat} (h4 : off % 4 = 0) (hb : off + 4 ≤ 0x2000000) : bar0Shape .manager off 4 = true := by
  simp [bar0Shape, bar0Bytes, h4, hb]

/-- A corrected-error count written by the manager is what it reads. -/
theorem registerWrite_ceCount {s : State} {r : Nat} (v : Word64) (hr : r < 16) (hrun : s.running = true) (hlen : s.hbm.length = 16) :
    ∃ t, exec (.registerWrite .manager (0x30000 + (0x40 * r + 0x14)) 4 v) s = .next t ∧
      t.readReg .manager (0x30000 + (0x40 * r + 0x14)) 4 = some (v.toNat % 2 ^ 32) := by
  have hw := writeWord_hb (s := s) (v := v.toNat % 2 ^ 32) (o := 0x40 * r + 0x14) (by omega)
  rw [writeHb_ceCount hr] at hw
  refine registerWrite_read hrun (bar0Shape_manager (by omega) (by omega)) (by rw [hw]; exact hrun) ?_
  rw [hw, readPf_hb (by omega), readHb_ceCount hr, stack_updStack_same (hlen ▸ hr)]
  simp

/-- An uncorrected-error count written by the manager is what it reads. -/
theorem registerWrite_ueCount {s : State} {r : Nat} (v : Word64) (hr : r < 16) (hrun : s.running = true) (hlen : s.hbm.length = 16) :
    ∃ t, exec (.registerWrite .manager (0x30000 + (0x40 * r + 0x18)) 4 v) s = .next t ∧
      t.readReg .manager (0x30000 + (0x40 * r + 0x18)) 4 = some (v.toNat % 2 ^ 32) := by
  have hw := writeWord_hb (s := s) (v := v.toNat % 2 ^ 32) (o := 0x40 * r + 0x18) (by omega)
  rw [writeHb_ueCount hr] at hw
  refine registerWrite_read hrun (bar0Shape_manager (by omega) (by omega)) (by rw [hw]; exact hrun) ?_
  rw [hw, readPf_hb (by omega), readHb_ueCount hr, stack_updStack_same (hlen ▸ hr)]
  simp

/-- A transaction timeout of its range, written by the manager, is what it reads. -/
theorem registerWrite_txnTimeout {s : State} {v : Word64} (hrun : s.running = true) (h1 : 1 ≤ v.toNat) (h2 : v.toNat ≤ 1000) :
    ∃ t, exec (.registerWrite .manager (0x40000 + 4) 4 v) s = .next t ∧ t.readReg .manager (0x40000 + 4) 4 = some v.toNat := by
  have hv : v.toNat % 2 ^ 32 = v.toNat := Nat.mod_eq_of_lt (by omega)
  have hw := writeWord_fx (s := s) (v := v.toNat % 2 ^ 32) (o := 4) (by decide)
  rw [hv, writeFx_txnTimeout h1 h2, ← hv] at hw
  have hfit : v.toNat % 2 ^ 16 = v.toNat := Nat.mod_eq_of_lt (by omega)
  refine registerWrite_read hrun (by decide) (by rw [hw]; exact hrun) ?_
  rw [hw, readPf_fx (by decide)]
  simpa [State.readFx] using hfit

/-- A watchdog of its range, written by the manager, is what it reads. -/
theorem registerWrite_watchdog {s : State} {v : Word64} (hrun : s.running = true) (h1 : 10 ≤ v.toNat) (h2 : v.toNat ≤ 60000) :
    ∃ t, exec (.registerWrite .manager 0x18 4 v) s = .next t ∧ t.readReg .manager 0x18 4 = some v.toNat := by
  have hv : v.toNat % 2 ^ 32 = v.toNat := Nat.mod_eq_of_lt (by omega)
  have hw := writeWord_mg (s := s) (v := v.toNat % 2 ^ 32) (o := 0x18) (by decide)
  rw [hv, writeMg_watchdog h1 h2, ← hv] at hw
  refine registerWrite_read hrun (by decide) (by rw [hw]; exact hrun) ?_
  rw [hw, readPf_mg (by decide)]
  simpa [State.readMg] using hv

/-- A watchdog below its range is not written. -/
theorem registerWrite_watchdog_low {s : State} {v : Word64} (hrun : s.running = true) (h : v.toNat < 10) :
    exec (.registerWrite .manager 0x18 4 v) s = .next s := by
  have hv : v.toNat % 2 ^ 32 = v.toNat := Nat.mod_eq_of_lt (by omega)
  rw [execRegisterWrite_manager hrun (by decide), hv, writeWord_mg (by decide), writeMg_watchdog_low h]

/-- A write by a party without access changes nothing. -/
theorem execRegisterWrite_other {s : State} {off size : Nat} {v : Word64} : exec (.registerWrite .other off size v) s = .next s := by
  simp [exec, execRegisterWrite, writeWord_other]

/-- A write to a block that has no register that is written changes nothing. -/
theorem execRegisterWrite_readOnly {s : State} {off : Nat} {v : Word64}
    (h : off / 0x10000 = 1 ∨ off / 0x10000 = 2 ∨ off / 0x10000 = 6 ∨ off / 0x10000 = 8 ∨ off / 0x10000 = 10) :
    exec (.registerWrite .manager off 4 v) s = .next s := by
  simp [exec, execRegisterWrite, writeWord_readOnly h]

/-- A party without access reads 0. -/
theorem readReg_other {s : State} {off size : Nat} (hr : s.running = true) (hs : bar0Shape .other off size = true) :
    s.readReg .other off size = some 0 := by
  have hc : (!s.running || !bar0Shape .other off size || !s.partyUp .other) = false := by simp [hr, hs, State.partyUp]
  simp [State.readReg, hc, show ∀ o, s.readWord .other o = 0 from fun _ => rfl]

/-! ## The admin queue (09 R231) -/

/-- The manager enables the admin queue that was disabled, with sizes of 6 to 16. -/
theorem execAdminQueueEnable_enabled {s : State} {cfg : Word} (hr : s.running = true) (he : s.mg.en = false) (hb : bit cfg.toNat 10 = true)
    (h1 : 6 ≤ bits cfg.toNat 4 0) (h2 : bits cfg.toNat 4 0 ≤ 16) (h3 : 6 ≤ bits cfg.toNat 9 5) (h4 : bits cfg.toNat 9 5 ≤ 16) :
    let m := { s.mg with sqLog2 := BitVec.ofNat 5 (bits cfg.toNat 4 0), cqLog2 := BitVec.ofNat 5 (bits cfg.toNat 9 5)
                         vector := BitVec.ofNat 11 (cfg.toNat / 2 ^ 16), en := true }
    exec (.adminQueueEnable .manager cfg) s = .next (({ s with mg := { m with queue := m.freshQueue } } : State).drainEvents) := by
  simp [exec, execAdminQueueEnable, State.managerWrites, hr, he, hb, Nat.not_lt.mpr h1, Nat.not_lt.mpr h2, Nat.not_lt.mpr h3,
    Nat.not_lt.mpr h4]

/-- An admin queue that is enabled is not enabled again. -/
theorem execAdminQueueEnable_enabledAlready {s : State} {cfg : Word} (he : s.mg.en = true) :
    exec (.adminQueueEnable .manager cfg) s = .next s := by
  simp [exec, execAdminQueueEnable, he]

/-- The manager disables the admin queue. -/
theorem execAdminQueueDisable_enabled {s : State} (hr : s.running = true) (he : s.mg.en = true) :
    exec (.adminQueueDisable .manager) s = .next s.adminStop := by
  simp [exec, execAdminQueueDisable, State.managerWrites, hr, he]

/-- Settles O53, clause by clause. -/
theorem registerRules : Obligations.RegisterRules := by
  refine ⟨fun s p off size v => ⟨?oneWord, ?twoWords, ?discarded, execRegisterWrite_readOnly, readReg_other, ?counts⟩,
    fun s v hr => ⟨registerWrite_txnTimeout hr, registerWrite_watchdog hr, registerWrite_watchdog_low hr⟩,
    fun s cfg hr => ⟨execAdminQueueEnable_enabled hr,
      fun he => ⟨execAdminQueueEnable_enabledAlready he, execAdminQueueDisable_enabled hr he⟩⟩⟩
  case oneWord => exact fun hr hu hd hs => execRegisterWrite_accepted hr hs hu hd
  case twoWords => exact fun hr hu hd hs => execRegisterWrite_accepted hr hs hu hd
  case discarded =>
    rintro (h | h | rfl | h | h)
    · exact execRegisterWrite_discarded (.inl h)
    · exact execRegisterWrite_discarded (.inr (.inl h))
    · exact execRegisterWrite_other
    · exact execRegisterWrite_discarded (.inr (.inr (.inl h)))
    · exact execRegisterWrite_discarded (.inr (.inr (.inr h)))
  case counts =>
    exact fun r hr hrun hlen => ⟨by simpa only [Nat.add_assoc] using registerWrite_ceCount v hr hrun hlen,
      by simpa only [Nat.add_assoc] using registerWrite_ueCount v hr hrun hlen⟩

end Sys2Proof.Machine
end

section
/-! PROOF. Every step keeps the three memories in canonical form.

Only the writes of bytes touch `mem`, `back` and `hostMem`, and `writeBytes_wf` and its like say that they keep a memory's form. So there is
one lemma per operation of the state, `memoriesWf_<operation>`, which follows the operation's own branches and cites the lemma of each
operation it uses; an operation that changes other fields alone is `memoriesWf_with`. A row of the instruction table is `Keeps` of its
outcome, and `keeps_exec` collects the rows. -/

namespace Sys2Proof.Machine

section
variable {s : State} (h : memoriesWf s = true)
include h

theorem mem_wf : s.mem.wf = true := (memoriesWf_iff.mp h).1

theorem back_wf : s.back.wf = true := (memoriesWf_iff.mp h).2.1

theorem hostMem_wf : s.hostMem.wf = true := (memoriesWf_iff.mp h).2.2

/-- A change of any other field leaves the form of the memories. -/
theorem memoriesWf_with {pending outbox freeSeq nextId time clk fuse flash opt deadMarks poisonMarks hist histSeq llc poisonMode reqs hbmEntries replay
    fillHold bankq cores insts cmds mg cf hbm scrubEn scrubH rambler fx host rs lc pw tl health events pins side} :
    memoriesWf { s with pending := pending, outbox := outbox, freeSeq := freeSeq, nextId := nextId, time := time, clk := clk, fuse := fuse
                        flash := flash, opt := opt, deadMarks := deadMarks, poisonMarks := poisonMarks, hist := hist, histSeq := histSeq
                        llc := llc, poisonMode := poisonMode, reqs := reqs, hbmEntries := hbmEntries, replay := replay, fillHold := fillHold
                        bankq := bankq, cores := cores, insts := insts, cmds := cmds, mg := mg, cf := cf, hbm := hbm, scrubEn := scrubEn
                        scrubH := scrubH, rambler := rambler, fx := fx, host := host, rs := rs, lc := lc, pw := pw, tl := tl
                        health := health, events := events, pins := pins, side := side } = true := h

end

/-- A state whose three memories are canonical. -/
theorem memoriesWf_mk {pending outbox freeSeq nextId time clk fuse flash opt mem back deadMarks poisonMarks hist histSeq hostMem llc poisonMode reqs
    hbmEntries replay fillHold bankq cores insts cmds mg cf hbm scrubEn scrubH rambler fx host rs lc pw tl health events pins side}
    (hm : Memory.wf mem = true) (hb : Memory.wf back = true) (hh : Memory.wf hostMem = true) :
    memoriesWf { pending := pending, outbox := outbox, freeSeq := freeSeq, nextId := nextId, time := time, clk := clk, fuse := fuse
                 flash := flash, opt := opt, mem := mem, back := back, deadMarks := deadMarks, poisonMarks := poisonMarks, hist := hist
                 histSeq := histSeq, hostMem := hostMem
                 llc := llc, poisonMode := poisonMode, reqs := reqs, hbmEntries := hbmEntries, replay := replay, fillHold := fillHold
                 bankq := bankq, cores := cores, insts := insts, cmds := cmds, mg := mg, cf := cf, hbm := hbm, scrubEn := scrubEn
                 scrubH := scrubH, rambler := rambler, fx := fx, host := host, rs := rs, lc := lc, pw := pw, tl := tl
                 health := health, events := events, pins := pins, side := side } = true :=
  memoriesWf_iff.mpr ⟨hm, hb, hh⟩

/-- Of two canonical states, the one that a condition chooses. -/
theorem memoriesWf_ite {c : Prop} {d : Decidable c} {s t : State} (hs : memoriesWf s = true) (ht : memoriesWf t = true) :
    memoriesWf (if c then s else t) = true := by
  split <;> assumption

/-- A fold keeps what each of its steps keeps. -/
theorem memoriesWf_foldl {β : Type} {f : State → β → State} {l : List β} {s : State}
    (hf : ∀ s b, memoriesWf s = true → memoriesWf (f s b) = true) (h : memoriesWf s = true) : memoriesWf (l.foldl f s) = true :=
  foldl_keeps (p := fun s => memoriesWf s = true) hf l s h

/-- A recursion over a list keeps the memories canonical when each of its cases does, given that the rest's recursion (`b.1`) does. -/
theorem memoriesWf_listRec {α : Type} {F : (xs : List α) → List.below (motive := fun _ => State → State) xs → State → State}
    (hnil : ∀ s, memoriesWf s = true → memoriesWf (F [] PUnit.unit s) = true)
    (hcons : ∀ x xs b s, (∀ t, memoriesWf t = true → memoriesWf (b.1 t) = true) → memoriesWf s = true →
      memoriesWf (F (x :: xs) b s) = true) (xs : List α) : ∀ s, memoriesWf s = true → memoriesWf (List.brecOn xs F s) = true := by
  induction xs with
  | nil => exact hnil
  | cons x xs ih => exact fun s h => hcons x xs _ s ih h

/-- What an optional value leads to, where there is one or not. -/
theorem memoriesWf_elim {β : Type} {o : Option β} {s : State} {f : β → State} (h : memoriesWf s = true)
    (hf : ∀ b, memoriesWf (f b) = true) : memoriesWf (o.elim s f) = true := by
  cases o with
  | none => exact h
  | some b => exact hf b

/-- Of two pairs with canonical states, the one that a condition chooses. -/
theorem memoriesWf_ite_fst {β : Type} {c : Prop} {d : Decidable c} {p q : State × β} (hp : memoriesWf p.1 = true) (hq : memoriesWf q.1 = true) :
    memoriesWf (if c then p else q).1 = true := by
  split <;> assumption

/-- A fold over a state with a value keeps what each of its steps keeps. -/
theorem memoriesWf_foldl_fst {α β : Type} {f : State × β → α → State × β} {l : List α} {p : State × β}
    (hf : ∀ p a, memoriesWf p.1 = true → memoriesWf (f p a).1 = true) (h : memoriesWf p.1 = true) : memoriesWf (l.foldl f p).1 = true :=
  foldl_keeps (p := fun p => memoriesWf p.1 = true) hf l p h

/-- The state of a pair that an equation names. -/
theorem memoriesWf_of_fst {β : Type} {p : State × β} {t : State} {b : β} (e : p = (t, b)) (h : memoriesWf p.1 = true) :
    memoriesWf t = true := by
  rw [e] at h
  exact h

/-- A request that went out left canonical memories. -/
def SentWf : Sent → Prop
  | .ok t => memoriesWf t = true
  | _ => True

/-- An effect, applied or waiting, left canonical memories. -/
def AppliedWf : Applied → Prop
  | .done t => memoriesWf t = true
  | .wait t => memoriesWf t = true

/-- A read for a collective left canonical memories. -/
def CollReadWf : CollRead → Prop
  | .ok t _ => memoriesWf t = true
  | .later t => memoriesWf t = true

/-- A read for a stage left canonical memories. -/
def StageReadWf : StageRead → Prop
  | .ok t _ => memoriesWf t = true
  | .later t => memoriesWf t = true

/-- The state, where there is one, has canonical memories. -/
def OptionWf : Option State → Prop
  | some t => memoriesWf t = true
  | none => True

theorem SentWf.ok {r : Sent} {t : State} (e : r = .ok t) (h : SentWf r) : memoriesWf t = true := by
  subst e; exact h

theorem AppliedWf.done {r : Applied} {t : State} (e : r = .done t) (h : AppliedWf r) : memoriesWf t = true := by
  subst e; exact h

theorem AppliedWf.wait {r : Applied} {t : State} (e : r = .wait t) (h : AppliedWf r) : memoriesWf t = true := by
  subst e; exact h

theorem CollReadWf.ok {r : CollRead} {t : State} {bs : List Byte} (e : r = .ok t bs) (h : CollReadWf r) : memoriesWf t = true := by
  subst e; exact h

theorem CollReadWf.later {r : CollRead} {t : State} (e : r = .later t) (h : CollReadWf r) : memoriesWf t = true := by
  subst e; exact h

theorem StageReadWf.ok {r : StageRead} {t : State} {ps : List (List Byte)} (e : r = .ok t ps) (h : StageReadWf r) : memoriesWf t = true := by
  subst e; exact h

theorem StageReadWf.later {r : StageRead} {t : State} (e : r = .later t) (h : StageReadWf r) : memoriesWf t = true := by
  subst e; exact h

theorem OptionWf.some {o : Option State} {t : State} (e : o = .some t) (h : OptionWf o) : memoriesWf t = true := by
  subst e; exact h

theorem SentWf.ite {c : Prop} {d : Decidable c} {p q : Sent} (hp : SentWf p) (hq : SentWf q) : SentWf (if c then p else q) := by
  split <;> assumption

theorem AppliedWf.ite {c : Prop} {d : Decidable c} {p q : Applied} (hp : AppliedWf p) (hq : AppliedWf q) : AppliedWf (if c then p else q) := by
  split <;> assumption

theorem OptionWf.ite {c : Prop} {d : Decidable c} {p q : Option State} (hp : OptionWf p) (hq : OptionWf q) : OptionWf (if c then p else q) := by
  split <;> assumption

/-- A row whose next state, if it has one, has canonical memories. -/
def Keeps (o : Host.Outcome State Fault Refusal) : Prop := ∀ t, o = .next t → memoriesWf t = true

theorem keeps_next {s : State} (h : memoriesWf s = true) : Keeps (.next s) := by
  rintro t ⟨⟩
  exact h

/-! ### Operations of the state, and the rows of the instruction table

Each lemma stands after those of the operations it uses. -/

section
variable {s : State} (h : memoriesWf s = true)
include h

theorem memoriesWf_setLevel {n : Nat} : memoriesWf (s.setLevel n) = true := memoriesWf_with h

theorem memoriesWf_tick : memoriesWf s.tick = true := by
  unfold State.tick
  refine memoriesWf_ite (memoriesWf_with h) (memoriesWf_with ?_)
  split
  · exact memoriesWf_ite (memoriesWf_setLevel (memoriesWf_with h)) (memoriesWf_with h)
  · exact memoriesWf_with h

theorem memoriesWf_idle : memoriesWf s.idle = true := memoriesWf_tick h

theorem memoriesWf_completeDma {cid : Nat} : memoriesWf (s.completeDma cid) = true := by
  unfold State.completeDma
  split
  · exact h
  · exact memoriesWf_ite (memoriesWf_doneCmd _ _ _ h) h

theorem memoriesWf_updGroup {gid : Nat} {f : Group → Group} : memoriesWf (s.updGroup gid f) = true := memoriesWf_with h

theorem memoriesWf_breakGroup {gid member : Nat} : memoriesWf (s.breakGroup gid member) = true := memoriesWf_updGroup h

theorem memoriesWf_orphanTxns {mine : TxnOwner → Bool} : memoriesWf (s.orphanTxns mine) = true := memoriesWf_with h

theorem memoriesWf_freeBytes {n : Nat} : memoriesWf (s.freeBytes n).2 = true := memoriesWf_with h

theorem memoriesWf_scramble {x : CtxRef} {since va len : Nat} {own : Bool} : memoriesWf (s.scramble x since va len own) = true := by
  unfold State.scramble
  refine memoriesWf_foldl (fun _ _ h => ?_) h
  split
  · exact memoriesWf_ite (memoriesWf_ite (memoriesWf_ctxWrite _ _ _ (memoriesWf_freeBytes h)) (memoriesWf_homeWrite _ _ _ _ (memoriesWf_freeBytes h)))
        h
  · exact h

theorem memoriesWf_scrambleDst {g : Group} {k : Coll} : memoriesWf (s.scrambleDst g k) = true := by
  unfold State.scrambleDst
  split
  · exact h
  · split
    · exact memoriesWf_foldl (fun _ _ h => memoriesWf_ite h (memoriesWf_scramble h)) h
    · exact h

theorem memoriesWf_dropColl {gid blame detail : Nat} {st : Status} : memoriesWf (s.dropColl gid blame st detail) = true := by
  unfold State.dropColl
  split
  · exact h
  · split
    · exact memoriesWf_breakGroup h
    · exact memoriesWf_breakGroup (memoriesWf_orphanTxns (memoriesWf_endCmd _ _ _ (memoriesWf_updCmd _ _ (memoriesWf_scrambleDst h))))

theorem memoriesWf_emit {o : Output} : memoriesWf (s.emit o) = true := memoriesWf_with h

theorem memoriesWf_updPort {p : Nat} {f : Port → Port} : memoriesWf (s.updPort p f) = true := memoriesWf_with h

theorem memoriesWf_controlFlit {port : Nat} : memoriesWf (s.controlFlit port) = true := memoriesWf_ite h (memoriesWf_emit (memoriesWf_updPort h))

theorem memoriesWf_freeRx {port pool n : Nat} : memoriesWf (s.freeRx port pool n) = true :=
  memoriesWf_ite h (memoriesWf_controlFlit (memoriesWf_updPort h))

theorem memoriesWf_sendNow {port : Nat} {o : OutMsg} : memoriesWf (s.sendNow port o) = true := by
  unfold State.sendNow
  dsimp only
  split
  · exact memoriesWf_freeRx (memoriesWf_emit (memoriesWf_updPort h))
  · exact memoriesWf_emit (memoriesWf_updPort h)

theorem memoriesWf_putOut {port : Nat} {o : OutMsg} : memoriesWf (s.putOut port o) = true :=
  memoriesWf_ite (memoriesWf_sendNow h) (memoriesWf_updPort h)

theorem memoriesWf_putMsg {port : Nat} {m : Msg} {c : Option CollHdr} {data : List Byte} : memoriesWf (s.putMsg port m c data) = true :=
  memoriesWf_putOut (memoriesWf_countEvent _ _ _ _ h)

theorem memoriesWf_toMembers {g : Group} {typ seq status : Nat} : memoriesWf (s.toMembers g typ seq status) = true := by
  unfold State.toMembers
  refine memoriesWf_foldl (fun _ _ h => memoriesWf_ite h ?_) h
  split
  · exact h
  · exact memoriesWf_putMsg h

theorem memoriesWf_failColl {gid blame detail : Nat} {st : Status} : memoriesWf (s.failColl gid blame st detail) = true := by
  unfold State.failColl
  dsimp only
  split
  · exact memoriesWf_dropColl h
  · split
    · exact memoriesWf_dropColl h
    · exact memoriesWf_toMembers (memoriesWf_dropColl h)

theorem memoriesWf_markPoison {sec : Nat} : memoriesWf (s.markPoison sec) = true :=
  memoriesWf_ite h (memoriesWf_ite (memoriesWf_with h) (memoriesWf_updTag _ _ (memoriesWf_remember _ _ (memoriesWf_allocate _ _ _ _ h))))

theorem memoriesWf_updEpoch {c : CtxRef} {n : Nat} {f : Epoch → Epoch} : memoriesWf (s.updEpoch c n f) = true := memoriesWf_updCtx _ _ h

theorem memoriesWf_closeEpoch {c : CtxRef} {n : Nat} : memoriesWf (s.closeEpoch c n) = true := memoriesWf_updEpoch h

theorem memoriesWf_publishEpoch {c : CtxRef} {e : Epoch} : memoriesWf (s.publishEpoch c e) = true :=
  memoriesWf_foldl (fun _ _ h => memoriesWf_foldl (fun _ _ h => memoriesWf_ite (memoriesWf_ite (memoriesWf_markPoison h)
      (memoriesWf_homeWrite _ _ _ _ h)) h) h) (memoriesWf_closeEpoch h)

theorem memoriesWf_finishSpec {x : CtxRef} {c : Cmd} : memoriesWf (s.finishSpec x c) = true := by
  unfold State.finishSpec
  split
  · exact h
  · exact memoriesWf_ite (memoriesWf_publishEpoch h) (memoriesWf_closeEpoch h)

theorem memoriesWf_leaveSpec {cid : Nat} : memoriesWf (s.leaveSpec cid) = true := by
  unfold State.leaveSpec
  split
  · exact h
  · split
    · exact memoriesWf_ite (memoriesWf_finishSpec h) h
    · exact h

theorem memoriesWf_stopCmd {cid detail : Nat} {st : Status} : memoriesWf (s.stopCmd cid st detail) = true := by
  unfold State.stopCmd
  refine memoriesWf_doneCmd _ _ _ ?_
  split
  · exact memoriesWf_failColl (memoriesWf_orphanTxns (memoriesWf_updCmd _ _ (memoriesWf_leaveSpec h)))
  · exact memoriesWf_orphanTxns (memoriesWf_updCmd _ _ (memoriesWf_leaveSpec h))

theorem memoriesWf_markHeld {cid : Nat} {held : Bool} : memoriesWf (s.markHeld cid held) = true := memoriesWf_updCmd _ _ h

theorem memoriesWf_noteHeld {cid : Nat} : memoriesWf (s.noteHeld cid) = true := by
  unfold State.noteHeld
  split
  · exact h
  · split
    · exact h
    · exact memoriesWf_ite (memoriesWf_markHeld h) h

theorem memoriesWf_askXlat {inst : Nat} {x : Xlat} : memoriesWf (s.askXlat inst x) = true := by
  unfold State.askXlat
  split
  · exact memoriesWf_emit h
  · exact memoriesWf_fetchLine _ _ _ _ h
  · exact h

theorem memoriesWf_newChoice : memoriesWf s.newChoice = true := memoriesWf_ite h (memoriesWf_with h)

theorem memoriesWf_fetchGranule {a cls hi : Nat} {inst : Option Nat} : memoriesWf (s.fetchGranule a cls inst hi) = true :=
  memoriesWf_foldl (fun _ _ h => memoriesWf_ite (memoriesWf_fetchLine _ _ _ _ h) h) h

theorem memoriesWf_endPoisoned {cid : Nat} : memoriesWf (s.endPoisoned cid) = true := by
  unfold State.endPoisoned
  split
  · exact memoriesWf_stopCmd h
  · exact h

theorem memoriesWf_ctxPoison {c : CtxRef} {sec : Nat} : memoriesWf (s.ctxPoison c sec) = true := by
  unfold State.ctxPoison
  split
  · exact memoriesWf_updCtx _ _ h
  · exact memoriesWf_markPoison h

theorem memoriesWf_cmdPoisonHome {x : CtxRef} {cid a : Nat} : memoriesWf (s.cmdPoisonHome x cid a).1 = true :=
  memoriesWf_ite_fst h (memoriesWf_ctxPoison h)

theorem memoriesWf_cmdWriteHome {x : CtxRef} {cid a : Nat} {bs : List Byte} : memoriesWf (s.cmdWriteHome x cid a bs).1 = true :=
  memoriesWf_ite_fst (memoriesWf_useRegion _ _ h) (memoriesWf_ite_fst (memoriesWf_fetchLine _ _ _ _ (memoriesWf_useRegion _ _ h))
      (memoriesWf_ite_fst (memoriesWf_useRegion _ _ h) (memoriesWf_ctxWrite _ _ _ (memoriesWf_useRegion _ _ h))))

theorem memoriesWf_sendWrite {fn rid a : Nat} {data : List Byte} {poisoned : Bool} : memoriesWf (s.sendWrite fn rid a data poisoned) = true :=
  memoriesWf_emit h

theorem sentWf_requestVia {port gid bwg : Nat} {owner : TxnOwner} {m : Msg} {c : Option CollHdr} {data : List Byte} : SentWf
    (s.requestVia port gid bwg owner m c data) := by
  unfold State.requestVia
  split
  · exact trivial
  · exact SentWf.ite trivial (memoriesWf_with (memoriesWf_updPort (memoriesWf_putMsg h)))

theorem sentWf_request {inst pa : Nat} {owner : TxnOwner} {m : Msg} {data : List Byte} : SentWf (s.request inst owner pa m data) := by
  unfold State.request
  split
  · exact trivial
  · split
    · exact trivial
    · exact sentWf_requestVia h

theorem memoriesWf_cmdWrite {x : CtxRef} {cid va : Nat} {bs : List Byte} : memoriesWf (s.cmdWrite x cid va bs).1 = true := by
  unfold State.cmdWrite
  split
  · exact memoriesWf_stopCmd h
  · exact memoriesWf_askXlat (memoriesWf_newChoice h)
  · exact h
  · exact memoriesWf_ite_fst (memoriesWf_cmdPoisonHome (memoriesWf_newChoice h)) (memoriesWf_cmdWriteHome (memoriesWf_newChoice h))
  · exact memoriesWf_ite_fst (memoriesWf_sendWrite (memoriesWf_newChoice h)) (memoriesWf_sendWrite
        (memoriesWf_mk (mem_wf (memoriesWf_newChoice h)) (back_wf (memoriesWf_newChoice h)) (writeBytes_wf _ _ (hostMem_wf h))))
  · dsimp only
    split
    · rename_i e
      exact SentWf.ok e (sentWf_request (memoriesWf_newChoice h))
    · exact h

theorem memoriesWf_flushOut {x : CtxRef} {cid : Nat} {xs : List (Nat × List Byte)} : memoriesWf (s.flushOut x cid xs) = true := by
  induction xs generalizing s with
  | nil => exact memoriesWf_endPoisoned (memoriesWf_updCmd _ _ h)
  | cons x xs ih =>
    obtain ⟨va, bs⟩ := x
    rw [State.flushOut]
    split
    · rename_i e
      exact memoriesWf_ite (ih (memoriesWf_of_fst e (memoriesWf_cmdWrite h))) (memoriesWf_of_fst e (memoriesWf_cmdWrite h))
    · rename_i e
      exact memoriesWf_updCmd _ _ (memoriesWf_of_fst e (memoriesWf_cmdWrite h))

theorem memoriesWf_cmdPut {x : CtxRef} {cid va : Nat} {bs : List Byte} : memoriesWf (s.cmdPut x cid va bs) = true := memoriesWf_flushOut h

theorem memoriesWf_cmdPart {x : CtxRef} {cid dst : Nat} {bs : List Byte} {more : Bool} : memoriesWf (s.cmdPart x cid dst bs more) = true := by
  unfold State.cmdPart
  split
  · exact h
  · exact memoriesWf_ite (memoriesWf_updCmd _ _ h) (memoriesWf_cmdPut (memoriesWf_updCmd _ _ h))

theorem memoriesWf_cmdParts {x : CtxRef} {cid dst : Nat} {bs : List Byte} {more : Nat → Bool} : memoriesWf (s.cmdParts x cid dst bs more) = true :=
  memoriesWf_foldl (fun _ _ h => memoriesWf_cmdPart h) h

theorem memoriesWf_free : memoriesWf s.free.2 = true := memoriesWf_with h

theorem memoriesWf_bareFault {c : CtxRef} {cause : Cause} {core : Option Nat} : memoriesWf (s.bareFault c cause core) = true :=
  memoriesWf_ctxFault _ _ (memoriesWf_free (memoriesWf_free (memoriesWf_free h)))

theorem memoriesWf_cmdDead {x : CtxRef} : memoriesWf (s.cmdDead x) = true := memoriesWf_bareFault h

theorem memoriesWf_cmdPoison {x : CtxRef} {cid va n pa : Nat} : memoriesWf (s.cmdPoison x cid va n pa) = true :=
  memoriesWf_flushOut (memoriesWf_orphanTxns (memoriesWf_updCmd _ _ h))

theorem memoriesWf_fresh : memoriesWf s.fresh.2 = true := memoriesWf_with h

theorem memoriesWf_hostTxn {owner : TxnOwner} {va a : Nat} {o : State → Nat → State}
    (ho : ∀ (a : State) (b : Nat), memoriesWf a = true → memoriesWf (o a b) = true) : memoriesWf (s.hostTxn owner va a o) = true :=
  ho _ _ (memoriesWf_with (memoriesWf_fresh h))

theorem memoriesWf_sendRead {fn rid a len : Nat} : memoriesWf (s.sendRead fn rid a len) = true := memoriesWf_emit h

theorem memoriesWf_copyPiece {x : CtxRef} {c : Cmd} {va dst n : Nat} {next : Option (Nat × Nat × Nat)} : memoriesWf (s.copyPiece x c va dst n next).1
    = true := by
  unfold State.copyPiece
  split
  · exact memoriesWf_stopCmd h
  · exact memoriesWf_askXlat (memoriesWf_newChoice h)
  · exact h
  · extract_lets t done
    have ht : memoriesWf t = true := memoriesWf_useRegion _ _ (memoriesWf_newChoice h)
    have hd : ∀ {u : State} {bs : List Byte}, memoriesWf u = true → memoriesWf (done u bs).1 = true :=
      fun h => memoriesWf_cmdParts (memoriesWf_ite (memoriesWf_declareDead _ _ h) h)
    clear_value t done
    refine memoriesWf_ite_fst ht (memoriesWf_ite_fst (memoriesWf_fetchGranule ht) ?_)
    split
    · exact memoriesWf_ite_fst ht (hd (memoriesWf_touch _ ht))
    · exact memoriesWf_ite_fst ht (hd (memoriesWf_countReread _ _ ht))
    · exact memoriesWf_cmdDead ht
    · exact memoriesWf_cmdPoison ht
  · exact memoriesWf_ite_fst (memoriesWf_hostTxn (memoriesWf_newChoice h) (fun _ _ h => memoriesWf_sendRead h)) h
  · split
    · rename_i e
      have ht := SentWf.ok e (sentWf_request (memoriesWf_newChoice h))
      refine memoriesWf_ite_fst ?_ ht
      split
      · rename_i e
        exact SentWf.ok e (sentWf_request ht)
      · exact h
    · exact h

theorem memoriesWf_pumpPieces {x : CtxRef} {cid : Nat} {xs : List (Nat × Nat × Nat)} : memoriesWf (s.pumpPieces x cid xs) = true := by
  induction xs generalizing s with
  | nil => exact memoriesWf_updCmd _ _ h
  | cons x xs ih =>
    obtain ⟨src, dst, n⟩ := x
    rw [State.pumpPieces]
    split
    · exact h
    · refine memoriesWf_ite h (memoriesWf_ite (memoriesWf_updCmd _ _ h) (memoriesWf_ite (memoriesWf_updCmd _ _ h)
          (memoriesWf_ite (memoriesWf_ite (ih h) (memoriesWf_updCmd _ _ h)) (memoriesWf_ite (memoriesWf_updCmd _ _ (memoriesWf_updCmd _ _ h)) ?_))))
      split
      · rename_i e
        exact memoriesWf_ite (memoriesWf_of_fst e (memoriesWf_copyPiece (memoriesWf_updCmd _ _ h)))
            (ih (memoriesWf_of_fst e (memoriesWf_copyPiece (memoriesWf_updCmd _ _ h))))
      · rename_i e
        exact memoriesWf_updCmd _ _ (memoriesWf_of_fst e (memoriesWf_copyPiece (memoriesWf_updCmd _ _ h)))

theorem memoriesWf_pump {cid : Nat} : memoriesWf (s.pump cid) = true := by
  unfold State.pump
  split
  · exact h
  · split
    · exact h
    · exact memoriesWf_ite h (memoriesWf_ite (memoriesWf_stopCmd h) (memoriesWf_noteHeld (memoriesWf_pumpPieces (memoriesWf_flushOut h))))

theorem memoriesWf_finishColl {c : Cmd} : memoriesWf (s.finishColl c) = true := by
  unfold State.finishColl
  split
  · exact h
  · exact memoriesWf_ite (memoriesWf_doneCmd _ _ _ (memoriesWf_updCmd _ _ (memoriesWf_updGroup h))) h

theorem memoriesWf_withRings {t : State} {i : Nat} {go : State → State} (ht : memoriesWf t = true)
    (hgo : ∀ (a : State), memoriesWf a = true → memoriesWf (go a) = true) : memoriesWf (s.withRings t i go) = true :=
  memoriesWf_ite (hgo _ ht) (memoriesWf_foldl (fun _ _ h => memoriesWf_fetchLine _ _ _ _ h) h)

theorem memoriesWf_updCore {n : Nat} {f : Core → Core} : memoriesWf (s.updCore n f) = true := memoriesWf_with h

theorem memoriesWf_countReset {i : Nat} : memoriesWf (s.countReset i) = true := memoriesWf_with h

theorem memoriesWf_endEpochs {c : CtxRef} : memoriesWf (s.endEpochs c) = true := by
  unfold State.endEpochs
  refine memoriesWf_foldl (fun _ _ h => ?_) h
  split
  · exact h
  · exact memoriesWf_publishEpoch h
  · exact memoriesWf_closeEpoch h

theorem memoriesWf_updSlot {r : SlotRef} {f : Slot → Slot} : memoriesWf (s.updSlot r f) = true := memoriesWf_updCore h

theorem memoriesWf_fillLeaves {p : Replay} : memoriesWf (s.fillLeaves p) = true := by
  unfold State.fillLeaves
  split
  · exact h
  · exact memoriesWf_with h

theorem memoriesWf_fillsLeave {xs : List Replay} : memoriesWf (s.fillsLeave xs) = true := by
  induction xs generalizing s with
  | nil => exact h
  | cons x xs ih => exact memoriesWf_ite (ih (memoriesWf_fillLeaves (memoriesWf_with h))) (ih h)

theorem memoriesWf_trimReplay : memoriesWf s.trimReplay = true := memoriesWf_fillsLeave (memoriesWf_with h)

theorem memoriesWf_freePipes {core : Nat} {gone : Nat → Bool} : memoriesWf (s.freePipes core gone) = true := memoriesWf_updCore h

theorem memoriesWf_dropReqs {r : SlotRef} : memoriesWf (s.dropReqs r) = true :=
  memoriesWf_trimReplay (memoriesWf_with (memoriesWf_with (memoriesWf_updSlot (memoriesWf_freePipes (memoriesWf_updCore h)))))

theorem memoriesWf_wipeSlot {r : SlotRef} : memoriesWf (s.wipeSlot r) = true := memoriesWf_updCore (memoriesWf_updSlot (memoriesWf_dropReqs h))

theorem memoriesWf_killComplete {c : CtxRef} : memoriesWf (s.killComplete c) = true := by
  unfold State.killComplete
  split
  · exact h
  · exact memoriesWf_ite h (memoriesWf_foldl (fun _ _ h => memoriesWf_msix _ _ h)
        (memoriesWf_event _ _ (memoriesWf_foldl (fun _ _ h => memoriesWf_finishCmd _ h)
        (memoriesWf_foldl (fun _ _ h => memoriesWf_endCmd _ _ _ h) (memoriesWf_updInst _ _
        (memoriesWf_updCtx _ _ (memoriesWf_endEpochs (memoriesWf_foldl (fun _ _ h => memoriesWf_wipeSlot h) h))))))))

theorem memoriesWf_killCtx {c : CtxRef} : memoriesWf (s.killCtx c) = true := by
  unfold State.killCtx
  split
  · exact h
  · exact memoriesWf_ite h (memoriesWf_foldl (fun _ _ h => memoriesWf_failColl h)
        (memoriesWf_foldl (fun _ _ h => memoriesWf_updSlot (memoriesWf_dropReqs h)) (memoriesWf_countReset (memoriesWf_updCtx _ _ h))))

theorem memoriesWf_killWhole {c : CtxRef} {cause : Cause} {core : Option Nat} : memoriesWf (s.killWhole c cause core) = true :=
  memoriesWf_killComplete (memoriesWf_killCtx (memoriesWf_bareFault h))

theorem memoriesWf_fenceLaunch {core : Nat} {d : Cmd} : memoriesWf (s.fenceLaunch core d) = true := by
  unfold State.fenceLaunch
  refine memoriesWf_ite (memoriesWf_ite ?_ (memoriesWf_finishCmd _ (memoriesWf_endCmd _ _ _
      (memoriesWf_foldl (fun _ _ h => memoriesWf_updSlot h) h)))) h
  split
  · exact memoriesWf_killWhole h
  · exact h

theorem memoriesWf_tdiError {inst : Nat} : memoriesWf (s.tdiError inst) = true := by
  unfold State.tdiError
  split
  · exact h
  · exact memoriesWf_ite (memoriesWf_emit (memoriesWf_updInst _ _ h)) h

theorem memoriesWf_fenceNow {core cause : Nat} : memoriesWf (s.fenceNow core cause) = true :=
  memoriesWf_ite h (memoriesWf_error _ _ _ _ (memoriesWf_event _ _ (memoriesWf_with
      (memoriesWf_updCore (memoriesWf_countReset (memoriesWf_foldl (fun _ _ h => memoriesWf_fenceLaunch h)
      (memoriesWf_foldl (fun _ _ h => memoriesWf_killWhole h) (memoriesWf_foldl (fun _ _ h => memoriesWf_tdiError h) h))))))))

theorem memoriesWf_runFences : memoriesWf s.runFences = true :=
  memoriesWf_foldl (fun _ _ h => memoriesWf_ite h (memoriesWf_fenceNow (memoriesWf_with h))) h

theorem memoriesWf_zeroRing {i : Nat} {q : Queue} : memoriesWf (s.zeroRing i q) = true := by
  unfold State.zeroRing
  refine memoriesWf_ite h (memoriesWf_ite (memoriesWf_ringFault _ h) (memoriesWf_foldl (fun _ _ h => ?_) h))
  split
  · exact memoriesWf_homeWrite _ _ _ _ h
  · exact h

theorem memoriesWf_zeroRings {i : Nat} : memoriesWf (s.zeroRings i) = true := memoriesWf_foldl (fun _ _ h => memoriesWf_zeroRing h) h

theorem memoriesWf_resetRestart {i : Nat} : memoriesWf (s.resetRestart i) = true :=
  memoriesWf_zeroRings (memoriesWf_updInst _ _ (memoriesWf_foldl (fun _ _ h => memoriesWf_breakGroup h) h))

theorem memoriesWf_resetWipe {i : Nat} : memoriesWf (s.resetWipe i) = true :=
  memoriesWf_with (memoriesWf_foldl (fun _ _ h => memoriesWf_wipeSlot h) (memoriesWf_foldl (fun _ _ h => memoriesWf_endEpochs h) h))

theorem memoriesWf_resetSquash {i : Nat} : memoriesWf (s.resetSquash i) = true := memoriesWf_foldl (fun _ _ h => memoriesWf_stopCmd h) h

theorem memoriesWf_resetEnd {i : Nat} : memoriesWf (s.resetEnd i) = true :=
  memoriesWf_runFences (memoriesWf_resetRestart (memoriesWf_resetWipe (memoriesWf_resetSquash h)))

theorem memoriesWf_zeroGrant {i : Inst} : memoriesWf (s.zeroGrant i) = true :=
  memoriesWf_mk (spWipe_wf _ (mem_wf h)) (spWipe_wf _ (back_wf h)) (hostMem_wf h)

theorem memoriesWf_flushPrivate {i : Inst} : memoriesWf (s.flushPrivate i) = true := memoriesWf_foldl (fun _ _ h => memoriesWf_evict _ h) h

theorem memoriesWf_endReq {x : Req} : memoriesWf (s.endReq x) = true := memoriesWf_ite (memoriesWf_updCore (memoriesWf_with h)) (memoriesWf_with h)

theorem memoriesWf_dropInstReqs {i : Nat} : memoriesWf (s.dropInstReqs i) = true :=
  memoriesWf_orphanTxns (memoriesWf_foldl (fun _ _ h => memoriesWf_endReq h) h)

theorem memoriesWf_removeInst {i : Inst} : memoriesWf (s.removeInst i) = true :=
  memoriesWf_with (memoriesWf_zeroGrant (memoriesWf_flushPrivate (memoriesWf_dropInstReqs h)))

theorem memoriesWf_destroyEnd {i : Nat} : memoriesWf (s.destroyEnd i) = true := by
  unfold State.destroyEnd
  dsimp only
  split
  · exact memoriesWf_runFences (memoriesWf_removeInst (memoriesWf_resetWipe (memoriesWf_resetSquash h)))
  · exact memoriesWf_resetWipe (memoriesWf_resetSquash h)

theorem memoriesWf_completeActive {c : Cmd} : memoriesWf (s.completeActive c) = true := by
  unfold State.completeActive
  split
  · exact memoriesWf_completeDma (memoriesWf_ite (memoriesWf_pump h) h)
  · exact memoriesWf_ite (memoriesWf_doneCmd _ _ _ h) h
  · exact memoriesWf_finishColl h
  · split
    · exact memoriesWf_doneCmd _ _ _ (memoriesWf_finishSpec h)
    · exact h
  · exact h
  · exact memoriesWf_ite (memoriesWf_ite (memoriesWf_doneCmd _ _ _ (memoriesWf_updInst _ _ h)) h)
        (memoriesWf_ite (memoriesWf_withRings h h (fun _ h => memoriesWf_doneCmd _ _ _ (memoriesWf_drainEvents (memoriesWf_resetEnd h))))
        (memoriesWf_ite (memoriesWf_doneCmd _ _ _ (memoriesWf_drainEvents (memoriesWf_destroyEnd h))) h))

theorem memoriesWf_herdFault {r : HerdRef} {hd : Herd} {cause : Cause} {lane addr : Nat} : memoriesWf (s.herdFault r hd cause lane addr) = true :=
  memoriesWf_ctxFault _ _ h

theorem memoriesWf_noteRegion {cid a : Nat} : memoriesWf (s.noteRegion cid a) = true := memoriesWf_ite (memoriesWf_updCmd _ _ h) h

theorem memoriesWf_updHerd {hd : HerdRef} {f : Herd → Herd} : memoriesWf (s.updHerd hd f) = true := memoriesWf_updCore h

theorem memoriesWf_takeWord {r : HerdRef} {hd : Herd} {w : Word64} : memoriesWf (s.takeWord r hd w) = true := by
  unfold State.takeWord
  split
  · exact memoriesWf_countEvent _ _ _ _ (memoriesWf_updHerd h)
  · exact memoriesWf_ite (memoriesWf_updHerd h) (memoriesWf_herdFault h)

theorem keeps_execInstructionFetch {r : HerdRef} {stale : Bool} : Keeps (execInstructionFetch r stale s) := by
  unfold execInstructionFetch
  refine keeps_next ?_
  split
  · exact h
  · refine memoriesWf_ite h ?_
    split
    · refine memoriesWf_ite ?_ (memoriesWf_ite (memoriesWf_fetchLine _ _ _ _ (memoriesWf_noteRegion (memoriesWf_newChoice h)))
          (memoriesWf_ite (memoriesWf_herdFault (memoriesWf_newChoice h)) (memoriesWf_takeWord (memoriesWf_newChoice (memoriesWf_newChoice h)))))
      dsimp only
      split
      · rename_i e
        exact memoriesWf_with (SentWf.ok e (sentWf_request (memoriesWf_fresh (memoriesWf_newChoice h))))
      · exact memoriesWf_herdFault (memoriesWf_newChoice h)
      · exact memoriesWf_herdFault (memoriesWf_newChoice h)
      · exact memoriesWf_newChoice h
    · exact memoriesWf_ite (memoriesWf_herdFault (memoriesWf_newChoice h)) (memoriesWf_ite (memoriesWf_newChoice h)
          (memoriesWf_sendRead (memoriesWf_with (memoriesWf_with (memoriesWf_newChoice h)))))
    · split
      · exact memoriesWf_herdFault h
      · exact memoriesWf_ite (memoriesWf_herdFault h) (memoriesWf_askXlat (memoriesWf_newChoice h))

theorem memoriesWf_issue {r : HerdRef} {f : Fields} {sh : Shape} {go : State → Herd → LaneMask → State}
    (hgo : ∀ (a : State) (b : Herd) (d : LaneMask), memoriesWf a = true → memoriesWf (go a b d) = true) : memoriesWf (s.issue r f sh go) =
    true := by
  unfold State.issue
  split
  · exact h
  · exact memoriesWf_ite (memoriesWf_updHerd h) (memoriesWf_ite (memoriesWf_herdFault h) (memoriesWf_ite h (hgo _ _ _ h)))

theorem memoriesWf_issueHerd {r : HerdRef} {f : Fields} {sh : Shape} {go : Herd → LaneMask → Herd} : memoriesWf (s.issueHerd r f sh go) = true :=
  memoriesWf_issue h (fun _ _ _ h => memoriesWf_updHerd h)

theorem memoriesWf_alu {r : HerdRef} {f : Fields} {a : AluForm} {op : Herd → Nat → Nat → Nat → Nat → Nat → Nat} : memoriesWf (s.alu r f a op) = true
    :=
  memoriesWf_issueHerd h

theorem memoriesWf_trans {hd : HerdRef} {f : Fields} {rounds : Bool} {op : Nat → Nat} : memoriesWf (s.trans hd f rounds op) = true :=
  memoriesWf_issueHerd h

theorem memoriesWf_cmpPred {hd : HerdRef} {f : Fields} {types : List Nat} : memoriesWf (s.cmpPred hd f types) = true := memoriesWf_issueHerd h

theorem memoriesWf_vote {hd : HerdRef} {f : Fields} {p : LaneMask → LaneMask → Bool} : memoriesWf (s.vote hd f p) = true := memoriesWf_issueHerd h

theorem memoriesWf_laneMove {hd : HerdRef} {f : Fields} {src : Nat → Nat → Nat} : memoriesWf (s.laneMove hd f src) = true := memoriesWf_issueHerd h

theorem memoriesWf_reduce {hd : HerdRef} {f : Fields} {op : Nat → Nat → Nat → Nat} : memoriesWf (s.reduce hd f op) = true := memoriesWf_issueHerd h

theorem memoriesWf_issueMem {r : HerdRef} {f : Fields} {sh : Shape} {stores : Bool} {go : State → Herd → LaneMask → State}
    (hgo : ∀ (a : State) (b : Herd) (d : LaneMask), memoriesWf a = true → memoriesWf (go a b d) = true) : memoriesWf
    (s.issueMem r f sh stores go) = true :=
  memoriesWf_issue h (fun _ _ _ h => memoriesWf_ite h (hgo _ _ _ (memoriesWf_freePipes h)))

theorem memoriesWf_withScratch {r : HerdRef} {hd : Herd} {size : Nat} {xs : List (Nat × Nat)} {go : State} (hgo : memoriesWf go = true) : memoriesWf
    (s.withScratch r hd size xs go) = true := by
  unfold State.withScratch
  dsimp only
  split
  · exact memoriesWf_herdFault h
  · exact hgo

theorem memoriesWf_ldScratch {r : HerdRef} {f : Fields} {hd : Herd} {act : LaneMask} : memoriesWf (s.ldScratch r f hd act) = true :=
  memoriesWf_withScratch h (memoriesWf_updHerd h)

theorem memoriesWf_withLanes {r : HerdRef} {hd : Herd} {xs : List LaneVa} {go : State → List (Nat × Nat × LaneTo) → State}
    (hgo : ∀ (a : State) (b : List (Nat × Nat × LaneTo)), memoriesWf a = true → memoriesWf (go a b) = true) : memoriesWf (s.withLanes r hd xs go)
    = true := by
  unfold State.withLanes
  split
  · exact memoriesWf_herdFault h
  · split
    · exact memoriesWf_askXlat (memoriesWf_newChoice h)
    · exact hgo _ _ (memoriesWf_newChoice h)

theorem memoriesWf_holdPipe {r : HerdRef} : memoriesWf (s.holdPipe r) = true := memoriesWf_updCore h

theorem memoriesWf_touchL1 {r : SlotRef} {line : Nat} : memoriesWf (s.touchL1 r line) = true := memoriesWf_updCore h

theorem memoriesWf_addReq {q : Nat → Req} : memoriesWf (s.addReq q) = true := memoriesWf_with (memoriesWf_fresh h)

theorem memoriesWf_ldHost {op : Nat} {r : HerdRef} {f : Fields} {hd : Herd} {xs : List LaneAcc} : memoriesWf (s.ldHost op r f hd xs) = true :=
  memoriesWf_foldl (fun _ _ h => memoriesWf_sendRead (memoriesWf_addReq h)) h

theorem memoriesWf_addFetch {q : Nat → Req} : memoriesWf (s.addFetch q) = true :=
  memoriesWf_ite (memoriesWf_updCore (memoriesWf_addReq h)) (memoriesWf_addReq h)

theorem memoriesWf_ldHome {op : Nat} {r : HerdRef} {f : Fields} {hd : Herd} {xs : List (Nat × List LaneAcc)} : memoriesWf (s.ldHome op r f hd xs) =
    true := by
  induction xs generalizing s with
  | nil => exact h
  | cons x xs ih => exact ih (memoriesWf_foldl (fun _ _ h => memoriesWf_addReq h) (memoriesWf_ite h (memoriesWf_addFetch h)))

theorem memoriesWf_takeLanding {core n : Nat} : memoriesWf (s.takeLanding core n) = true := memoriesWf_updCore h

theorem optionWf_sentAll {inst : Nat} {xs : List ((Nat → Req) × Nat × Msg × List Byte)} : OptionWf (s.sentAll inst xs) := by
  induction xs generalizing s with
  | nil => exact h
  | cons x xs ih =>
    obtain ⟨q, pa, m, data⟩ := x
    rw [State.sentAll]
    split
    · rename_i e
      exact ih (memoriesWf_with (SentWf.ok e (sentWf_request (memoriesWf_fresh h))))
    · exact trivial

theorem memoriesWf_sendAll {inst : Nat} {xs : List ((Nat → Req) × Nat × Msg × List Byte)} : memoriesWf (s.sendAll inst xs).1 = true := by
  unfold State.sendAll
  split
  · rename_i e
    exact OptionWf.some e (optionWf_sentAll h)
  · exact h

theorem memoriesWf_ldGlobal {r : HerdRef} {f : Fields} {hd : Herd} {act : LaneMask} : memoriesWf (s.ldGlobal r f hd act) = true := by
  unfold State.ldGlobal
  refine memoriesWf_withLanes h (fun _ _ h => memoriesWf_ite (memoriesWf_holdPipe h) (memoriesWf_ite h ?_))
  dsimp only
  split
  · exact h
  · rename_i e
    exact memoriesWf_updHerd (memoriesWf_foldl (fun _ _ h => memoriesWf_touchL1 h)
        (memoriesWf_ite (memoriesWf_foldl (fun _ _ h => memoriesWf_addReq h) (memoriesWf_ldHost
        (memoriesWf_ldHome (memoriesWf_takeLanding (memoriesWf_of_fst e (memoriesWf_sendAll (memoriesWf_fresh h)))))))
        (memoriesWf_ldHost (memoriesWf_ldHome (memoriesWf_takeLanding (memoriesWf_of_fst e (memoriesWf_sendAll (memoriesWf_fresh h))))))))

theorem memoriesWf_coreCe {core memory : Nat} : memoriesWf (s.coreCe core memory) = true := memoriesWf_error _ _ _ _ h

theorem memoriesWf_fenceCore {core cause : Nat} : memoriesWf (s.fenceCore core cause) = true :=
  memoriesWf_ite h (memoriesWf_ite (memoriesWf_with h) (memoriesWf_fenceNow h))

theorem memoriesWf_coreUe {core memory inst : Nat} : memoriesWf (s.coreUe core memory inst) = true :=
  memoriesWf_ite (memoriesWf_fenceCore (memoriesWf_updCore (memoriesWf_error _ _ _ _ h))) (memoriesWf_updCore (memoriesWf_error _ _ _ _ h))

theorem memoriesWf_sramKill {r : HerdRef} {hd : Herd} {act : LaneMask} {memory : Nat} : memoriesWf (s.sramKill r hd act memory) = true :=
  memoriesWf_coreUe (memoriesWf_herdFault h)

theorem memoriesWf_dropTouched {r : HerdRef} {f : Fields} {hd : Herd} {act : LaneMask} : memoriesWf (s.dropTouched r f hd act) = true :=
  memoriesWf_updSlot h

theorem keeps_execLd {r : HerdRef} {f : Fields} {err : CoreErr} : Keeps (execLd r f err s) := by
  unfold execLd
  refine keeps_next (memoriesWf_issueMem h (fun _ _ _ h => ?_))
  dsimp only
  split
  · exact memoriesWf_ite (memoriesWf_ldScratch h) (memoriesWf_ldGlobal h)
  · exact memoriesWf_ite (memoriesWf_ldScratch (memoriesWf_coreCe h)) (memoriesWf_ldGlobal (memoriesWf_coreCe h))
  · exact memoriesWf_ite (memoriesWf_sramKill h) (memoriesWf_ite (memoriesWf_ite (memoriesWf_ldScratch (memoriesWf_coreCe (memoriesWf_dropTouched h)))
        (memoriesWf_ldGlobal (memoriesWf_coreCe (memoriesWf_dropTouched h)))) (memoriesWf_ite
        (memoriesWf_ite (memoriesWf_ldScratch (memoriesWf_coreCe h)) (memoriesWf_ldGlobal (memoriesWf_coreCe h)))
        (memoriesWf_ite (memoriesWf_ldScratch h) (memoriesWf_ldGlobal h))))

theorem memoriesWf_stScratch {r : HerdRef} {f : Fields} {hd : Herd} {act : LaneMask} : memoriesWf (s.stScratch r f hd act) = true :=
  memoriesWf_withScratch h (memoriesWf_updHerd (memoriesWf_updSlot h))

theorem memoriesWf_stHost {op : Nat} {r : HerdRef} {hd : Herd} {xs : List LaneAcc} : memoriesWf (s.stHost op r hd xs) = true :=
  memoriesWf_foldl (fun _ _ h => memoriesWf_sendRead (memoriesWf_sendWrite (memoriesWf_addReq
      (memoriesWf_mk (mem_wf h) (back_wf h) (writeBytes_wf _ _ (hostMem_wf h)))))) h

theorem memoriesWf_storeL1 {r : HerdRef} {hd : Herd} {x : LaneAcc} : memoriesWf (s.storeL1 r hd x) = true := memoriesWf_with (memoriesWf_updSlot h)

theorem memoriesWf_stGlobal {r : HerdRef} {f : Fields} {hd : Herd} {act : LaneMask} : memoriesWf (s.stGlobal r f hd act) = true := by
  unfold State.stGlobal
  refine memoriesWf_withLanes h (fun _ _ h => memoriesWf_ite h ?_)
  dsimp only
  split
  · exact h
  · rename_i e
    exact memoriesWf_updHerd (memoriesWf_stHost (memoriesWf_foldl (fun _ _ h => memoriesWf_addReq h)
        (memoriesWf_foldl (fun _ _ h => memoriesWf_storeL1 h) (memoriesWf_of_fst e (memoriesWf_sendAll (memoriesWf_fresh h))))))

theorem keeps_execSt {r : HerdRef} {f : Fields} : Keeps (execSt r f s) :=
  keeps_next (memoriesWf_issueMem h (fun _ _ _ h => memoriesWf_ite (memoriesWf_stScratch h) (memoriesWf_stGlobal h)))

theorem memoriesWf_invalidateL1 {r : SlotRef} : memoriesWf (s.invalidateL1 r) = true := memoriesWf_with (memoriesWf_updSlot h)

theorem memoriesWf_atomScratch {r : HerdRef} {f : Fields} {hd : Herd} {act : LaneMask} : memoriesWf (s.atomScratch r f hd act) = true :=
  memoriesWf_withScratch h (memoriesWf_ite (memoriesWf_invalidateL1 (memoriesWf_updHerd (memoriesWf_updSlot h)))
      (memoriesWf_updHerd (memoriesWf_updSlot h)))

theorem memoriesWf_sendAtomic {fn rid a size operand compare : Nat} {kind : AtomKind} : memoriesWf (s.sendAtomic fn rid a kind size operand compare) =
    true :=
  memoriesWf_emit h

theorem memoriesWf_atomHost {op : Nat} {r : HerdRef} {f : Fields} {hd : Herd} {kind : AtomKind} {xs : List LaneAcc} : memoriesWf
    (s.atomHost op r f hd kind xs) = true :=
  memoriesWf_foldl (fun _ _ h => memoriesWf_sendAtomic (memoriesWf_addReq h)) h

theorem memoriesWf_atomGlobal {r : HerdRef} {f : Fields} {hd : Herd} {act : LaneMask} : memoriesWf (s.atomGlobal r f hd act) = true := by
  unfold State.atomGlobal
  refine memoriesWf_withLanes h (fun _ _ h => memoriesWf_ite h ?_)
  dsimp only
  split
  · exact h
  · rename_i e
    refine memoriesWf_updHerd ?_
    split
    · exact memoriesWf_atomHost (memoriesWf_foldl (fun _ _ h => memoriesWf_addReq h) (memoriesWf_of_fst e (memoriesWf_sendAll (memoriesWf_fresh h))))
    · exact memoriesWf_foldl (fun _ _ h => memoriesWf_addReq h) (memoriesWf_of_fst e (memoriesWf_sendAll (memoriesWf_fresh h)))

theorem keeps_execAtom {r : HerdRef} {f : Fields} : Keeps (execAtom r f s) :=
  keeps_next (memoriesWf_issueMem h (fun _ _ _ h => memoriesWf_ite (memoriesWf_ite h (memoriesWf_atomScratch h)) (memoriesWf_atomGlobal h)))

theorem keeps_execStAdd {r : HerdRef} {f : Fields} : Keeps (execStAdd r f s) := by
  unfold execStAdd
  refine keeps_next (memoriesWf_issueMem h (fun _ _ _ h => memoriesWf_withLanes h (fun _ _ h => ?_)))
  dsimp only
  split
  · exact h
  · rename_i e
    exact memoriesWf_updHerd (memoriesWf_foldl (fun _ _ h => memoriesWf_addReq h) (memoriesWf_of_fst e (memoriesWf_sendAll (memoriesWf_fresh h))))

theorem memoriesWf_withTargets {r : HerdRef} {hd : Herd} {lane : Nat} {as : List Word64} {go : State → State}
    (hgo : ∀ (a : State), memoriesWf a = true → memoriesWf (go a) = true) : memoriesWf (s.withTargets r hd lane as go) = true := by
  unfold State.withTargets
  dsimp only
  split
  · exact memoriesWf_askXlat (memoriesWf_newChoice h)
  · split
    · exact memoriesWf_herdFault h
    · exact hgo _ (memoriesWf_newChoice h)

theorem keeps_execBra {r : HerdRef} {f : Fields} : Keeps (execBra r f s) := by
  unfold execBra
  refine keeps_next ?_
  split
  · exact h
  · exact memoriesWf_ite (memoriesWf_updHerd h) (memoriesWf_ite (memoriesWf_herdFault h)
        (memoriesWf_ite (memoriesWf_withTargets h (fun _ h => memoriesWf_updHerd h))
        (memoriesWf_ite (memoriesWf_withTargets h (fun _ h => memoriesWf_updHerd h))
        (memoriesWf_ite (memoriesWf_herdFault h) (memoriesWf_withTargets h (fun _ h => memoriesWf_updHerd h))))))

theorem keeps_execCall {r : HerdRef} {f : Fields} : Keeps (execCall r f s) :=
  keeps_next (memoriesWf_issue h (fun _ _ _ h => memoriesWf_ite (memoriesWf_herdFault h)
      (memoriesWf_withTargets h (fun _ h => memoriesWf_updHerd h))))

theorem keeps_execRet {r : HerdRef} {f : Fields} : Keeps (execRet r f s) := by
  unfold execRet
  refine keeps_next (memoriesWf_issue h (fun _ _ _ h => ?_))
  split
  · exact memoriesWf_updHerd h
  · exact memoriesWf_herdFault h

theorem memoriesWf_endHerd {r : HerdRef} {hd : Herd} : memoriesWf (s.endHerd r hd) = true :=
  memoriesWf_updSlot (memoriesWf_freePipes (memoriesWf_updCore (memoriesWf_with h)))

theorem memoriesWf_putHerd {r : HerdRef} {hd : Herd} : memoriesWf (s.putHerd r hd) = true :=
  memoriesWf_ite (memoriesWf_endHerd h) (memoriesWf_updHerd h)

theorem keeps_execTrap {r : HerdRef} {f : Fields} : Keeps (execTrap r f s) := keeps_next (memoriesWf_issue h (fun _ _ _ h => memoriesWf_herdFault h))

theorem keeps_execFence {r : HerdRef} {f : Fields} : Keeps (execFence r f s) :=
  keeps_next (memoriesWf_issue h (fun _ _ _ h => memoriesWf_ite h (memoriesWf_ite
      (memoriesWf_ite (memoriesWf_updHerd (memoriesWf_with h)) (memoriesWf_with h))
      (memoriesWf_ite h (memoriesWf_ite (memoriesWf_invalidateL1 (memoriesWf_updHerd h)) (memoriesWf_updHerd h))))))

theorem memoriesWf_arrive {r : HerdRef} {slot bar count : Nat} : memoriesWf (s.arrive r slot bar count) = true :=
  memoriesWf_ite (memoriesWf_updSlot (memoriesWf_foldl (fun _ _ h => memoriesWf_updHerd h) (memoriesWf_updSlot (memoriesWf_updHerd h))))
      (memoriesWf_updSlot (memoriesWf_updHerd h))

theorem keeps_execBar {r : HerdRef} {f : Fields} : Keeps (execBar r f s) :=
  keeps_next (memoriesWf_issue h (fun _ _ _ h => memoriesWf_ite h (memoriesWf_ite (memoriesWf_updHerd (memoriesWf_invalidateL1 h))
      (memoriesWf_arrive (memoriesWf_invalidateL1 h)))))

theorem keeps_execHsync {r : HerdRef} {f : Fields} : Keeps (execHsync r f s) :=
  keeps_next (memoriesWf_issue h (fun _ _ _ h => memoriesWf_ite (memoriesWf_updHerd h) (memoriesWf_herdFault h)))

theorem memoriesWf_enqueue {r : HerdRef} {f : Fields} {springbok : Bool} {hd : Herd} {act : LaneMask} : memoriesWf (s.enqueue r f springbok hd act) =
    true :=
  memoriesWf_ite h (memoriesWf_ite (memoriesWf_herdFault h) (memoriesWf_ite (memoriesWf_herdFault h)
      (memoriesWf_ite h (memoriesWf_ite (memoriesWf_herdFault h) (memoriesWf_updHerd (memoriesWf_updSlot (memoriesWf_fresh h)))))))

theorem keeps_execMxWait {r : HerdRef} {f : Fields} : Keeps (execMxWait r f s) :=
  keeps_next (memoriesWf_issue h (fun _ _ _ h => memoriesWf_ite h (memoriesWf_updHerd (memoriesWf_with h))))

theorem memoriesWf_clockRow {go : State} (hgo : memoriesWf go = true) : memoriesWf (s.clockRow go) = true := memoriesWf_ite hgo h

theorem keeps_execContextWatchdog {cid : Nat} : Keeps (execContextWatchdog cid s) := by
  unfold execContextWatchdog
  refine keeps_next (memoriesWf_clockRow h ?_)
  split
  · exact h
  · split
    · split
      · exact h
      · exact memoriesWf_ite (memoriesWf_bareFault h) h
    · exact h

theorem memoriesWf_start {q : QRef} {x : Queue} {c : Cmd} : memoriesWf (s.start q x c) = true := by
  unfold State.start
  dsimp only
  split
  · exact memoriesWf_doneCmd _ _ _ (memoriesWf_updCmd _ _ h)
  · exact memoriesWf_updCmd _ _ h

theorem memoriesWf_askRing {q : QRef} {x : Queue} {have_ : List Byte} {x1 : RingAccess} : memoriesWf (s.askRing q x have_ x1) = true := by
  unfold State.askRing
  split
  · exact memoriesWf_ite h (memoriesWf_sendRead (memoriesWf_updQueue _ _ (memoriesWf_with (memoriesWf_fresh h))))
  · exact memoriesWf_ringAsk _ h

theorem memoriesWf_enter {q : QRef} {n : Nat} {pkt : List Byte} {phase : CmdPhase} : memoriesWf (s.enter q n pkt phase) = true :=
  memoriesWf_with (memoriesWf_fresh (memoriesWf_updQueue _ _ h))

theorem memoriesWf_enterEnded {q : QRef} {n detail : Nat} {pkt : List Byte} {st : Status} : memoriesWf (s.enterEnded q n pkt st detail) = true :=
  memoriesWf_finishCmd _ (memoriesWf_enter h)

theorem memoriesWf_readPacket {q : QRef} {x : Queue} : memoriesWf (s.readPacket q x) = true := by
  unfold State.readPacket
  refine memoriesWf_ite h ?_
  split
  · exact memoriesWf_askRing h
  · exact memoriesWf_ringFault _ h
  · refine memoriesWf_ite h (memoriesWf_ite (memoriesWf_enterEnded h) (memoriesWf_ite (memoriesWf_ite h (memoriesWf_enterEnded h)) ?_))
    split
    · exact memoriesWf_askRing h
    · exact memoriesWf_ringFault _ h
    · exact memoriesWf_enter h

theorem memoriesWf_beginCmd {q : QRef} {x : Queue} : memoriesWf (s.beginCmd q x) = true := by
  unfold State.beginCmd
  split
  · exact memoriesWf_start h
  · dsimp only
    split
    · exact memoriesWf_start (memoriesWf_readPacket h)
    · exact memoriesWf_readPacket h

theorem keeps_execCommandBegin {q : QRef} : Keeps (execCommandBegin q s) := by
  unfold execCommandBegin
  refine keeps_next ?_
  split
  · exact h
  · exact memoriesWf_ite h (memoriesWf_ite (memoriesWf_beginCmd h) h)

theorem keeps_execCommandCompletion {cid : Nat} : Keeps (execCommandCompletion cid s) := by
  unfold execCommandCompletion
  refine keeps_next (memoriesWf_clockRow h ?_)
  split
  · exact h
  · rename_i c _
    refine memoriesWf_ite h ?_
    cases c.phase with
    | active => exact memoriesWf_ite (memoriesWf_completeActive h) h
    | ended => exact memoriesWf_finishCmd _ h
    | _ => exact h

theorem memoriesWf_wipeChannels {mask : Nat} : memoriesWf (s.wipeChannels mask) = true :=
  memoriesWf_mk (mem_wf h) (spWipe_wf _ (back_wf h)) (hostMem_wf h)

theorem memoriesWf_leaveManager {c : Cmd} : memoriesWf (s.leaveManager c) = true := by
  unfold State.leaveManager
  refine memoriesWf_ite (memoriesWf_with h) ?_
  split
  · exact memoriesWf_ite (memoriesWf_wipeChannels (memoriesWf_with h)) h
  · exact h

theorem keeps_execCommandWatchdog {cid : Nat} : Keeps (execCommandWatchdog cid s) := by
  unfold execCommandWatchdog
  refine keeps_next (memoriesWf_clockRow h ?_)
  split
  · exact h
  · exact memoriesWf_ite (memoriesWf_stopCmd (memoriesWf_leaveManager h)) h

theorem memoriesWf_postLater {w : Posted} : memoriesWf (s.postLater w) = true := memoriesWf_with h

theorem memoriesWf_ringBell {b : Bell} {q : QRef} {value : Word} : memoriesWf (s.ringBell b q value) = true := by
  unfold State.ringBell
  split
  · exact h
  · refine memoriesWf_ite h ?_
    split
    · exact memoriesWf_ite (memoriesWf_updQueue _ _ h) (memoriesWf_updQueue _ _ h)
    · exact memoriesWf_ite (memoriesWf_updQueue _ _ h) (memoriesWf_ite (memoriesWf_drainEvents (memoriesWf_drainHeld _ _ (memoriesWf_updQueue _ _ h)))
          (memoriesWf_drainHeld _ _ (memoriesWf_updQueue _ _ h)))
    · exact memoriesWf_ite (memoriesWf_updQueue _ _ h) h

theorem memoriesWf_bell {p : Party} {b : Bell} {q : QRef} {value : Word} : memoriesWf (s.bell p b q value) = true :=
  memoriesWf_ite h (memoriesWf_ite (memoriesWf_postLater h) (memoriesWf_ringBell h))

theorem keeps_execNolzinNop {cid : Nat} : Keeps (execNolzinNop cid s) := by
  unfold execNolzinNop
  refine keeps_next ?_
  split
  · exact h
  · exact memoriesWf_checked _ _ _ h (memoriesWf_doneCmd _ _ _ h)

theorem keeps_execNolzinFence {cid : Nat} : Keeps (execNolzinFence cid s) := by
  unfold execNolzinFence
  refine keeps_next ?_
  split
  · exact h
  · exact memoriesWf_ite (memoriesWf_checked _ _ _ h (memoriesWf_doneCmd _ _ _ h)) h

theorem memoriesWf_withRanges {c : Cmd} {inst : Nat} {xs : List (Want × Nat × Nat)} {t : State} (ht : memoriesWf t = true) :
    memoriesWf (s.withRanges c inst xs t) = true := by
  induction xs with
  | nil => exact ht
  | cons x xs ih =>
    rw [State.withRanges]
    split
    · exact ih
    · exact memoriesWf_doneCmd _ _ _ h
    · exact memoriesWf_markHeld (memoriesWf_askXlat (memoriesWf_newChoice h))
    · exact h

theorem memoriesWf_signalHome {c : Cmd} {x : CtxRef} {a : Nat} : memoriesWf (s.signalHome c x a) = true := by
  have hu := memoriesWf_useRegion c.cid a h
  unfold State.signalHome
  refine memoriesWf_ite hu (memoriesWf_ite (memoriesWf_fetchLine _ _ _ _ hu)
      (memoriesWf_ite hu (memoriesWf_ite (memoriesWf_doneCmd _ _ _ (memoriesWf_ctxWrite _ _ _ hu)) ?_)))
  generalize s.useRegion c.cid a = t at hu
  cases t.ctxReadSector x (a / 32) with
  | ok bs => exact memoriesWf_doneCmd _ _ _ (memoriesWf_ctxWrite _ _ _ hu)
  | reread bs => exact memoriesWf_doneCmd _ _ _ (memoriesWf_ctxWrite _ _ _ (memoriesWf_countReread _ _ hu))
  | deadFatal => exact memoriesWf_cmdDead hu
  | poison => exact memoriesWf_doneCmd _ _ _ (memoriesWf_error _ _ _ _ hu)

theorem memoriesWf_activate {cid : Nat} : memoriesWf (s.activate cid) = true := memoriesWf_updCmd _ _ h

theorem memoriesWf_signalRemote {c : Cmd} {x : CtxRef} {pa : Nat} : memoriesWf (s.signalRemote c x pa) = true := by
  unfold State.signalRemote
  dsimp only
  split
  · rename_i e
    exact memoriesWf_activate (SentWf.ok e (sentWf_request h))
  · exact h

theorem keeps_execSignal {cid : Nat} : Keeps (execSignal cid s) := by
  unfold execSignal
  refine keeps_next ?_
  split
  · exact h
  · split
    · exact h
    · refine memoriesWf_ite h (memoriesWf_checked _ _ _ h (memoriesWf_withRanges h ?_))
      split
      · exact memoriesWf_signalHome (memoriesWf_newChoice h)
      · exact memoriesWf_signalRemote (memoriesWf_newChoice h)
      · exact memoriesWf_ite (memoriesWf_ite (memoriesWf_newChoice h) (memoriesWf_activate
            (memoriesWf_hostTxn (memoriesWf_newChoice h) (fun _ _ h => memoriesWf_sendAtomic h))))
            (memoriesWf_doneCmd _ _ _ (memoriesWf_sendWrite (memoriesWf_mk (mem_wf (memoriesWf_newChoice h)) (back_wf (memoriesWf_newChoice h))
            (writeBytes_wf _ _ (hostMem_wf (memoriesWf_newChoice h))))))
      · exact h

theorem memoriesWf_waitOver {c : Cmd} : memoriesWf (s.waitOver c) = true := memoriesWf_stopCmd h

theorem memoriesWf_waitRead {c : Cmd} {word step : Nat} : memoriesWf (s.waitRead c word step) = true :=
  memoriesWf_ite (memoriesWf_doneCmd _ _ _ h) (memoriesWf_ite (memoriesWf_waitOver h) (memoriesWf_updCmd _ _ h))

theorem memoriesWf_waitPoll {c : Cmd} {x : CtxRef} : memoriesWf (s.waitPoll c x) = true := by
  unfold State.waitPoll
  extract_lets later again
  have hl : ∀ {t : State}, memoriesWf t = true → memoriesWf (later t) = true := fun h => memoriesWf_updCmd _ _ h
  have ha : ∀ {t : State}, memoriesWf t = true → memoriesWf (again t) = true := fun h => memoriesWf_updCmd _ _ h
  clear_value later again
  split
  · exact memoriesWf_doneCmd _ _ _ h
  · exact ha (memoriesWf_askXlat (memoriesWf_newChoice h))
  · exact ha h
  · rename_i _ a _
    have ht := memoriesWf_useRegion c.cid a (memoriesWf_newChoice h)
    generalize s.newChoice.useRegion c.cid a = t at ht ⊢
    refine memoriesWf_ite (ha ht) (memoriesWf_ite (ha (memoriesWf_fetchLine _ _ _ _ ht)) ?_)
    split
    · exact memoriesWf_waitRead ht
    · exact memoriesWf_waitRead (memoriesWf_countReread _ _ ht)
    · exact memoriesWf_cmdDead ht
    · exact memoriesWf_doneCmd _ _ _ ht
  · split
    · rename_i e
      exact hl (SentWf.ok e (sentWf_request (memoriesWf_newChoice h)))
    · exact ha h
  · exact memoriesWf_ite (hl (memoriesWf_hostTxn (memoriesWf_newChoice h) (fun _ _ h => memoriesWf_sendRead h))) (ha (memoriesWf_newChoice h))

theorem keeps_execWait {cid : Nat} : Keeps (execWait cid s) := by
  unfold execWait
  refine keeps_next ?_
  split
  · exact h
  · split
    · exact h
    · exact memoriesWf_checked _ _ _ h (memoriesWf_waitPoll h)

theorem keeps_execWaitPoll {cid : Nat} : Keeps (execWaitPoll cid s) := by
  unfold execWaitPoll
  refine keeps_next (memoriesWf_clockRow h ?_)
  split
  · exact h
  · split
    · exact h
    · exact memoriesWf_ite (memoriesWf_waitPoll h) h

theorem keeps_execWaitTimeout {cid : Nat} : Keeps (execWaitTimeout cid s) := by
  unfold execWaitTimeout
  refine keeps_next (memoriesWf_clockRow h ?_)
  split
  · exact h
  · exact memoriesWf_ite h (memoriesWf_waitOver h)

theorem keeps_execLaunch {cid : Nat} : Keeps (execLaunch cid s) := by
  unfold execLaunch
  refine keeps_next ?_
  split
  · exact h
  · split
    · exact h
    · refine memoriesWf_checked _ _ _ h ?_
      split
      · exact memoriesWf_doneCmd _ _ _ h
      · exact memoriesWf_ite (memoriesWf_doneCmd _ _ _ h) (memoriesWf_updCmd _ _ h)

theorem keeps_execLaunchSlotTake {cid core : Nat} : Keeps (execLaunchSlotTake cid core s) := by
  unfold execLaunchSlotTake
  refine keeps_next ?_
  split
  · exact h
  · split
    · exact h
    · refine memoriesWf_ite h ?_
      split
      · exact h
      · exact memoriesWf_updCmd _ _ (memoriesWf_updSlot (memoriesWf_invalidateL1 h))

theorem keeps_execResidencyStall {cid core : Nat} : Keeps (execResidencyStall cid core s) := by
  unfold execResidencyStall
  refine keeps_next ?_
  split
  · exact h
  · split
    · exact h
    · exact memoriesWf_ite h (memoriesWf_foldl (fun _ _ h => memoriesWf_event _ _ h) (memoriesWf_updInst _ _ (memoriesWf_updCmd _ _ h)))

theorem keeps_execHerdStart {sl : SlotRef} : Keeps (execHerdStart sl s) := by
  unfold execHerdStart
  refine keeps_next ?_
  split
  · exact h
  · split
    · refine memoriesWf_ite h ?_
      split
      · exact h
      · exact memoriesWf_updCmd _ _ (memoriesWf_updSlot (memoriesWf_updCore h))
    · exact h

theorem keeps_execKernelComplete {sl : SlotRef} : Keeps (execKernelComplete sl s) := by
  unfold execKernelComplete
  refine keeps_next (memoriesWf_clockRow h ?_)
  split
  · exact h
  · split
    · exact h
    · refine memoriesWf_ite h ?_
      dsimp only
      split
      · exact memoriesWf_ite (memoriesWf_doneCmd _ _ _ (memoriesWf_updCmd _ _ (memoriesWf_updSlot h))) (memoriesWf_updCmd _ _ (memoriesWf_updSlot h))
      · exact memoriesWf_updCmd _ _ (memoriesWf_updSlot h)

theorem memoriesWf_fetchOpLine {w : OpAt} {stream last : Bool} {line : Nat} {xs : List (Nat × Nat)} : memoriesWf (s.fetchOpLine w stream last line xs)
    = true := by
  unfold State.fetchOpLine
  dsimp only
  split
  · exact memoriesWf_ite (memoriesWf_addFetch (memoriesWf_newChoice h)) h
  · refine memoriesWf_ite ?_ h
    split
    · rename_i e
      exact memoriesWf_takeLanding (memoriesWf_of_fst e (memoriesWf_sendAll (memoriesWf_newChoice h)))
    · exact h
  · exact memoriesWf_ite (memoriesWf_foldl (fun _ _ h => memoriesWf_sendRead (memoriesWf_addReq h)) (memoriesWf_newChoice h)) h
  · exact memoriesWf_askXlat (memoriesWf_newChoice h)
  · exact memoriesWf_askXlat (memoriesWf_newChoice h)
  · exact h

theorem memoriesWf_fetchSecs {w : OpAt} {stream last : Bool} {xs : List (Nat × Nat)} : memoriesWf (s.fetchSecs w stream last xs) = true :=
  memoriesWf_foldl (fun _ _ h => memoriesWf_fetchOpLine h) h

theorem memoriesWf_fetchWeights {w : OpAt} {e n : Nat} : memoriesWf (s.fetchWeights w e n) = true := memoriesWf_fetchSecs h

theorem memoriesWf_updOp {w : OpAt} {f : MxOp → MxOp} : memoriesWf (s.updOp w f) = true := memoriesWf_updSlot h

theorem memoriesWf_freeLands {w : OpAt} : memoriesWf (s.freeLands w) = true := memoriesWf_ite h (memoriesWf_updCore (memoriesWf_updOp h))

theorem memoriesWf_useReads {w : OpAt} {n : Nat} {secs : List Nat} : memoriesWf (s.useReads w n secs) = true :=
  memoriesWf_freeLands (memoriesWf_updOp h)

theorem memoriesWf_setBuf {core b : Nat} {p : Option (Nat × Nat)} : memoriesWf (s.setBuf core b p) = true := memoriesWf_updCore h

theorem memoriesWf_loadTile {w : OpAt} {n : Nat} : memoriesWf (s.loadTile w n) = true := by
  unfold State.loadTile
  refine memoriesWf_ite h ?_
  split
  · exact h
  · exact memoriesWf_useReads (memoriesWf_setBuf (memoriesWf_updCore h))

theorem memoriesWf_fetchAhead {core : Nat} {springbok : Bool} : memoriesWf (s.fetchAhead core springbok) = true :=
  memoriesWf_foldl (fun _ _ h => memoriesWf_ite h (memoriesWf_ite (memoriesWf_foldl (fun _ _ h => memoriesWf_ite (memoriesWf_fetchWeights h) h) h)
      (memoriesWf_ite h (memoriesWf_loadTile (memoriesWf_fetchWeights h))))) h

theorem memoriesWf_opFault {w : OpAt} {c : Cause} {addr : Nat} : memoriesWf (s.opFault w c addr) = true := memoriesWf_ctxFault _ _ h

theorem memoriesWf_drainLine {w : OpAt} {ps : List (Nat × List Byte)} : memoriesWf (s.drainLine w ps).1 = true := by
  unfold State.drainLine
  dsimp only
  split
  · exact memoriesWf_addReq (memoriesWf_newChoice h)
  · exact memoriesWf_sendAll (memoriesWf_newChoice h)
  · exact memoriesWf_ite_fst (memoriesWf_opFault h) (memoriesWf_ite_fst h (memoriesWf_foldl
        (fun _ _ h => memoriesWf_sendRead (memoriesWf_sendWrite (memoriesWf_addReq
        (memoriesWf_mk (mem_wf h) (back_wf h) (writeBytes_wf _ _ (hostMem_wf h)))))) (memoriesWf_newChoice h)))
  · exact memoriesWf_opFault h
  · exact memoriesWf_askXlat (memoriesWf_newChoice h)
  · exact memoriesWf_askXlat (memoriesWf_newChoice h)

theorem memoriesWf_drainGlobal {w : OpAt} {n : Nat} {xs : List MxOut} : memoriesWf (s.drainGlobal w n xs) = true := by
  induction n generalizing s xs with
  | zero => exact memoriesWf_updOp h
  | succ n ih =>
    cases xs with
    | nil => exact memoriesWf_updOp h
    | cons p ps =>
      rw [State.drainGlobal]
      refine memoriesWf_ite h ?_
      dsimp only
      split
      · rename_i e
        exact ih (memoriesWf_of_fst e (memoriesWf_drainLine h))
      · rename_i e
        exact memoriesWf_updOp (memoriesWf_of_fst e (memoriesWf_drainLine h))

theorem memoriesWf_drainOp {w : OpAt} : memoriesWf (s.drainOp w) = true := memoriesWf_ite (memoriesWf_updSlot h) (memoriesWf_drainGlobal h)

theorem memoriesWf_drainCore {core : Nat} {springbok : Bool} : memoriesWf (s.drainCore core springbok) = true :=
  memoriesWf_foldl (fun _ _ h => memoriesWf_ite (memoriesWf_drainOp h) h) h

theorem memoriesWf_fetchStage {w : OpAt} {e n : Nat} : memoriesWf (s.fetchStage w e n) = true :=
  memoriesWf_fetchSecs (memoriesWf_fetchWeights (memoriesWf_fetchSecs h))

theorem memoriesWf_fetchStages {w : OpAt} {e n : Nat} : memoriesWf (s.fetchStages w e n) = true :=
  memoriesWf_foldl (fun _ _ h => memoriesWf_ite (memoriesWf_fetchStage h) h) h

theorem memoriesWf_finishRound {w : OpAt} {us : List MxUnit} {bc : Nat → Nat} : memoriesWf (s.finishRound w us bc) = true :=
  memoriesWf_ite (memoriesWf_updOp h) (memoriesWf_updCore (memoriesWf_updOp h))

theorem memoriesWf_countStage {w : OpAt} {us : List MxUnit} : memoriesWf (s.countStage w us) = true :=
  memoriesWf_ite (memoriesWf_countEvent _ _ _ _ h) (memoriesWf_countEvent _ _ _ _ h)

theorem memoriesWf_workStage {w : OpAt} {e n : Nat} : memoriesWf (s.workStage w e n) = true :=
  memoriesWf_useReads (memoriesWf_ite (memoriesWf_finishRound (memoriesWf_ite (memoriesWf_updCore (memoriesWf_countStage h))
      (memoriesWf_setBuf (memoriesWf_updCore (memoriesWf_countStage h))))) (memoriesWf_updOp
      (memoriesWf_ite (memoriesWf_updCore (memoriesWf_countStage h)) (memoriesWf_setBuf (memoriesWf_updCore (memoriesWf_countStage h))))))

theorem memoriesWf_stageStep {w : OpAt} : memoriesWf (s.stageStep w).1 = true := by
  unfold State.stageStep
  extract_lets e n
  refine memoriesWf_ite_fst h ?_
  split
  · exact memoriesWf_opFault h
  · rename_i t u v _ _
    have ht : memoriesWf t = true := memoriesWf_fetchStages h
    refine memoriesWf_ite_fst ht ?_
    have hu : memoriesWf u = true := memoriesWf_loadTile ht
    clear_value u v
    exact memoriesWf_ite_fst (memoriesWf_workStage hu) hu

theorem memoriesWf_stageSteps {w : OpAt} {n : Nat} : memoriesWf (s.stageSteps w n) = true := by
  induction n generalizing s with
  | zero => exact h
  | succ n ih =>
    rw [State.stageSteps]
    split
    · rename_i e
      exact ih (memoriesWf_of_fst e (memoriesWf_stageStep h))
    · rename_i e
      exact memoriesWf_of_fst e (memoriesWf_stageStep h)

theorem memoriesWf_declareOwed {w : OpAt} : memoriesWf (s.declareOwed w) = true := by
  unfold State.declareOwed
  refine memoriesWf_foldl (fun _ _ h => ?_) h
  split
  · exact memoriesWf_updOp (memoriesWf_addReq h)
  · split
    · rename_i e
      exact memoriesWf_updOp (memoriesWf_of_fst e (memoriesWf_sendAll h))
    · exact h
  · exact memoriesWf_askXlat (memoriesWf_newChoice h)
  · exact memoriesWf_askXlat (memoriesWf_newChoice h)
  · exact memoriesWf_updOp h

theorem memoriesWf_opStep {w : OpAt} : memoriesWf (s.opStep w) = true := by
  unfold State.opStep
  extract_lets s1 w1 e s2 w2 left s3 s4
  have h1 : memoriesWf s1 = true := memoriesWf_declareOwed (memoriesWf_drainCore h)
  have h2 : memoriesWf s2 = true := memoriesWf_stageSteps h1
  have h3 : memoriesWf s3 = true := memoriesWf_ite h2 (memoriesWf_loadTile h2)
  have h4 : memoriesWf s4 = true := memoriesWf_drainCore h3
  exact memoriesWf_ite (memoriesWf_fetchAhead h4) h4

theorem memoriesWf_beginOp {w : OpAt} : memoriesWf (s.beginOp w) = true := memoriesWf_updCore (memoriesWf_updOp h)

theorem memoriesWf_opStart {core : Nat} {springbok : Bool} : memoriesWf (s.opStart core springbok) = true := by
  unfold State.opStart
  split
  · exact memoriesWf_ite h (memoriesWf_opStep h)
  · split
    · exact h
    · exact memoriesWf_ite h (memoriesWf_opStep (memoriesWf_beginOp h))

theorem memoriesWf_opParity {w : OpAt} {memory : Nat} : memoriesWf (s.opParity w memory) = true := memoriesWf_coreUe (memoriesWf_opFault h)

theorem memoriesWf_opErr {w : OpAt} {err : CoreErr} {go : State → State} (hgo : ∀ (a : State), memoriesWf a = true → memoriesWf (go a) = true) :
    memoriesWf (s.opErr w err go) = true := by
  unfold State.opErr
  split
  · exact hgo _ h
  · exact hgo _ (memoriesWf_coreCe h)
  · exact memoriesWf_ite (hgo _ (memoriesWf_coreCe h)) (memoriesWf_ite (hgo _ h) (memoriesWf_opParity h))

theorem memoriesWf_opRest {w : OpAt} {n : Nat} : memoriesWf (s.opRest w n) = true := by
  induction n generalizing s w with
  | zero => exact memoriesWf_drainCore h
  | succ n ih =>
    unfold State.opRest
    extract_lets w' t
    have ht : memoriesWf t = true := memoriesWf_opStep h
    exact memoriesWf_ite ht (ih ht)

theorem memoriesWf_retireOp {w : OpAt} : memoriesWf (s.retireOp w) = true :=
  memoriesWf_ite (memoriesWf_updSlot (memoriesWf_ite h (memoriesWf_updCore h))) (memoriesWf_updCore
      (memoriesWf_updSlot (memoriesWf_ite h (memoriesWf_updCore h))))

theorem memoriesWf_opComplete {core : Nat} {springbok : Bool} {err : CoreErr} : memoriesWf (s.opComplete core springbok err) = true := by
  unfold State.opComplete
  split
  · exact h
  · exact memoriesWf_ite h (memoriesWf_opErr h (fun _ h => memoriesWf_ite (memoriesWf_opRest h) (memoriesWf_retireOp (memoriesWf_opRest h))))

theorem optionWf_engineGone {c : Cmd} : OptionWf (s.engineGone c) := OptionWf.ite (memoriesWf_stopCmd h) trivial

theorem memoriesWf_dmaRow {cid op : Nat} {go : Cmd → CtxRef → State} (hgo : ∀ (a : Cmd) (b : CtxRef), memoriesWf (go a b) = true) : memoriesWf
    (s.dmaRow cid op go) = true := by
  unfold State.dmaRow
  split
  · exact h
  · refine memoriesWf_ite h ?_
    split
    · rename_i e
      exact OptionWf.some e (optionWf_engineGone h)
    · refine memoriesWf_ite (memoriesWf_pump h) ?_
      split
      · exact h
      · exact memoriesWf_ite (hgo _ _) h

theorem memoriesWf_startPieces {cid : Nat} {todo : List (Nat × Nat × Nat)} {out : List (Nat × List Byte)} : memoriesWf (s.startPieces cid todo out) =
    true :=
  memoriesWf_pump (memoriesWf_updCmd _ _ h)

theorem keeps_execDmaCopy {cid : Nat} : Keeps (execDmaCopy cid s) :=
  keeps_next (memoriesWf_dmaRow h (fun _ _ => memoriesWf_checked _ _ _ h (memoriesWf_withRanges h
      (memoriesWf_ite (memoriesWf_badParam _ _ h) (memoriesWf_startPieces h)))))

theorem keeps_execDmaFill {cid : Nat} : Keeps (execDmaFill cid s) :=
  keeps_next (memoriesWf_dmaRow h (fun _ _ => memoriesWf_checked _ _ _ h (memoriesWf_withRanges h (memoriesWf_startPieces h))))

theorem keeps_execDmaCopyStrided {cid : Nat} : Keeps (execDmaCopyStrided cid s) :=
  keeps_next (memoriesWf_dmaRow h (fun _ _ => memoriesWf_checked _ _ _ h (memoriesWf_withRanges h (memoriesWf_startPieces h))))

theorem memoriesWf_fetchRun {inst line : Nat} {stream : Bool} {lines : List Nat} : memoriesWf (s.fetchRun inst stream lines line) = true :=
  memoriesWf_foldl (fun _ _ h => memoriesWf_fetchLine _ _ _ _ h) h

theorem optionWf_pinLine {i : Inst} {line : Nat} : OptionWf (s.pinLine i line) := by
  unfold State.pinLine
  refine OptionWf.ite h ?_
  dsimp only
  split
  · exact trivial
  · exact memoriesWf_mk (writeBytes_wf _ _ (mem_wf h)) (back_wf h) (hostMem_wf h)

/-- The step of `State.pinLines` on a line, over any result `b` for the rest. (It speaks of the recursion's own functional: the equation of
this case is too deep for the kernel.) -/
theorem memoriesWf_pinLinesCons {c : Cmd} {i : Inst} {line : Nat} {rest : List Nat}
    {b : List.below (motive := fun _ => State → State) (line :: rest)} (hb : ∀ t, memoriesWf t = true → memoriesWf (b.1 t) = true) :
    memoriesWf (State.pinLines._f c i (line :: rest) b s) = true := by
  have ht := memoriesWf_useRegion c.cid (line * 256) h
  unfold State.pinLines._f
  refine memoriesWf_ite (memoriesWf_noteHeld (memoriesWf_fetchRun (memoriesWf_updCmd _ _ ht))) ?_
  cases s.linePoison line with
  | some sec => exact memoriesWf_stopCmd ht
  | none =>
    cases e : (s.useRegion c.cid (line * 256)).pinLine i line with
    | some t => exact hb t (OptionWf.some e (optionWf_pinLine ht))
    | none => exact memoriesWf_stopCmd h

theorem memoriesWf_pinLines {c : Cmd} {i : Inst} {xs : List Nat} : memoriesWf (s.pinLines c i xs) = true := by
  delta State.pinLines
  exact memoriesWf_listRec (F := State.pinLines._f c i) (fun _ h => memoriesWf_updCmd _ _ h) (fun _ _ _ _ hb h => memoriesWf_pinLinesCons h hb) xs s h

theorem memoriesWf_withLocal {c : Cmd} {inst va len : Nat} {go : State} (hgo : memoriesWf go = true) : memoriesWf (s.withLocal c inst va len go) =
    true := by
  unfold State.withLocal
  split
  · exact memoriesWf_doneCmd _ _ _ h
  · exact memoriesWf_markHeld (memoriesWf_askXlat (memoriesWf_newChoice h))
  · exact h
  · exact hgo

theorem keeps_execHamperPin {cid : Nat} : Keeps (execHamperPin cid s) := by
  unfold execHamperPin
  refine keeps_next ?_
  split
  · exact h
  · split
    · exact h
    · split
      · exact h
      · refine memoriesWf_ite h (memoriesWf_ite (memoriesWf_pinLines h) (memoriesWf_ite h (memoriesWf_checked _ _ _ h (memoriesWf_withLocal h ?_))))
        split
        · exact memoriesWf_doneCmd _ _ _ h
        · exact memoriesWf_pinLines (memoriesWf_newChoice h)

theorem memoriesWf_unpinLine {line : Nat} : memoriesWf (s.unpinLine line) = true := memoriesWf_ite (memoriesWf_evict _ h) h

theorem memoriesWf_unpinLines {cid : Nat} {xs : List Nat} : memoriesWf (s.unpinLines cid xs) = true := by
  induction xs generalizing s with
  | nil => exact memoriesWf_activate h
  | cons x xs ih => exact memoriesWf_ite (memoriesWf_useRegion _ _ h) (ih (memoriesWf_unpinLine (memoriesWf_useRegion _ _ h)))

theorem keeps_execHamperUnpin {cid : Nat} : Keeps (execHamperUnpin cid s) := by
  unfold execHamperUnpin
  refine keeps_next ?_
  split
  · exact h
  · split
    · exact h
    · exact memoriesWf_checked _ _ _ h (memoriesWf_withLocal h (memoriesWf_unpinLines (memoriesWf_newChoice h)))

theorem memoriesWf_prefetchLines {c : Cmd} {x : CtxRef} {stream : Bool} {xs : List Nat} : memoriesWf (s.prefetchLines c x stream xs) = true := by
  induction xs generalizing s with
  | nil => exact memoriesWf_updCmd _ _ h
  | cons x xs ih =>
    rw [State.prefetchLines]
    refine memoriesWf_ite (memoriesWf_noteHeld (memoriesWf_fetchRun (memoriesWf_updCmd _ _ (memoriesWf_useRegion _ _ h)))) ?_
    split
    · exact memoriesWf_stopCmd (memoriesWf_useRegion _ _ h)
    · exact ih (memoriesWf_useRegion _ _ h)

theorem keeps_execPrefetch {cid : Nat} : Keeps (execPrefetch cid s) := by
  unfold execPrefetch
  refine keeps_next ?_
  split
  · exact h
  · split
    · exact h
    · refine memoriesWf_ite h ?_
      split
      · rename_i e
        exact OptionWf.some e (optionWf_engineGone h)
      · exact memoriesWf_ite (memoriesWf_prefetchLines h) (memoriesWf_ite h (memoriesWf_checked _ _ _ h
            (memoriesWf_withLocal h (memoriesWf_prefetchLines (memoriesWf_newChoice h)))))

theorem optionWf_discardRun {c : Cmd} {x : CtxRef} {va n : Nat} : OptionWf (s.discardRun c x va n) := by
  unfold State.discardRun
  dsimp only
  split
  · exact OptionWf.ite trivial (memoriesWf_foldl (fun _ _ h => memoriesWf_declareDead _ _ h) (memoriesWf_useRegion _ _ (memoriesWf_newChoice h)))
  · split
    · rename_i e
      exact SentWf.ok e (sentWf_request h)
    · exact trivial
  · exact h
  · exact memoriesWf_stopCmd h
  · exact trivial

theorem memoriesWf_discardRuns {c : Cmd} {x : CtxRef} {xs : List (Nat × Nat × Nat)} : memoriesWf (s.discardRuns c x xs) = true := by
  induction xs generalizing s with
  | nil => exact memoriesWf_updCmd _ _ h
  | cons x xs ih =>
    obtain ⟨src, dst, n⟩ := x
    rw [State.discardRuns]
    split
    · rename_i e
      exact ih (OptionWf.some e (optionWf_discardRun h))
    · exact memoriesWf_updCmd _ _ h

theorem keeps_execDiscard {cid : Nat} : Keeps (execDiscard cid s) := by
  unfold execDiscard
  refine keeps_next ?_
  split
  · exact h
  · split
    · exact h
    · refine memoriesWf_ite h ?_
      split
      · rename_i e
        exact OptionWf.some e (optionWf_engineGone h)
      · exact memoriesWf_ite (memoriesWf_discardRuns h) (memoriesWf_ite h (memoriesWf_checked _ _ _ h
            (memoriesWf_ite (memoriesWf_badParam _ _ h) (memoriesWf_withRanges h (memoriesWf_discardRuns h)))))

theorem memoriesWf_askList {c : Cmd} {x : CtxRef} {xs : List (LaneTo × Nat × Nat)} : memoriesWf (s.askList c x xs) = true := by
  induction xs generalizing s with
  | nil => exact h
  | cons p xs ih =>
    obtain ⟨dest, va, n⟩ := p
    cases dest with
    | home a => exact ih h
    | host a => exact memoriesWf_ite (ih (memoriesWf_hostTxn h (fun _ _ h => memoriesWf_sendRead h))) h
    | remote pa =>
      rw [State.askList]
      split
      · rename_i e
        exact ih (SentWf.ok e (sentWf_request h))
      · exact h

theorem memoriesWf_withList {c : Cmd} {x : CtxRef} {va len : Nat} {go : State → List Byte → State}
    (hgo : ∀ (a : State) (b : List Byte), memoriesWf a = true → memoriesWf (go a b) = true) : memoriesWf (s.withList c x va len go) = true := by
  unfold State.withList
  refine memoriesWf_withRanges h ?_
  split
  · exact hgo _ _ (memoriesWf_countReread _ _ (memoriesWf_newChoice h))
  · exact memoriesWf_ite (memoriesWf_askList (memoriesWf_newChoice h)) h
  · exact memoriesWf_foldl (fun _ _ h => memoriesWf_fetchLine _ _ _ _ h) (memoriesWf_newChoice h)
  · exact memoriesWf_doneCmd _ _ _ h
  · exact memoriesWf_cmdDead h

theorem memoriesWf_makeRoom {inst line : Nat} : memoriesWf (s.makeRoom inst line) = true := by
  unfold State.makeRoom
  refine memoriesWf_ite h ?_
  split
  · exact memoriesWf_evict _ h
  · exact h

theorem memoriesWf_openEpoch {x : CtxRef} {y : Ctx} {rs : List (Nat × Nat)} {ls : List (Nat × Nat × Nat)} : memoriesWf (s.openEpoch x y rs ls) = true
    :=
  memoriesWf_foldl (fun _ _ h => memoriesWf_makeRoom h) (memoriesWf_updCtx _ _ h)

theorem keeps_execSpecBegin {cid : Nat} : Keeps (execSpecBegin cid s) := by
  unfold execSpecBegin
  refine keeps_next ?_
  split
  · exact h
  · split
    · exact h
    · refine memoriesWf_checked _ _ _ h (memoriesWf_withList h (fun _ _ h => ?_))
      split
      · exact h
      · dsimp only
        split
        · exact memoriesWf_doneCmd _ _ _ h
        · exact memoriesWf_askXlat (memoriesWf_newChoice h)
        · exact h
        · refine memoriesWf_ite (memoriesWf_doneCmd _ _ _ h) (memoriesWf_ite (memoriesWf_doneCmd _ _ _ h)
              (memoriesWf_ite (memoriesWf_doneCmd _ _ _ h) ?_))
          split
          · exact memoriesWf_doneCmd _ _ _ h
          · exact memoriesWf_doneCmd _ _ _ (memoriesWf_openEpoch h)

theorem keeps_execSpecCommit {cid : Nat} : Keeps (execSpecCommit cid s) := by
  unfold execSpecCommit
  refine keeps_next ?_
  split
  · exact h
  · split
    · exact h
    · refine memoriesWf_checked _ _ _ h ?_
      split
      · exact h
      · exact memoriesWf_withList h (fun _ _ h => memoriesWf_ite (memoriesWf_doneCmd _ _ _ h) (memoriesWf_activate (memoriesWf_updEpoch h)))

theorem keeps_execSpecAbort {cid : Nat} : Keeps (execSpecAbort cid s) := by
  unfold execSpecAbort
  refine keeps_next ?_
  split
  · exact h
  · split
    · exact h
    · refine memoriesWf_checked _ _ _ h ?_
      split
      · exact h
      · exact memoriesWf_activate (memoriesWf_updEpoch h)

theorem memoriesWf_updColl {gid : Nat} {f : Coll → Coll} : memoriesWf (s.updColl gid f) = true := memoriesWf_updGroup h

theorem sentWf_collSend {c : Cmd} {g : Group} {k : Coll} {dst off : Nat} {bs : List Byte} : SentWf (s.collSend c g k dst off bs) := by
  unfold State.collSend
  split
  · exact trivial
  · split
    · exact trivial
    · exact SentWf.ite (sentWf_requestVia h) (SentWf.ite trivial (sentWf_requestVia h))

theorem memoriesWf_collSends {c : Cmd} {gid : Nat} {xs : List (Nat × Nat × List Byte)} : memoriesWf (s.collSends c gid xs) = true := by
  induction xs generalizing s with
  | nil => exact h
  | cons x xs ih =>
    obtain ⟨dst, off, bs⟩ := x
    rw [State.collSends]
    split
    · exact h
    · split
      · exact h
      · split
        · rename_i e
          exact ih (memoriesWf_updColl (SentWf.ok e (sentWf_collSend h)))
        · exact memoriesWf_failColl h
        · exact ih h

theorem memoriesWf_sendFinal {g : Group} {off : Nat} {bs : List Byte} : memoriesWf (s.sendFinal g off bs) = true := memoriesWf_updColl h

theorem collReadWf_collRead {x : CtxRef} {c : Cmd} {gid va len : Nat} : CollReadWf (s.collRead x c gid va len) := by
  unfold State.collRead
  split
  · refine memoriesWf_updCmd _ _ (memoriesWf_countReread _ _ (memoriesWf_newChoice (memoriesWf_foldl (fun _ _ h => ?_) h)))
    split
    · exact memoriesWf_useRegion _ _ h
    · exact h
  · exact memoriesWf_askList (memoriesWf_newChoice h)
  · exact memoriesWf_foldl (fun _ _ h => memoriesWf_fetchLine _ _ _ _ h) (memoriesWf_newChoice h)
  · exact memoriesWf_failColl h
  · exact memoriesWf_cmdDead h

theorem stageReadWf_collStaged {x : CtxRef} {c : Cmd} {g : Group} {off len : Nat} {xs : List Nat} : StageReadWf (s.collStaged x c g off len xs) := by
  induction xs generalizing s with
  | nil => exact h
  | cons x xs ih =>
    rw [State.collStaged]
    split
    · rename_i e
      split
      · rename_i e'
        exact StageReadWf.ok e' (ih (CollReadWf.ok e (collReadWf_collRead h)))
      · rename_i e'
        exact StageReadWf.later e' (ih (CollReadWf.ok e (collReadWf_collRead h)))
    · rename_i e
      exact CollReadWf.later e (collReadWf_collRead h)

theorem memoriesWf_finishLine {x : CtxRef} {c : Cmd} {g : Group} {off : Nat} : memoriesWf (s.finishLine x c g off) = true := by
  unfold State.finishLine
  refine memoriesWf_ite h (memoriesWf_ite (memoriesWf_ite h ?_) (memoriesWf_ite (memoriesWf_updColl h) (memoriesWf_ite h ?_)))
  · split
    · rename_i e
      exact memoriesWf_ite (memoriesWf_sendFinal (memoriesWf_cmdPut (StageReadWf.ok e (stageReadWf_collStaged h))))
          (memoriesWf_updColl (memoriesWf_cmdPut (StageReadWf.ok e (stageReadWf_collStaged h))))
    · rename_i e
      exact StageReadWf.later e (stageReadWf_collStaged h)
  · split
    · rename_i e
      exact memoriesWf_ite (memoriesWf_sendFinal (CollReadWf.ok e (collReadWf_collRead h)))
          (memoriesWf_updColl (CollReadWf.ok e (collReadWf_collRead h)))
    · rename_i e
      exact CollReadWf.later e (collReadWf_collRead h)

theorem memoriesWf_mismatch {gid seq : Nat} : memoriesWf (s.mismatch gid seq) = true := by
  unfold State.mismatch
  dsimp only
  split
  · exact h
  · split
    · exact memoriesWf_failColl h
    · exact memoriesWf_toMembers (memoriesWf_breakGroup h)

theorem memoriesWf_respond {port : Nat} {req m : Msg} {data : List Byte} : memoriesWf (s.respond port req m data) = true :=
  memoriesWf_ite h (memoriesWf_putMsg h)

theorem memoriesWf_ackMsg {port : Nat} {req : Msg} : memoriesWf (s.ackMsg port req) = true := memoriesWf_respond h

theorem memoriesWf_ackContribution {gid : Nat} {hd : Contribution} : memoriesWf (s.ackContribution gid hd) = true :=
  memoriesWf_ite h (memoriesWf_ackMsg h)

theorem appliedWf_collStore {x : CtxRef} {c : Cmd} {gid va : Nat} {bs : List Byte} : AppliedWf (s.collStore x c gid va bs) := by
  unfold State.collStore
  split
  · exact memoriesWf_failColl h
  · exact memoriesWf_askXlat (memoriesWf_newChoice h)
  · exact h
  · exact AppliedWf.ite (memoriesWf_useRegion _ _ (memoriesWf_newChoice h)) (AppliedWf.ite
        (memoriesWf_fetchLine _ _ _ _ (memoriesWf_useRegion _ _ (memoriesWf_newChoice h)))
        (memoriesWf_homeWrite _ _ _ _ (memoriesWf_useRegion _ _ (memoriesWf_newChoice h))))
  · split
    · rename_i e
      exact memoriesWf_of_fst e (memoriesWf_cmdWrite h)
    · rename_i e
      exact memoriesWf_of_fst e (memoriesWf_cmdWrite h)

theorem memoriesWf_shadowWrite {c : CtxRef} {e : Epoch} {sec : Nat} {bs : List (Nat × Byte)} : memoriesWf (s.shadowWrite c e sec bs) = true :=
  memoriesWf_ite h (memoriesWf_ite (memoriesWf_postError _ _ _ _ h) (memoriesWf_updCtx _ _ h))

theorem memoriesWf_ctxWriteSector {c : CtxRef} {sec choice : Nat} {bs : List (Nat × Byte)} : memoriesWf (s.ctxWriteSector c sec choice bs) = true :=
    by
  unfold State.ctxWriteSector
  split
  · exact memoriesWf_shadowWrite h
  · exact memoriesWf_writeSector _ _ _ _ h

theorem appliedWf_collAdd {x : CtxRef} {c : Cmd} {gid va : Nat} {own : Bool} {bs : List Byte} : AppliedWf (s.collAdd x c gid va own bs) := by
  unfold State.collAdd
  dsimp only
  split
  · exact memoriesWf_failColl h
  · exact memoriesWf_askXlat (memoriesWf_newChoice h)
  · exact h
  · exact memoriesWf_failColl h
  · split
    · rename_i e
      exact SentWf.ok e (sentWf_request (memoriesWf_newChoice h))
    · exact h
  · refine AppliedWf.ite (memoriesWf_useRegion _ _ (memoriesWf_newChoice h)) (AppliedWf.ite
        (memoriesWf_fetchLine _ _ _ _ (memoriesWf_useRegion _ _ (memoriesWf_newChoice h))) ?_)
    split
    · exact memoriesWf_ite (memoriesWf_ctxWriteSector (memoriesWf_useRegion _ _ (memoriesWf_newChoice h)))
          (memoriesWf_writeSector _ _ _ _ (memoriesWf_useRegion _ _ (memoriesWf_newChoice h)))
    · exact memoriesWf_ite (memoriesWf_ctxWriteSector (memoriesWf_countReread _ _ (memoriesWf_useRegion _ _ (memoriesWf_newChoice h))))
          (memoriesWf_writeSector _ _ _ _ (memoriesWf_countReread _ _ (memoriesWf_useRegion _ _ (memoriesWf_newChoice h))))
    · exact memoriesWf_cmdDead (memoriesWf_useRegion _ _ (memoriesWf_newChoice h))
    · exact memoriesWf_error _ _ _ _ (memoriesWf_useRegion _ _ (memoriesWf_newChoice h))

theorem appliedWf_collPiece {x : CtxRef} {c : Cmd} {g : Group} {k : Coll} {rank off : Nat} {bs : List Byte} : AppliedWf
    (s.collPiece x c g k rank off bs) := by
  unfold State.collPiece
  dsimp only
  split
  · rename_i e
    exact memoriesWf_updColl (AppliedWf.done e (AppliedWf.ite (AppliedWf.ite (AppliedWf.ite (memoriesWf_cmdPut h) (appliedWf_collStore h)) h)
        (AppliedWf.ite (AppliedWf.ite (memoriesWf_cmdPut h) (appliedWf_collStore h)) (appliedWf_collAdd h))))
  · rename_i e
    exact AppliedWf.wait e (AppliedWf.ite (AppliedWf.ite (AppliedWf.ite (memoriesWf_cmdPut h) (appliedWf_collStore h)) h)
        (AppliedWf.ite (AppliedWf.ite (memoriesWf_cmdPut h) (appliedWf_collStore h)) (appliedWf_collAdd h)))

theorem appliedWf_collData {x : CtxRef} {c : Cmd} {gid rank : Nat} {xs : List (Nat × List Byte)} : AppliedWf (s.collData x c gid rank xs) := by
  induction xs generalizing s with
  | nil => exact h
  | cons x xs ih =>
    obtain ⟨va, bs⟩ := x
    rw [State.collData]
    split
    · exact h
    · split
      · exact h
      · refine AppliedWf.ite (ih h) (AppliedWf.ite h (AppliedWf.ite h (AppliedWf.ite ?_ (AppliedWf.ite ?_ (ih h)))))
        · split
          · rename_i e
            exact ih (AppliedWf.done e (appliedWf_collPiece h))
          · rename_i e
            exact AppliedWf.wait e (appliedWf_collPiece h)
        · split
          · rename_i e
            exact ih (memoriesWf_updColl (AppliedWf.done e (AppliedWf.ite (memoriesWf_cmdPut h) (appliedWf_collStore h))))
          · rename_i e
            exact AppliedWf.wait e (AppliedWf.ite (memoriesWf_cmdPut h) (appliedWf_collStore h))

theorem memoriesWf_applyHeld {x : CtxRef} {c : Cmd} {gid : Nat} {xs : List Contribution} : memoriesWf (s.applyHeld x c gid xs) = true := by
  induction xs generalizing s with
  | nil => exact h
  | cons x xs ih =>
    rw [State.applyHeld]
    split
    · exact h
    · refine memoriesWf_ite (ih h) (memoriesWf_ite (memoriesWf_mismatch h) (memoriesWf_ite (ih (memoriesWf_updGroup (memoriesWf_updColl h))) ?_))
      split
      · rename_i e
        exact ih (memoriesWf_ackContribution (memoriesWf_updGroup (AppliedWf.done e (appliedWf_collData h))))
      · rename_i e
        exact ih (AppliedWf.wait e (appliedWf_collData h))

theorem memoriesWf_collSource {x : CtxRef} {c : Cmd} {gid : Nat} {xs : List (Nat × Nat × Nat)} : memoriesWf (s.collSource x c gid xs) = true := by
  induction xs generalizing s with
  | nil => exact memoriesWf_updCmd _ _ h
  | cons x xs ih =>
    obtain ⟨src, dst, n⟩ := x
    rw [State.collSource]
    split
    · split
      · rename_i e
        exact memoriesWf_ite (memoriesWf_updCmd _ _ (CollReadWf.later e (collReadWf_collRead h))) (CollReadWf.later e (collReadWf_collRead h))
      · rename_i e
        dsimp only
        split
        · exact ih (memoriesWf_updColl (memoriesWf_updCmd _ _ (CollReadWf.ok e (collReadWf_collRead h))))
        · split
          · rename_i e'
            exact ih (memoriesWf_updColl (AppliedWf.done e' (appliedWf_collData (memoriesWf_updCmd _ _ (CollReadWf.ok e (collReadWf_collRead h))))))
          · rename_i e'
            exact memoriesWf_updCmd _ _ (AppliedWf.wait e' (appliedWf_collData (memoriesWf_updCmd _ _ (CollReadWf.ok e (collReadWf_collRead h)))))
    · exact h

theorem memoriesWf_collPump {cid : Nat} : memoriesWf (s.collPump cid) = true := by
  unfold State.collPump
  split
  · split
    · exact h
    · refine memoriesWf_ite h (memoriesWf_ite (memoriesWf_stopCmd h) ?_)
      dsimp only
      split
      · refine memoriesWf_collSends (memoriesWf_markHeld (memoriesWf_ite (memoriesWf_foldl (fun _ _ h => ?_)
            (memoriesWf_applyHeld (memoriesWf_collSource (memoriesWf_flushOut h))))
            (memoriesWf_applyHeld (memoriesWf_collSource (memoriesWf_flushOut h)))))
        split
        · exact memoriesWf_ite (memoriesWf_finishLine h) h
        · exact h
      · refine memoriesWf_markHeld (memoriesWf_ite (memoriesWf_foldl (fun _ _ h => ?_)
            (memoriesWf_applyHeld (memoriesWf_collSource (memoriesWf_flushOut h))))
            (memoriesWf_applyHeld (memoriesWf_collSource (memoriesWf_flushOut h))))
        split
        · exact memoriesWf_ite (memoriesWf_finishLine h) h
        · exact h
  · exact h

theorem memoriesWf_collEnter {c : Cmd} {g : Group} : memoriesWf (s.collEnter c g) = true :=
  memoriesWf_collPump (memoriesWf_updCmd _ _ (memoriesWf_updGroup h))

theorem memoriesWf_collRow {cid op : Nat} : memoriesWf (s.collRow cid op) = true := by
  unfold State.collRow
  split
  · exact h
  · refine memoriesWf_ite h (memoriesWf_ite (memoriesWf_stopCmd h) (memoriesWf_ite (memoriesWf_collPump h) (memoriesWf_ite h ?_)))
    split
    · exact h
    · refine memoriesWf_checked _ _ _ h ?_
      split
      · exact memoriesWf_doneCmd _ _ _ h
      · refine memoriesWf_withRanges h ?_
        split
        · exact memoriesWf_doneCmd _ _ _ h
        · exact memoriesWf_askXlat (memoriesWf_newChoice h)
        · exact h
        · exact memoriesWf_doneCmd _ _ _ h
        · split
          · exact memoriesWf_doneCmd _ _ _ h
          · refine memoriesWf_ite h ?_
            split
            · exact memoriesWf_doneCmd _ _ _ (memoriesWf_toMembers (memoriesWf_breakGroup h))
            · exact memoriesWf_collEnter (memoriesWf_newChoice h)

theorem keeps_execCollectiveTimeout {cid : Nat} : Keeps (execCollectiveTimeout cid s) := by
  unfold execCollectiveTimeout
  refine keeps_next (memoriesWf_clockRow h ?_)
  split
  · exact memoriesWf_ite (memoriesWf_finishCmd _ (memoriesWf_failColl h)) h
  · exact h

theorem memoriesWf_endTxn {port num : Nat} : memoriesWf (s.endTxn port num) = true := memoriesWf_with h

theorem keeps_execHeldFullResend {port txn : Nat} : Keeps (execHeldFullResend port txn s) := by
  unfold execHeldFullResend
  refine keeps_next (memoriesWf_clockRow h ?_)
  split
  · exact h
  · split
    · split
      · refine memoriesWf_ite ?_ h
        dsimp only
        split
        · rename_i e
          exact SentWf.ok e (sentWf_collSend (memoriesWf_endTxn h))
        · exact memoriesWf_finishCmd _ (memoriesWf_failColl h)
        · exact h
      · exact h
    · exact h

theorem memoriesWf_trimHalf {r : Nat} : memoriesWf (s.trimHalf r) = true := memoriesWf_foldl (fun _ _ h => memoriesWf_ite (memoriesWf_evict _ h) h) h

theorem memoriesWf_addSlot {inst e : Nat} : memoriesWf (s.addSlot inst e) = true := memoriesWf_updCore h

theorem memoriesWf_makeInst {bs : List Byte} : memoriesWf (s.makeInst bs) = true :=
  memoriesWf_foldl (fun _ _ h => memoriesWf_ite h (memoriesWf_trimHalf h)) (memoriesWf_foldl (fun _ _ h => memoriesWf_addSlot h) (memoriesWf_with h))

theorem keeps_execInstanceCreate {cid : Nat} : Keeps (execInstanceCreate cid s) := by
  unfold execInstanceCreate
  refine keeps_next (memoriesWf_mgrRow _ _ _ h (fun _ => memoriesWf_checked _ _ _ h
      (memoriesWf_withMgr _ _ _ _ _ h (fun _ h => memoriesWf_ite (memoriesWf_badParam _ _ h) ?_))))
  split
  · exact memoriesWf_doneCmd _ _ _ h
  · exact memoriesWf_withRings h (memoriesWf_makeInst h) (fun _ h => memoriesWf_doneCmd _ _ _ (memoriesWf_drainEvents (memoriesWf_zeroRings h)))

theorem memoriesWf_dropWaiting {mine : QRef → Bool} : memoriesWf (s.dropWaiting mine) = true := memoriesWf_with h

theorem memoriesWf_resetBegin {i : Nat} {st : InstState} : memoriesWf (s.resetBegin i st) = true :=
  memoriesWf_foldl (fun _ _ h => memoriesWf_killComplete (memoriesWf_killCtx h)) (memoriesWf_dropWaiting
      (memoriesWf_updInst _ _ (memoriesWf_countReset (memoriesWf_tdiError h))))

theorem memoriesWf_resetKill {i : Nat} : memoriesWf (s.resetKill i) = true :=
  memoriesWf_foldl (fun _ _ h => memoriesWf_ite (memoriesWf_killWhole h) h) h

theorem memoriesWf_resetCmd {c : Cmd} {st : InstState} : memoriesWf (s.resetCmd c st) = true :=
  memoriesWf_updCmd _ _ (memoriesWf_ite (memoriesWf_resetBegin h) (memoriesWf_resetKill (memoriesWf_resetBegin h)))

theorem keeps_execInstanceDestroy {cid : Nat} : Keeps (execInstanceDestroy cid s) :=
  keeps_next (memoriesWf_mgrRow _ _ _ h (fun _ => memoriesWf_checked _ _ _ h (memoriesWf_ite (memoriesWf_doneCmd _ _ _ h)
      (memoriesWf_ite (memoriesWf_doneCmd _ _ _ h) (memoriesWf_resetCmd h)))))

theorem keeps_execInstanceQuiesce {cid : Nat} : Keeps (execInstanceQuiesce cid s) :=
  keeps_next (memoriesWf_mgrRow _ _ _ h (fun _ => memoriesWf_checked _ _ _ h (memoriesWf_activate (memoriesWf_updInst _ _ (memoriesWf_tdiError h)))))

theorem keeps_execQuiesceTimeout {cid : Nat} : Keeps (execQuiesceTimeout cid s) := by
  unfold execQuiesceTimeout
  refine keeps_next (memoriesWf_clockRow h ?_)
  split
  · exact h
  · exact memoriesWf_ite (memoriesWf_doneCmd _ _ _ (memoriesWf_updInst _ _ h)) h

theorem keeps_execInstanceReset {cid : Nat} : Keeps (execInstanceReset cid s) :=
  keeps_next (memoriesWf_mgrRow _ _ _ h (fun _ => memoriesWf_ite h (memoriesWf_checked _ _ _ h
      (memoriesWf_ite (memoriesWf_doneCmd _ _ _ h) (memoriesWf_resetCmd h)))))

theorem keeps_execInstanceResetDrainEnd {cid : Nat} : Keeps (execInstanceResetDrainEnd cid s) := by
  unfold execInstanceResetDrainEnd
  refine keeps_next (memoriesWf_clockRow h ?_)
  split
  · exact h
  · exact memoriesWf_ite (memoriesWf_updCmd _ _ (memoriesWf_resetSquash h)) h

theorem memoriesWf_resetCtx {c : CtxRef} : memoriesWf (s.resetCtx c) = true :=
  memoriesWf_foldl (fun _ _ h => memoriesWf_zeroRing h) (memoriesWf_updInst _ _ (memoriesWf_updCtx _ _
      (memoriesWf_foldl (fun _ _ h => memoriesWf_wipeSlot h) (memoriesWf_endEpochs
      (memoriesWf_foldl (fun _ _ h => memoriesWf_stopCmd h) (memoriesWf_ite (memoriesWf_killWhole
      (memoriesWf_killComplete (memoriesWf_killCtx (memoriesWf_dropWaiting (memoriesWf_updInst _ _ h)))))
      (memoriesWf_countReset (memoriesWf_killComplete (memoriesWf_killCtx (memoriesWf_dropWaiting (memoriesWf_updInst _ _ h)))))))))))

theorem keeps_execInstanceResetContext {cid : Nat} : Keeps (execInstanceResetContext cid s) :=
  keeps_next (memoriesWf_mgrRow _ _ _ h (fun _ => memoriesWf_ite h (memoriesWf_checked _ _ _ h
      (memoriesWf_withRings h h (fun _ h => memoriesWf_doneCmd _ _ _ (memoriesWf_drainEvents (memoriesWf_resetCtx (memoriesWf_tdiError h))))))))

theorem memoriesWf_mgrAnswer {c : Cmd} {a : Nat} {bs : List Byte} : memoriesWf (s.mgrAnswer c a bs) = true :=
  memoriesWf_doneCmd _ _ _ (memoriesWf_drainEvents (memoriesWf_homeWrite _ _ _ _ (memoriesWf_useRange _ _ _ h)))

theorem keeps_execInstanceQuery {cid : Nat} : Keeps (execInstanceQuery cid s) := by
  unfold execInstanceQuery
  refine keeps_next (memoriesWf_mgrRow _ _ _ h (fun _ => memoriesWf_checked _ _ _ h ?_))
  split
  · exact h
  · exact memoriesWf_withMgr _ _ _ _ _ h (fun _ h => memoriesWf_mgrAnswer h)

theorem keeps_execConfigStage {cid : Nat} : Keeps (execConfigStage cid s) := by
  unfold execConfigStage
  refine keeps_next (memoriesWf_mgrRow _ _ _ h (fun _ => memoriesWf_checked _ _ _ h
      (memoriesWf_ite (memoriesWf_badParam _ _ h) (memoriesWf_withMgr _ _ _ _ _ h
      (fun _ h => memoriesWf_ite (memoriesWf_badParam _ _ h) (memoriesWf_ite (memoriesWf_doneCmd _ _ _ h) ?_))))))
  split
  · exact memoriesWf_doneCmd _ _ _ h
  · exact memoriesWf_doneCmd _ _ _ (memoriesWf_with h)

theorem keeps_execConfigApply {cid : Nat} : Keeps (execConfigApply cid s) := by
  unfold execConfigApply
  refine keeps_next (memoriesWf_mgrRow _ _ _ h (fun _ => memoriesWf_checked _ _ _ h ?_))
  split
  · exact h
  · exact memoriesWf_ite (memoriesWf_doneCmd _ _ _ h) (memoriesWf_ite (memoriesWf_doneCmd _ _ _ h) (memoriesWf_activate (memoriesWf_with h)))

theorem memoriesWf_flushBlock {b : Nat} : memoriesWf (s.flushBlock b) = true := memoriesWf_foldl (fun _ _ h => memoriesWf_evict _ h) h

theorem memoriesWf_applied {ch : Change} : memoriesWf (s.applied ch) = true :=
  memoriesWf_event _ _ (memoriesWf_with (memoriesWf_foldl (fun _ _ h => memoriesWf_flushBlock h) h))

theorem memoriesWf_carve {r old new : Nat} : memoriesWf (s.carve r old new) = true :=
  memoriesWf_ite h (memoriesWf_mk (spWipe_wf _ (mem_wf (memoriesWf_trimHalf h))) (back_wf (memoriesWf_trimHalf h))
      (hostMem_wf (memoriesWf_trimHalf h)))

theorem keeps_execConfigEpochBoundary {region : Nat} : Keeps (execConfigEpochBoundary region s) := by
  unfold execConfigEpochBoundary
  refine keeps_next ?_
  split
  · exact h
  · exact memoriesWf_ite h (memoriesWf_foldl (fun _ _ h => memoriesWf_doneCmd _ _ _ h)
        (memoriesWf_ite (memoriesWf_applied (memoriesWf_carve (memoriesWf_with h))) (memoriesWf_carve (memoriesWf_with h))))

theorem keeps_execConfigStatus {cid : Nat} : Keeps (execConfigStatus cid s) :=
  keeps_next (memoriesWf_mgrRow _ _ _ h (fun _ => memoriesWf_checked _ _ _ h (memoriesWf_ite (memoriesWf_doneCmd _ _ _ h)
      (memoriesWf_doneCmd _ _ _ h))))

theorem keeps_execCoreFence {cid : Nat} : Keeps (execCoreFence cid s) :=
  keeps_next (memoriesWf_mgrRow _ _ _ h (fun _ => memoriesWf_checked _ _ _ h (memoriesWf_ite (memoriesWf_doneCmd _ _ _ h)
      (memoriesWf_ite (memoriesWf_doneCmd _ _ _ h) (memoriesWf_ite (memoriesWf_doneCmd _ _ _ h)
      (memoriesWf_doneCmd _ _ _ (memoriesWf_fenceCore h)))))))

theorem keeps_execCoreDiagnose {cid : Nat} {result : BitVec 8} {unitFail : BitVec 19} {rfFail : BitVec 4} {l1Fail : BitVec 16} {us : Word} : Keeps
    (execCoreDiagnose cid result unitFail rfFail l1Fail us s) :=
  keeps_next (memoriesWf_mgrRow _ _ _ h (fun _ => memoriesWf_ite h (memoriesWf_checked _ _ _ h
      (memoriesWf_ite (memoriesWf_doneCmd _ _ _ h) (memoriesWf_withMgr _ _ _ _ _ h (fun _ h => memoriesWf_mgrAnswer (memoriesWf_countReset h)))))))

theorem keeps_execPowerSetCap {cid : Nat} : Keeps (execPowerSetCap cid s) :=
  keeps_next (memoriesWf_mgrRow _ _ _ h (fun _ => memoriesWf_checked _ _ _ h (memoriesWf_activate (memoriesWf_with h))))

theorem keeps_execPowerQuery {cid : Nat} : Keeps (execPowerQuery cid s) :=
  keeps_next (memoriesWf_mgrRow _ _ _ h (fun _ => memoriesWf_checked _ _ _ h (memoriesWf_withMgr _ _ _ _ _ h (fun _ h => memoriesWf_mgrAnswer h))))

theorem memoriesWf_measure : memoriesWf s.measure = true := memoriesWf_with h

theorem memoriesWf_gateTap : memoriesWf s.gateTap = true := memoriesWf_with h

theorem memoriesWf_advance {dst newHash : Nat} : memoriesWf (s.advance dst newHash) = true := memoriesWf_gateTap (memoriesWf_with h)

theorem memoriesWf_wipeMemories : memoriesWf s.wipeMemories = true := memoriesWf_mk rfl rfl (hostMem_wf h)

theorem memoriesWf_destroyWhole {i : Nat} : memoriesWf (s.destroyWhole i) = true :=
  memoriesWf_destroyEnd (memoriesWf_resetKill (memoriesWf_resetBegin h))

theorem memoriesWf_destroyAll : memoriesWf s.destroyAll = true := memoriesWf_foldl (fun _ _ h => memoriesWf_destroyWhole h) h

theorem keeps_execLifecycleAdvance {cid : Nat} : Keeps (execLifecycleAdvance cid s) := by
  unfold execLifecycleAdvance
  refine keeps_next (memoriesWf_mgrRow _ _ _ h (fun _ => memoriesWf_checked _ _ _ h
      (memoriesWf_withMgr _ _ _ _ _ h (fun _ h => memoriesWf_ite (memoriesWf_badParam _ _ h) ?_))))
  split
  · exact memoriesWf_doneCmd _ _ _ h
  · exact memoriesWf_ite (memoriesWf_doneCmd _ _ _ h) (memoriesWf_ite (memoriesWf_doneCmd _ _ _ h)
        (memoriesWf_doneCmd _ _ _ (memoriesWf_drainEvents (memoriesWf_measure (memoriesWf_advance
        (memoriesWf_wipeMemories (memoriesWf_destroyAll (memoriesWf_countReset h))))))))

theorem keeps_execResetCountersRead {cid : Nat} : Keeps (execResetCountersRead cid s) :=
  keeps_next (memoriesWf_mgrRow _ _ _ h (fun _ => memoriesWf_checked _ _ _ h (memoriesWf_withMgr _ _ _ _ _ h (fun _ h => memoriesWf_mgrAnswer h))))

theorem keeps_execResetCountersClear {cid : Nat} : Keeps (execResetCountersClear cid s) :=
  keeps_next (memoriesWf_mgrRow _ _ _ h (fun _ => memoriesWf_checked _ _ _ h (memoriesWf_ite (memoriesWf_doneCmd _ _ _ h)
      (memoriesWf_doneCmd _ _ _ (memoriesWf_with h)))))

theorem keeps_execRamblerRun {cid : Nat} : Keeps (execRamblerRun cid s) :=
  keeps_next (memoriesWf_mgrRow _ _ _ h (fun _ => memoriesWf_checked _ _ _ h (memoriesWf_withMgr _ _ _ _ _ h
      (fun _ h => memoriesWf_ite (memoriesWf_badParam _ _ h) (memoriesWf_withMgr _ _ _ _ _ h
      (fun _ h => memoriesWf_ite (memoriesWf_badParam _ _ h) (memoriesWf_ite (memoriesWf_doneCmd _ _ _ h)
      (memoriesWf_ite (memoriesWf_doneCmd _ _ _ h) (memoriesWf_activate (memoriesWf_with h))))))))))

theorem keeps_execRamblerRunEnd {results : List (List Nat)} : Keeps (execRamblerRunEnd results s) := by
  unfold execRamblerRunEnd
  refine keeps_next (memoriesWf_clockRow h ?_)
  split
  · exact h
  · split
    · exact memoriesWf_with h
    · exact memoriesWf_ite h (memoriesWf_mgrAnswer (memoriesWf_wipeChannels (memoriesWf_with h)))

theorem memoriesWf_hold {bs : List Byte} : memoriesWf (s.hold bs) = true := memoriesWf_ite (memoriesWf_with h) (memoriesWf_with h)

theorem memoriesWf_stageImage {bs : List Byte} {len : Nat} : memoriesWf (s.stageImage bs len).1 = true :=
  memoriesWf_ite_fst h (memoriesWf_ite_fst h (memoriesWf_hold h))

theorem keeps_execFwStage {cid : Nat} : Keeps (execFwStage cid s) :=
  keeps_next (memoriesWf_mgrRow _ _ _ h (fun _ => memoriesWf_checked _ _ _ h (memoriesWf_withMgr _ _ _ _ _ h
      (fun _ h => memoriesWf_doneCmd _ _ _ (memoriesWf_stageImage h)))))

theorem memoriesWf_unhold : memoriesWf s.unhold = true := memoriesWf_with h

theorem memoriesWf_runSlot {img : FwImage} : memoriesWf (s.runSlot img) = true :=
  memoriesWf_unhold (memoriesWf_measure (memoriesWf_with (memoriesWf_with h)))

theorem memoriesWf_activateImage : memoriesWf s.activateImage.1 = true := by
  unfold State.activateImage
  refine memoriesWf_ite_fst ?_ (memoriesWf_ite_fst (memoriesWf_runSlot (memoriesWf_wipeMemories (memoriesWf_destroyAll (memoriesWf_countReset h))))
      (memoriesWf_unhold (memoriesWf_wipeMemories (memoriesWf_destroyAll (memoriesWf_countReset h)))))
  split
  · exact memoriesWf_unhold (memoriesWf_with h)
  · exact memoriesWf_unhold h

theorem keeps_execFwActivate {cid : Nat} : Keeps (execFwActivate cid s) :=
  keeps_next (memoriesWf_mgrRow _ _ _ h (fun _ => memoriesWf_checked _ _ _ h (memoriesWf_ite (memoriesWf_doneCmd _ _ _ h)
      (memoriesWf_ite (memoriesWf_doneCmd _ _ _ h) (memoriesWf_doneCmd _ _ _ (memoriesWf_drainEvents (memoriesWf_activateImage h)))))))

theorem memoriesWf_failUnreachable : memoriesWf s.failUnreachable = true := by
  unfold State.failUnreachable
  refine memoriesWf_foldl (fun _ _ h => ?_) h
  split
  · exact h
  · split
    · exact memoriesWf_finishCmd _ (memoriesWf_failColl h)
    · exact h

theorem keeps_execFabricRouteSet {cid : Nat} : Keeps (execFabricRouteSet cid s) :=
  keeps_next (memoriesWf_mgrRow _ _ _ h (fun _ => memoriesWf_checked _ _ _ h (memoriesWf_withMgr _ _ _ _ _ h
      (fun _ h => memoriesWf_ite (memoriesWf_badParam _ _ h) (memoriesWf_doneCmd _ _ _
      (memoriesWf_drainEvents (memoriesWf_failUnreachable (memoriesWf_with h))))))))

theorem keeps_execFabricGroupSet {cid : Nat} : Keeps (execFabricGroupSet cid s) :=
  keeps_next (memoriesWf_mgrRow _ _ _ h (fun _ => memoriesWf_checked _ _ _ h (memoriesWf_withMgr _ _ _ _ _ h
      (fun _ h => memoriesWf_ite (memoriesWf_badParam _ _ h) (memoriesWf_ite (memoriesWf_badParam _ _ h)
      (memoriesWf_ite (memoriesWf_doneCmd _ _ _ h) (memoriesWf_doneCmd _ _ _ (memoriesWf_with h))))))))

theorem memoriesWf_bar2Lost {fn : Nat} : memoriesWf (s.bar2Lost fn) = true := memoriesWf_error _ _ _ _ h

theorem memoriesWf_barFetch {inst : Option Nat} {a len : Nat} {reads : Bool} : memoriesWf (s.barFetch inst a len reads) = true :=
  memoriesWf_foldl (fun _ _ h => memoriesWf_fetchLine _ _ _ _ h) h

theorem sentWf_sendPieces {inst : Nat} {xs : List (TxnOwner × Nat × Msg × List Byte)} : SentWf (s.sendPieces inst xs) := by
  induction xs generalizing s with
  | nil => exact h
  | cons x xs ih =>
    obtain ⟨o, pa, m, d⟩ := x
    rw [State.sendPieces]
    split
    · rename_i e
      exact ih (SentWf.ok e (sentWf_request h))
    · exact sentWf_request h

theorem memoriesWf_bar2Put {fn o : Nat} {data : List Byte} : memoriesWf (s.bar2Put fn o data).1 = true := by
  unfold State.bar2Put
  dsimp only
  split
  · exact memoriesWf_bar2Lost h
  · exact memoriesWf_fetchLine _ _ _ _ h
  · exact memoriesWf_ite_fst (memoriesWf_barFetch h) (memoriesWf_drainEvents (memoriesWf_homeWrite _ _ _ _ h))
  · split
    · rename_i e
      exact SentWf.ok e (sentWf_sendPieces h)
    · exact h
    · exact memoriesWf_bar2Lost h

theorem memoriesWf_postNow {x : Posted} : memoriesWf (s.postNow x).1 = true := by
  unfold State.postNow
  split
  · exact memoriesWf_bar2Put h
  · exact memoriesWf_ringBell h

theorem memoriesWf_drainPosted : memoriesWf s.drainPosted = true := by
  unfold State.drainPosted
  refine memoriesWf_ite h ?_
  extract_lets r
  have hr : memoriesWf r.1 = true := by
    refine memoriesWf_foldl_fst (fun _ _ h => memoriesWf_ite_fst ?_ h) h
    split
    · rename_i e
      exact memoriesWf_of_fst e (memoriesWf_postNow h)
    · rename_i e
      exact memoriesWf_of_fst e (memoriesWf_postNow h)
  exact memoriesWf_with hr

theorem memoriesWf_nackMsg {port reason : Nat} {req : Msg} : memoriesWf (s.nackMsg port req reason) = true := memoriesWf_respond h

theorem memoriesWf_fetchMsg {inst : Nat} {m : Msg} : memoriesWf (s.fetchMsg inst m) = true :=
  memoriesWf_foldl (fun _ _ h => memoriesWf_fetchLine _ _ _ _ h) h

theorem memoriesWf_rspData {port : Nat} {m : Msg} {masks : BitVec 64 × BitVec 64} {data : List Byte} : memoriesWf (s.rspData port m masks data) = true
    :=
  memoriesWf_respond h

theorem memoriesWf_homeRd {port : Nat} {m : Msg} {hit : Bool} : memoriesWf (s.homeRd port m hit) = true :=
  memoriesWf_rspData (memoriesWf_ite h (memoriesWf_foldl (fun _ _ h => memoriesWf_touch _ h) h))

theorem memoriesWf_countLlc {inst : Option Nat} {a : Nat} : memoriesWf (s.countLlc inst a) = true := memoriesWf_countEvent _ _ _ _ h

theorem memoriesWf_homeWr {port inst : Nat} {m : Msg} {data : List Byte} : memoriesWf (s.homeWr port inst m data) = true :=
  memoriesWf_ackMsg (memoriesWf_drainEvents (memoriesWf_foldl (fun _ _ h => memoriesWf_ite (memoriesWf_markPoison h)
      (memoriesWf_writeSector _ _ _ _ h)) h))

theorem memoriesWf_homeAtom {port inst : Nat} {m : Msg} {data : List Byte} : memoriesWf (s.homeAtom port inst m data) = true :=
  memoriesWf_rspData (memoriesWf_foldl (fun _ _ h => memoriesWf_ite h (memoriesWf_writeSector _ _ _ _ h)) h)

theorem memoriesWf_homeAddMsg {port inst : Nat} {m : Msg} {data : List Byte} : memoriesWf (s.homeAddMsg port inst m data) = true :=
  memoriesWf_respond (memoriesWf_drainEvents (memoriesWf_foldl (fun _ _ h => memoriesWf_ite (memoriesWf_postError _ _ _ _ h)
      (memoriesWf_writeSector _ _ _ _ h)) h))

theorem memoriesWf_homeDead {port : Nat} {m : Msg} : memoriesWf (s.homeDead port m) = true :=
  memoriesWf_ackMsg (memoriesWf_foldl (fun _ _ h => memoriesWf_declareDead _ _ h) h)

theorem memoriesWf_serve {port inst : Nat} {m : Msg} {data : List Byte} {hit : Bool} : memoriesWf (s.serve port inst m data hit) = true := by
  unfold State.serve
  dsimp only
  split
  · exact memoriesWf_homeRd (memoriesWf_countLlc h)
  · exact memoriesWf_homeWr (memoriesWf_countLlc h)
  · exact memoriesWf_homeAtom (memoriesWf_countLlc h)
  · exact memoriesWf_homeAddMsg (memoriesWf_countLlc h)
  · exact memoriesWf_homeDead (memoriesWf_countLlc h)

theorem memoriesWf_resumeInbound {xs : List Inbound} : memoriesWf (s.resumeInbound xs) = true := by
  induction xs generalizing s with
  | nil => exact h
  | cons x xs ih =>
    rw [State.resumeInbound]
    refine ih ?_
    split
    · exact memoriesWf_nackMsg (memoriesWf_with h)
    · exact memoriesWf_ite (memoriesWf_fetchMsg (memoriesWf_with h)) (memoriesWf_serve (memoriesWf_with h))

theorem memoriesWf_resume : memoriesWf s.resume = true := memoriesWf_drainPosted (memoriesWf_resumeInbound h)

theorem memoriesWf_reqFault {x : Req} {cause : Cause} {lane va : Nat} : memoriesWf (s.reqFault x cause lane va) = true :=
  memoriesWf_ite h (memoriesWf_ctxFault _ _ h)

theorem memoriesWf_downReq {x : Req} : memoriesWf (s.downReq x) = true := memoriesWf_reqFault (memoriesWf_endReq h)

theorem memoriesWf_toIngress {x : Req} : memoriesWf (s.toIngress x) = true := memoriesWf_with h

theorem memoriesWf_joinEntry {x : Req} : memoriesWf (s.joinEntry x) = true := memoriesWf_with (memoriesWf_fetchLine _ _ _ _ h)

theorem memoriesWf_performRead {x : Req} {hit : Bool} : memoriesWf (s.performRead x hit) = true := by
  unfold State.performRead
  dsimp only
  split
  · exact memoriesWf_reqFault (memoriesWf_endReq h)
  · exact memoriesWf_with (memoriesWf_foldl (fun _ _ h => memoriesWf_countReread _ _ h)
        (memoriesWf_countReread _ _ (memoriesWf_ite (memoriesWf_touch _ h) h)))

theorem memoriesWf_fillOut {line : Nat} {xs : List Req} {hit : Bool} : memoriesWf (s.fillOut line xs hit) = true := by
  unfold State.fillOut
  dsimp only
  split
  · exact memoriesWf_foldl (fun _ _ h => memoriesWf_performRead h) h
  · exact memoriesWf_ite (memoriesWf_fillLeaves (memoriesWf_foldl (fun _ _ h => memoriesWf_performRead h) h))
        (memoriesWf_with (memoriesWf_foldl (fun _ _ h => memoriesWf_performRead h) h))

theorem memoriesWf_joinInbound {line : Nat} : memoriesWf (s.joinInbound line) = true := by
  unfold State.joinInbound
  refine memoriesWf_foldl (fun _ _ h => memoriesWf_ite h ?_) h
  dsimp only
  split
  · exact memoriesWf_nackMsg (memoriesWf_with h)
  · exact memoriesWf_homeRd (memoriesWf_with h)

theorem memoriesWf_performWrite {x : Req} {choice : Nat} : memoriesWf (s.performWrite x choice) = true :=
  memoriesWf_foldl (fun _ _ h => memoriesWf_ctxWriteSector h) (memoriesWf_endReq h)

theorem memoriesWf_acquireEnd {x : Req} : memoriesWf (s.acquireEnd x) = true :=
  memoriesWf_ite (memoriesWf_updHerd (memoriesWf_ite (memoriesWf_invalidateL1 h) h)) h

theorem memoriesWf_deliver {x : Req} {results : List (Nat × Nat)} : memoriesWf (s.deliver x results) = true := memoriesWf_ite h (memoriesWf_updHerd h)

theorem memoriesWf_swapElem {c : CtxRef} {l : LaneAcc} {choice : Nat} {f : Nat → Nat} : memoriesWf (s.swapElem c l choice f).1 = true :=
  memoriesWf_ctxWriteSector h

theorem memoriesWf_performAtomic {x : Req} {aop choice : Nat} : memoriesWf (s.performAtomic x aop choice) = true := by
  unfold State.performAtomic
  dsimp only
  split
  · exact memoriesWf_reqFault (memoriesWf_endReq h)
  · refine memoriesWf_acquireEnd (memoriesWf_deliver
      (memoriesWf_foldl_fst (fun _ _ h => ?_) (memoriesWf_countReread _ _ (memoriesWf_endReq h))))
    dsimp only
    exact memoriesWf_swapElem h

theorem memoriesWf_performAdd {x : Req} {lf opf choice : Nat} : memoriesWf (s.performAdd x lf opf choice) = true := by
  unfold State.performAdd
  dsimp only
  split
  · exact memoriesWf_reqFault (memoriesWf_endReq h)
  · exact memoriesWf_foldl (fun _ _ h => memoriesWf_swapElem h) (memoriesWf_foldl (fun _ _ h => memoriesWf_ite h (memoriesWf_error _ _ _ _ h))
        (memoriesWf_countReread _ _ (memoriesWf_endReq h)))

theorem memoriesWf_performDeclare {x : Req} {chk : Bool} : memoriesWf (s.performDeclare x chk) = true :=
  memoriesWf_foldl (fun _ _ h => memoriesWf_declareDead _ _ h) (memoriesWf_endReq h)

theorem memoriesWf_perform {x : Req} {choice : Nat} {hit : Bool} : memoriesWf (s.perform x choice hit) = true := by
  unfold State.perform
  dsimp only
  split
  · exact memoriesWf_fillOut (memoriesWf_countLlc h)
  · exact memoriesWf_fillOut (memoriesWf_countLlc h)
  · exact memoriesWf_drainEvents (memoriesWf_performWrite (memoriesWf_countLlc h))
  · exact memoriesWf_performAtomic (memoriesWf_countLlc h)
  · exact memoriesWf_performAdd (memoriesWf_countLlc h)
  · exact memoriesWf_performDeclare (memoriesWf_countLlc h)
  · exact memoriesWf_countLlc h

theorem memoriesWf_bankServe {x : Req} {choice : Nat} : memoriesWf (s.bankServe x choice).1 = true :=
  memoriesWf_ite_fst (memoriesWf_ite_fst (memoriesWf_toIngress h) (memoriesWf_joinEntry h))
      (memoriesWf_ite_fst h (memoriesWf_ite_fst (memoriesWf_fillOut (memoriesWf_joinInbound (memoriesWf_countLlc h))) (memoriesWf_perform h)))

theorem memoriesWf_bankDrain {line choice n : Nat} : memoriesWf (s.bankDrain line choice n) = true := by
  induction n generalizing s with
  | zero => exact h
  | succ n ih =>
    rw [State.bankDrain]
    split
    · exact h
    · split
      · rename_i e
        exact ih (memoriesWf_of_fst e (memoriesWf_bankServe h))
      · exact h

theorem memoriesWf_bankArrive {x : Req} {choice : Nat} : memoriesWf (s.bankArrive x choice) = true :=
  memoriesWf_ite (memoriesWf_bankDrain h) (memoriesWf_ite h (memoriesWf_bankDrain (memoriesWf_with h)))

theorem memoriesWf_llcPoison {x : Req} : memoriesWf (s.llcPoison x) = true :=
  memoriesWf_ite h (memoriesWf_ite (memoriesWf_with (memoriesWf_error _ _ _ _ h)) (memoriesWf_updTag _ _ (memoriesWf_error _ _ _ _ h)))

theorem memoriesWf_llcErr {x : Req} {x1 : LlcErr} : memoriesWf (s.llcErr x x1) = true := by
  unfold State.llcErr
  split
  · exact h
  · exact memoriesWf_error _ _ _ _ h
  · exact memoriesWf_llcPoison h
  · exact memoriesWf_error _ _ _ _ (memoriesWf_with h)

theorem memoriesWf_useKernel {x : Req} : memoriesWf (s.useKernel x) = true := by
  unfold State.useKernel
  split
  · exact memoriesWf_noteRegion h
  · exact h

theorem memoriesWf_bankRow {rid choice : Nat} {err : LlcErr} {ok : ReqKind → Bool} : memoriesWf (s.bankRow rid choice err ok) = true := by
  unfold State.bankRow
  split
  · exact memoriesWf_ite h (memoriesWf_ite (memoriesWf_downReq h) (memoriesWf_bankArrive (memoriesWf_llcErr (memoriesWf_useKernel h))))
  · exact h

theorem memoriesWf_drainRecords : memoriesWf s.drainRecords = true :=
  memoriesWf_drainEvents (memoriesWf_foldl (fun _ _ h => memoriesWf_drainHeld _ _ h) (memoriesWf_ite h (memoriesWf_drainHeld _ _ h)))

theorem memoriesWf_serveWaiters {line choice : Nat} {done : List Nat} {xs : List Req} : memoriesWf (s.serveWaiters line choice done xs) = true := by
  induction xs generalizing s done with
  | nil => exact h
  | cons x xs ih => exact memoriesWf_ite (ih h) (memoriesWf_ite (ih (memoriesWf_fillOut (memoriesWf_joinInbound (memoriesWf_countLlc h))))
      (ih (memoriesWf_perform h)))

theorem memoriesWf_hbmCount {r ce ue : Nat} : memoriesWf (s.hbmCount r ce ue) = true := memoriesWf_updStack _ _ h

theorem memoriesWf_uncorrectable {sec : Nat} : memoriesWf (s.uncorrectable sec) = true := memoriesWf_error _ _ _ _ (memoriesWf_hbmCount h)

theorem memoriesWf_loseSector {sec : Nat} : memoriesWf (s.loseSector sec) = true := memoriesWf_with h

theorem memoriesWf_corrected {sec : Nat} : memoriesWf (s.corrected sec) = true :=
  memoriesWf_queueWrite _ (memoriesWf_error _ _ _ _ (memoriesWf_hbmCount h))

theorem memoriesWf_hbmSector {sec : Nat} {e : Ecc} : memoriesWf (s.hbmSector sec e) = true :=
  memoriesWf_ite h (memoriesWf_ite (memoriesWf_uncorrectable h) (memoriesWf_ite (memoriesWf_uncorrectable (memoriesWf_loseSector h))
      (memoriesWf_ite (memoriesWf_uncorrectable (memoriesWf_ite (memoriesWf_corrected h) h)) (memoriesWf_ite (memoriesWf_corrected h) h))))

theorem memoriesWf_openRow {a : Nat} : memoriesWf (s.openRow a) = true := memoriesWf_updStack _ _ h

theorem keeps_execHbmReadComplete {line choice : Nat} {ecc : List Ecc} : Keeps (execHbmReadComplete line choice ecc s) := by
  unfold execHbmReadComplete
  refine keeps_next ?_
  split
  · exact h
  · exact memoriesWf_ite h (memoriesWf_drainRecords (memoriesWf_resume (memoriesWf_fillWindows
        (memoriesWf_serveWaiters (memoriesWf_countEvent _ _ _ _ (memoriesWf_with (memoriesWf_fillLine _ _ _ _
        (memoriesWf_foldl (fun _ _ h => memoriesWf_hbmSector h) (memoriesWf_openRow h)))))))))

theorem memoriesWf_operandArrive {x : Req} {data : BitVec 2048} : memoriesWf (s.operandArrive x data) = true := by
  unfold State.operandArrive
  split
  · dsimp only
    split
    · exact memoriesWf_declareOwed (memoriesWf_updOp h)
    · exact memoriesWf_ite (memoriesWf_updCore h) h
  · exact h

theorem memoriesWf_fillL1 {r : SlotRef} {line choice : Nat} {secs : BitVec 8} {data : BitVec 2048} {alloc : Bool} : memoriesWf
    (s.fillL1 r line choice secs data alloc) = true := by
  unfold State.fillL1
  split
  · exact h
  · split
    · exact memoriesWf_ite (memoriesWf_touchL1 (memoriesWf_updSlot h)) (memoriesWf_updSlot h)
    · exact memoriesWf_ite h (memoriesWf_touchL1 (memoriesWf_updSlot (memoriesWf_updCore h)))

theorem memoriesWf_arriveLoad {x : Req} {choice : Nat} {res : List (Nat × Nat)} {mask : BitVec 8} {data : BitVec 2048} : memoriesWf
    (s.arriveLoad x choice res mask data) = true :=
  memoriesWf_acquireEnd (memoriesWf_ite (memoriesWf_fillL1 (memoriesWf_deliver (memoriesWf_endReq h))) (memoriesWf_deliver (memoriesWf_endReq h)))

theorem memoriesWf_arriveFill {choice : Nat} {x : Req} : memoriesWf (s.arriveFill choice x) = true := by
  unfold State.arriveFill
  split
  · split
    · exact memoriesWf_operandArrive (memoriesWf_endReq h)
    · exact memoriesWf_foldl (fun _ _ h => memoriesWf_arriveLoad h) (memoriesWf_arriveLoad h)
  · exact h

theorem keeps_execFillArrival {core line choice : Nat} : Keeps (execFillArrival core line choice s) :=
  keeps_next (memoriesWf_clockRow h (memoriesWf_foldl (fun _ _ h => memoriesWf_arriveFill h) h))

theorem keeps_execLandingCreditReturn {core : Nat} : Keeps (execLandingCreditReturn core s) := by
  unfold execLandingCreditReturn
  refine keeps_next (memoriesWf_clockRow h ?_)
  split
  · exact h
  · exact memoriesWf_ite h (memoriesWf_trimReplay (memoriesWf_with (memoriesWf_updCore h)))

theorem memoriesWf_putPoisonMark {sec : Nat} : memoriesWf (s.putPoisonMark sec) = true :=
  memoriesWf_mk (mem_wf h) (writeBytes_wf _ _ (back_wf h)) (hostMem_wf h)

theorem memoriesWf_scrubSector {sector : Nat} {ecc : Ecc} : memoriesWf (s.scrubSector sector ecc) = true :=
  memoriesWf_ite (memoriesWf_uncorrectable h) (memoriesWf_ite (memoriesWf_queueWrite _ (memoriesWf_putPoisonMark (memoriesWf_uncorrectable h)))
      (memoriesWf_ite (memoriesWf_uncorrectable (memoriesWf_ite (memoriesWf_corrected h) h)) (memoriesWf_ite (memoriesWf_corrected h) h)))

theorem memoriesWf_askScrub {stack sector : Nat} : memoriesWf (s.askScrub stack sector) = true :=
  memoriesWf_ite (memoriesWf_fillWindows h) (memoriesWf_fillWindows (memoriesWf_updStack _ _ h))

theorem keeps_execPatrolScrub {stack sector : Nat} {ecc : Ecc} : Keeps (execPatrolScrub stack sector ecc s) := by
  unfold execPatrolScrub
  refine keeps_next (memoriesWf_ite ?_ h)
  dsimp only
  split
  · exact memoriesWf_ite (memoriesWf_fillWindows (memoriesWf_scrubSector (memoriesWf_updStack _ _ (memoriesWf_openRow (memoriesWf_askScrub h)))))
        (memoriesWf_askScrub h)
  · exact memoriesWf_askScrub h

theorem memoriesWf_thermTrip : memoriesWf s.thermTrip = true := memoriesWf_ite h (memoriesWf_with (memoriesWf_countReset h))

theorem memoriesWf_leaveHold {stack : Nat} : memoriesWf (s.leaveHold stack) = true :=
  memoriesWf_resume (memoriesWf_foldl (fun _ _ h => memoriesWf_drainWq _ h) h)

theorem memoriesWf_noteHolds : memoriesWf s.noteHolds = true := by
  unfold State.noteHolds
  refine memoriesWf_foldl (fun _ _ h => ?_) h
  split
  · exact h
  · refine memoriesWf_ite h ?_
    split
    · exact memoriesWf_markHeld h
    · exact memoriesWf_markHeld h
    · exact h

theorem memoriesWf_stopRambler {stack : Nat} : memoriesWf (s.stopRambler stack) = true := by
  unfold State.stopRambler
  split
  · exact h
  · exact memoriesWf_wipeChannels (memoriesWf_with h)

theorem memoriesWf_noteHot {r : Nat} : memoriesWf (s.noteHot r) = true := memoriesWf_with h

theorem keeps_execHbmTempRead {stack : Nat} {tempC : BitVec 8} : Keeps (execHbmTempRead stack tempC s) :=
  keeps_next (memoriesWf_ite h (memoriesWf_ite (memoriesWf_thermTrip (memoriesWf_ite
      (memoriesWf_leaveHold (memoriesWf_ite (memoriesWf_noteHolds (memoriesWf_ite
      (memoriesWf_stopRambler (memoriesWf_ite (memoriesWf_noteHot (memoriesWf_ite (memoriesWf_updStack _ _ h)
      (memoriesWf_event _ _ (memoriesWf_updStack _ _ h)))) (memoriesWf_ite (memoriesWf_updStack _ _ h)
      (memoriesWf_event _ _ (memoriesWf_updStack _ _ h))))) (memoriesWf_ite (memoriesWf_noteHot
      (memoriesWf_ite (memoriesWf_updStack _ _ h) (memoriesWf_event _ _ (memoriesWf_updStack _ _ h))))
      (memoriesWf_ite (memoriesWf_updStack _ _ h) (memoriesWf_event _ _ (memoriesWf_updStack _ _ h))))))
      (memoriesWf_ite (memoriesWf_stopRambler (memoriesWf_ite (memoriesWf_noteHot
      (memoriesWf_ite (memoriesWf_updStack _ _ h) (memoriesWf_event _ _ (memoriesWf_updStack _ _ h))))
      (memoriesWf_ite (memoriesWf_updStack _ _ h) (memoriesWf_event _ _ (memoriesWf_updStack _ _ h)))))
      (memoriesWf_ite (memoriesWf_noteHot (memoriesWf_ite (memoriesWf_updStack _ _ h) (memoriesWf_event _ _ (memoriesWf_updStack _ _ h))))
      (memoriesWf_ite (memoriesWf_updStack _ _ h) (memoriesWf_event _ _ (memoriesWf_updStack _ _ h)))))))
      (memoriesWf_ite (memoriesWf_noteHolds (memoriesWf_ite (memoriesWf_stopRambler
      (memoriesWf_ite (memoriesWf_noteHot (memoriesWf_ite (memoriesWf_updStack _ _ h) (memoriesWf_event _ _ (memoriesWf_updStack _ _ h))))
      (memoriesWf_ite (memoriesWf_updStack _ _ h) (memoriesWf_event _ _ (memoriesWf_updStack _ _ h)))))
      (memoriesWf_ite (memoriesWf_noteHot (memoriesWf_ite (memoriesWf_updStack _ _ h) (memoriesWf_event _ _ (memoriesWf_updStack _ _ h))))
      (memoriesWf_ite (memoriesWf_updStack _ _ h) (memoriesWf_event _ _ (memoriesWf_updStack _ _ h))))))
      (memoriesWf_ite (memoriesWf_stopRambler (memoriesWf_ite (memoriesWf_noteHot
      (memoriesWf_ite (memoriesWf_updStack _ _ h) (memoriesWf_event _ _ (memoriesWf_updStack _ _ h))))
      (memoriesWf_ite (memoriesWf_updStack _ _ h) (memoriesWf_event _ _ (memoriesWf_updStack _ _ h)))))
      (memoriesWf_ite (memoriesWf_noteHot (memoriesWf_ite (memoriesWf_updStack _ _ h) (memoriesWf_event _ _ (memoriesWf_updStack _ _ h))))
      (memoriesWf_ite (memoriesWf_updStack _ _ h) (memoriesWf_event _ _ (memoriesWf_updStack _ _ h))))))))
      (memoriesWf_ite (memoriesWf_leaveHold (memoriesWf_ite (memoriesWf_noteHolds
      (memoriesWf_ite (memoriesWf_stopRambler (memoriesWf_ite (memoriesWf_noteHot
      (memoriesWf_ite (memoriesWf_updStack _ _ h) (memoriesWf_event _ _ (memoriesWf_updStack _ _ h))))
      (memoriesWf_ite (memoriesWf_updStack _ _ h) (memoriesWf_event _ _ (memoriesWf_updStack _ _ h)))))
      (memoriesWf_ite (memoriesWf_noteHot (memoriesWf_ite (memoriesWf_updStack _ _ h) (memoriesWf_event _ _ (memoriesWf_updStack _ _ h))))
      (memoriesWf_ite (memoriesWf_updStack _ _ h) (memoriesWf_event _ _ (memoriesWf_updStack _ _ h))))))
      (memoriesWf_ite (memoriesWf_stopRambler (memoriesWf_ite (memoriesWf_noteHot
      (memoriesWf_ite (memoriesWf_updStack _ _ h) (memoriesWf_event _ _ (memoriesWf_updStack _ _ h))))
      (memoriesWf_ite (memoriesWf_updStack _ _ h) (memoriesWf_event _ _ (memoriesWf_updStack _ _ h)))))
      (memoriesWf_ite (memoriesWf_noteHot (memoriesWf_ite (memoriesWf_updStack _ _ h) (memoriesWf_event _ _ (memoriesWf_updStack _ _ h))))
      (memoriesWf_ite (memoriesWf_updStack _ _ h) (memoriesWf_event _ _ (memoriesWf_updStack _ _ h)))))))
      (memoriesWf_ite (memoriesWf_noteHolds (memoriesWf_ite (memoriesWf_stopRambler
      (memoriesWf_ite (memoriesWf_noteHot (memoriesWf_ite (memoriesWf_updStack _ _ h) (memoriesWf_event _ _ (memoriesWf_updStack _ _ h))))
      (memoriesWf_ite (memoriesWf_updStack _ _ h) (memoriesWf_event _ _ (memoriesWf_updStack _ _ h)))))
      (memoriesWf_ite (memoriesWf_noteHot (memoriesWf_ite (memoriesWf_updStack _ _ h) (memoriesWf_event _ _ (memoriesWf_updStack _ _ h))))
      (memoriesWf_ite (memoriesWf_updStack _ _ h) (memoriesWf_event _ _ (memoriesWf_updStack _ _ h))))))
      (memoriesWf_ite (memoriesWf_stopRambler (memoriesWf_ite (memoriesWf_noteHot
      (memoriesWf_ite (memoriesWf_updStack _ _ h) (memoriesWf_event _ _ (memoriesWf_updStack _ _ h))))
      (memoriesWf_ite (memoriesWf_updStack _ _ h) (memoriesWf_event _ _ (memoriesWf_updStack _ _ h)))))
      (memoriesWf_ite (memoriesWf_noteHot (memoriesWf_ite (memoriesWf_updStack _ _ h) (memoriesWf_event _ _ (memoriesWf_updStack _ _ h))))
      (memoriesWf_ite (memoriesWf_updStack _ _ h) (memoriesWf_event _ _ (memoriesWf_updStack _ _ h)))))))))

theorem keeps_execThermalHoldExpiry {cid : Nat} : Keeps (execThermalHoldExpiry cid s) := by
  unfold execThermalHoldExpiry
  refine keeps_next ?_
  split
  · exact h
  · exact memoriesWf_ite (memoriesWf_stopCmd h) h

theorem memoriesWf_wipeHbm {r : Nat} : memoriesWf (s.wipeHbm r) = true :=
  memoriesWf_mk (mem_wf (memoriesWf_updStack _ _ h)) (spWipe_wf _ (back_wf h)) (hostMem_wf (memoriesWf_updStack _ _ h))

theorem keeps_execHbmReady {stack : Nat} {reused : Bool} {pcFail : Word64} {dq ca : BitVec 8} : Keeps (execHbmReady stack reused pcFail dq ca s) :=
  keeps_next (memoriesWf_ite h (memoriesWf_ite (memoriesWf_wipeHbm (memoriesWf_updStack _ _ h))
      (memoriesWf_foldl (fun _ _ h => memoriesWf_error _ _ _ _ h) (memoriesWf_wipeHbm (memoriesWf_updStack _ _ h)))))

theorem memoriesWf_discardFlit {p : Nat} : memoriesWf (s.discardFlit p) = true := memoriesWf_emit (memoriesWf_updPort (memoriesWf_updPort h))

theorem memoriesWf_drainOut {port : Nat} : memoriesWf (s.drainOut port) = true :=
  memoriesWf_foldl (fun _ _ h => memoriesWf_putOut h) (memoriesWf_updPort h)

theorem memoriesWf_replayPort {p : Nat} : memoriesWf (s.replayPort p) = true := memoriesWf_ite h (memoriesWf_emit (memoriesWf_updPort h))

theorem memoriesWf_discardMsg {port : Nat} : memoriesWf (s.discardMsg port) = true := memoriesWf_error _ _ _ _ h

theorem keeps_execFlitReceive {port : Nat} {flit : Flit} : Keeps (execFlitReceive port flit s) :=
  keeps_next (memoriesWf_clockRow h (memoriesWf_ite h (memoriesWf_ite (memoriesWf_discardFlit h)
      (memoriesWf_drainOut (memoriesWf_ite (memoriesWf_replayPort (memoriesWf_ite (memoriesWf_updPort h)
      (memoriesWf_freeRx (memoriesWf_discardMsg (memoriesWf_updPort h))))) (memoriesWf_ite (memoriesWf_updPort h)
      (memoriesWf_freeRx (memoriesWf_discardMsg (memoriesWf_updPort h)))))))))

theorem keeps_execFastRetrain {port : Nat} : Keeps (execFastRetrain port s) :=
  keeps_next (memoriesWf_clockRow h (memoriesWf_ite (memoriesWf_updPort h) h))

theorem memoriesWf_forward {port : Nat} {m : Msg} {c : Option CollHdr} {data : List Byte} : memoriesWf (s.forward port m c data) = true := by
  unfold State.forward
  refine memoriesWf_ite (memoriesWf_freeRx (memoriesWf_ite (memoriesWf_nackMsg h) h)) ?_
  split
  · exact memoriesWf_freeRx (memoriesWf_ite (memoriesWf_nackMsg h) h)
  · exact memoriesWf_putOut h

theorem memoriesWf_forwardAgain {o : OutMsg} : memoriesWf (s.forwardAgain o) = true := by
  unfold State.forwardAgain
  split
  · exact memoriesWf_forward h
  · exact h

theorem memoriesWf_failReq {x : Req} {cause : Cause} : memoriesWf (s.failReq x cause) = true := memoriesWf_reqFault (memoriesWf_endReq h)

theorem memoriesWf_bar2Drop {op : Nat} : memoriesWf (s.bar2Drop op) = true := memoriesWf_orphanTxns (memoriesWf_with h)

theorem memoriesWf_bar2Fail {op : Nat} : memoriesWf (s.bar2Fail op) = true := by
  unfold State.bar2Fail
  split
  · exact h
  · exact memoriesWf_emit (memoriesWf_bar2Drop h)

theorem memoriesWf_ringData {q : QRef} {rid : Nat} {data : Option (List Byte)} : memoriesWf (s.ringData q rid data) = true := by
  unfold State.ringData
  split
  · exact h
  · refine memoriesWf_ite h ?_
    split
    · exact memoriesWf_updQueue _ _ h
    · exact memoriesWf_ringFault _ (memoriesWf_updQueue _ _ h)

theorem memoriesWf_failTxn {t : Txn} {cause : Cause} {st : Status} {detail : Nat} : memoriesWf (s.failTxn t cause st detail) = true := by
  unfold State.failTxn
  dsimp only
  split
  · split
    · exact memoriesWf_failReq (memoriesWf_endTxn h)
    · exact memoriesWf_endTxn h
  · exact memoriesWf_stopCmd (memoriesWf_endTxn h)
  · exact memoriesWf_stopCmd (memoriesWf_endTxn h)
  · exact memoriesWf_stopCmd (memoriesWf_endTxn h)
  · exact memoriesWf_bar2Fail (memoriesWf_endTxn h)
  · exact memoriesWf_drainPosted (memoriesWf_bar2Lost (memoriesWf_endTxn h))
  · exact memoriesWf_ringData (memoriesWf_endTxn h)
  · exact memoriesWf_endTxn h

theorem memoriesWf_dropReceived {p : Nat} : memoriesWf (s.dropReceived p) = true := memoriesWf_with h

theorem memoriesWf_linkEvent {p reason : Nat} : memoriesWf (s.linkEvent p reason) = true := memoriesWf_event _ _ h

theorem memoriesWf_linkLost {p reason : Nat} : memoriesWf (s.linkLost p reason) = true :=
  memoriesWf_failUnreachable (memoriesWf_foldl (fun _ _ h => memoriesWf_forwardAgain h)
      (memoriesWf_foldl (fun _ _ h => memoriesWf_ite (memoriesWf_failTxn h) h) (memoriesWf_dropReceived
      (memoriesWf_linkEvent (memoriesWf_updPort h)))))

theorem keeps_execFastRetrainComplete {port : Nat} {ok : Bool} {spareFor : BitVec 3} : Keeps (execFastRetrainComplete port ok spareFor s) :=
  keeps_next (memoriesWf_clockRow h (memoriesWf_ite h (memoriesWf_ite (memoriesWf_drainOut (memoriesWf_replayPort (memoriesWf_updPort h)))
      (memoriesWf_linkLost h))))

theorem memoriesWf_tryLive {p : Nat} : memoriesWf (s.tryLive p) = true := memoriesWf_ite (memoriesWf_linkEvent (memoriesWf_updPort h)) h

theorem keeps_execHeartbeat {port : Nat} {b : Beat} : Keeps (execHeartbeat port b s) :=
  keeps_next (memoriesWf_clockRow h (memoriesWf_ite h (memoriesWf_ite (memoriesWf_linkLost (memoriesWf_updPort h))
      (memoriesWf_ite (memoriesWf_ite (memoriesWf_updPort h) (memoriesWf_error _ _ _ _
      (memoriesWf_linkEvent (memoriesWf_updPort (memoriesWf_updPort h))))) (memoriesWf_tryLive (memoriesWf_updPort (memoriesWf_updPort h)))))))

theorem keeps_execHeartbeatSend {port : Nat} : Keeps (execHeartbeatSend port s) :=
  keeps_next (memoriesWf_clockRow h (memoriesWf_ite (memoriesWf_tryLive (memoriesWf_emit (memoriesWf_updPort h))) h))

theorem keeps_execHeartbeatLoss {port : Nat} : Keeps (execHeartbeatLoss port s) :=
  keeps_next (memoriesWf_clockRow h (memoriesWf_ite (memoriesWf_linkLost h) h))

theorem keeps_execPortSignalDetect {port lanes : Nat} : Keeps (execPortSignalDetect port lanes s) :=
  keeps_next (memoriesWf_clockRow h (memoriesWf_ite (memoriesWf_updPort h) h))

theorem memoriesWf_newInc {p : Nat} : memoriesWf (s.newInc p) = true := memoriesWf_updPort (memoriesWf_free h)

theorem keeps_execPortTrainingComplete {port : Nat} {goodFull goodHalf : BitVec 5} : Keeps (execPortTrainingComplete port goodFull goodHalf s) := by
  unfold execPortTrainingComplete
  refine keeps_next (memoriesWf_clockRow h (memoriesWf_ite h ?_))
  split
  · exact h
  · exact memoriesWf_linkEvent (memoriesWf_newInc (memoriesWf_updPort h))

theorem keeps_execPortTrainingRestart {port : Nat} : Keeps (execPortTrainingRestart port s) :=
  keeps_next (memoriesWf_clockRow h (memoriesWf_ite (memoriesWf_updPort h) h))

theorem memoriesWf_receive {typ port : Nat} {m : Msg} {c : Option CollHdr} {data : List Byte} {go : State → State}
    (hgo : ∀ (a : State), memoriesWf a = true → memoriesWf (go a) = true) : memoriesWf (s.receive typ port m c data go) = true :=
  memoriesWf_ite h (memoriesWf_ite (memoriesWf_freeRx (memoriesWf_ite (memoriesWf_nackMsg h) h))
      (memoriesWf_ite (memoriesWf_freeRx (memoriesWf_discardMsg h)) (memoriesWf_ite (memoriesWf_forward h) (hgo _ (memoriesWf_freeRx h)))))

theorem memoriesWf_serveChecked {port : Nat} {m : Msg} {data : List Byte} : memoriesWf (s.serveChecked port m data) = true := by
  unfold State.serveChecked
  split
  · exact memoriesWf_nackMsg h
  · exact memoriesWf_ite (memoriesWf_with (memoriesWf_fetchMsg h)) (memoriesWf_serve h)

theorem keeps_execRd {port : Nat} {m : Msg} : Keeps (execRd port m s) := keeps_next (memoriesWf_receive h (fun _ h => memoriesWf_serveChecked h))

theorem keeps_execWr {port : Nat} {m : Msg} {data : List Byte} : Keeps (execWr port m data s) :=
  keeps_next (memoriesWf_receive h (fun _ h => memoriesWf_serveChecked h))

theorem keeps_execFabricAtom {port : Nat} {m : Msg} {data : List Byte} : Keeps (execFabricAtom port m data s) :=
  keeps_next (memoriesWf_receive h (fun _ h => memoriesWf_serveChecked h))

theorem keeps_execFabricAdd {port : Nat} {m : Msg} {data : List Byte} : Keeps (execFabricAdd port m data s) :=
  keeps_next (memoriesWf_receive h (fun _ h => memoriesWf_serveChecked h))

theorem keeps_execDead {port : Nat} {m : Msg} : Keeps (execDead port m s) := keeps_next (memoriesWf_receive h (fun _ h => memoriesWf_serveChecked h))

theorem memoriesWf_collArrived {port : Nat} {m : Msg} {hd : CollHdr} {data : List Byte} : memoriesWf (s.collArrived port m hd data) = true := by
  unfold State.collArrived
  split
  · exact memoriesWf_nackMsg h
  · refine memoriesWf_ite (memoriesWf_nackMsg h) (memoriesWf_ite (memoriesWf_nackMsg h)
        (memoriesWf_ite h (memoriesWf_ite (memoriesWf_mismatch h) (memoriesWf_ite (memoriesWf_mismatch h)
        (memoriesWf_ite ?_ (memoriesWf_ite (memoriesWf_nackMsg h) (memoriesWf_ite ?_ (memoriesWf_updGroup h))))))))
    · dsimp only
      split
      · exact memoriesWf_ite (memoriesWf_collPump (memoriesWf_ackMsg (memoriesWf_updGroup h))) (memoriesWf_ackMsg (memoriesWf_updGroup h))
      · exact memoriesWf_ackMsg (memoriesWf_updGroup h)
    · split
      · exact memoriesWf_collPump (memoriesWf_updGroup h)
      · exact memoriesWf_updGroup h

theorem keeps_execCollData {port : Nat} {m : Msg} {c : CollHdr} {data : List Byte} : Keeps (execCollData port m c data s) :=
  keeps_next (memoriesWf_receive h (fun _ h => memoriesWf_collArrived h))

theorem keeps_execCollArrive {port : Nat} {m : Msg} {c : CollHdr} : Keeps (execCollArrive port m c s) :=
  keeps_next (memoriesWf_receive h (fun _ h => memoriesWf_collArrived h))

theorem memoriesWf_remoteDead {x : Req} : memoriesWf (s.remoteDead x).1 = true :=
  memoriesWf_ite_fst (memoriesWf_failReq h) (memoriesWf_countReread _ _ h)

theorem memoriesWf_reqData {x : Req} {at_ : Nat} {data : List Byte} : memoriesWf (s.reqData x at_ data) = true := by
  unfold State.reqData
  dsimp only
  split
  · split
    · exact memoriesWf_ite (memoriesWf_takeWord (memoriesWf_endReq h)) (memoriesWf_endReq h)
    · exact memoriesWf_endReq h
  · exact memoriesWf_acquireEnd (memoriesWf_deliver (memoriesWf_endReq h))
  · exact memoriesWf_endReq h
  · exact memoriesWf_endReq h
  · exact memoriesWf_endReq h
  · exact memoriesWf_with h

theorem memoriesWf_cmdResponse {cid pa : Nat} {dead poison : Bool} {data : List Byte} : memoriesWf (s.cmdResponse cid pa dead poison data) = true :=
    by
  unfold State.cmdResponse
  split
  · exact h
  · split
    · exact h
    · exact memoriesWf_ite h (memoriesWf_ite (memoriesWf_stopCmd h) (memoriesWf_ite (memoriesWf_cmdDead h)
          (memoriesWf_ite (memoriesWf_doneCmd _ _ _ (memoriesWf_ite (memoriesWf_countReread _ _ h) h))
          (memoriesWf_ite (memoriesWf_waitRead (memoriesWf_ite (memoriesWf_countReread _ _ h) h))
          (memoriesWf_ite (memoriesWf_countReread _ _ h) h)))))

theorem memoriesWf_cmdOn {cid : Nat} : memoriesWf (s.cmdOn cid) = true := by
  unfold State.cmdOn
  split
  · exact h
  · exact memoriesWf_ite (memoriesWf_pump h) (memoriesWf_ite (memoriesWf_collPump h) h)

theorem memoriesWf_cmdData {cid dst : Nat} {bs : List Byte} : memoriesWf (s.cmdData cid dst bs) = true := by
  unfold State.cmdData
  split
  · exact h
  · split
    · exact h
    · exact memoriesWf_ite (memoriesWf_cmdParts h) (memoriesWf_updCmd _ _ h)

theorem memoriesWf_dmaResponse {cid pa : Nat} {parts : List (Nat × Nat × Nat)} {dead poison : Bool} {data : List Byte} : memoriesWf
    (s.dmaResponse cid pa parts dead poison data) = true := by
  unfold State.dmaResponse
  split
  · exact h
  · split
    · exact h
    · refine memoriesWf_ite h (memoriesWf_ite (memoriesWf_ite ?_ (memoriesWf_stopCmd h))
          (memoriesWf_ite (memoriesWf_cmdDead h) (memoriesWf_cmdOn (memoriesWf_foldl (fun _ _ h => memoriesWf_cmdData h)
          (memoriesWf_ite (memoriesWf_countReread _ _ h) h)))))
      split
      · exact memoriesWf_cmdPoison h
      · exact memoriesWf_stopCmd h

theorem memoriesWf_bar2Data {op off : Nat} {bs : List Byte} {poison : Bool} : memoriesWf (s.bar2Data op off bs poison) = true := by
  unfold State.bar2Data
  split
  · exact h
  · exact memoriesWf_ite (memoriesWf_emit (memoriesWf_bar2Drop h)) (memoriesWf_ite (memoriesWf_emit (memoriesWf_bar2Drop h)) (memoriesWf_with h))

theorem keeps_execRdRsp {port : Nat} {m : Msg} {data : List Byte} : Keeps (execRdRsp port m data s) := by
  unfold execRdRsp
  refine keeps_next (memoriesWf_receive h (fun _ h => ?_))
  split
  · exact h
  · dsimp only
    split
    · split
      · exact memoriesWf_endTxn h
      · refine memoriesWf_ite (memoriesWf_failReq (memoriesWf_endTxn h)) (memoriesWf_ite ?_ (memoriesWf_reqData (memoriesWf_endTxn h)))
        split
        · rename_i e
          exact memoriesWf_of_fst e (memoriesWf_remoteDead (memoriesWf_endTxn h))
        · rename_i e
          exact memoriesWf_reqData (memoriesWf_of_fst e (memoriesWf_remoteDead (memoriesWf_endTxn h)))
    · exact memoriesWf_cmdResponse (memoriesWf_endTxn h)
    · exact memoriesWf_dmaResponse (memoriesWf_endTxn h)
    · exact memoriesWf_bar2Data (memoriesWf_endTxn h)
    · exact memoriesWf_endTxn h

theorem memoriesWf_addAccepted {x : Req} {t : Txn} {dead : BitVec 64} : memoriesWf (s.addAccepted x t dead) = true :=
  memoriesWf_ite (memoriesWf_failReq h) (memoriesWf_countReread _ _ (memoriesWf_endReq h))

theorem memoriesWf_accepted {t : Txn} {dead : BitVec 64} : memoriesWf (s.accepted t dead) = true := by
  unfold State.accepted
  split
  · split
    · split
      · exact memoriesWf_addAccepted h
      · exact memoriesWf_endReq h
    · exact h
  · split
    · refine memoriesWf_ite (memoriesWf_doneCmd _ _ _ h) ?_
      split
      · exact memoriesWf_ite (memoriesWf_cmdDead h) (memoriesWf_cmdOn (memoriesWf_countReread _ _ h))
      · exact h
    · exact h
  · exact memoriesWf_cmdOn h
  · exact memoriesWf_cmdOn h
  · exact h
  · exact memoriesWf_drainPosted h
  · exact h
  · exact h

theorem keeps_execAck {port : Nat} {m : Msg} : Keeps (execAck port m s) := by
  unfold execAck
  refine keeps_next (memoriesWf_receive h (fun _ h => ?_))
  split
  · exact h
  · exact memoriesWf_accepted (memoriesWf_endTxn h)

theorem keeps_execNack {port : Nat} {m : Msg} : Keeps (execNack port m s) := by
  unfold execNack
  refine keeps_next (memoriesWf_receive h (fun _ h => ?_))
  split
  · exact h
  · dsimp only
    split
    · exact memoriesWf_failTxn h
    · exact memoriesWf_failTxn h
    · split
      · exact memoriesWf_with h
      · exact memoriesWf_discardMsg h
    · exact memoriesWf_failTxn h

theorem keeps_execPending {port : Nat} {m : Msg} : Keeps (execPending port m s) := by
  unfold execPending
  refine keeps_next (memoriesWf_receive h (fun _ h => ?_))
  split
  · exact h
  · exact memoriesWf_ite (memoriesWf_failTxn h) (memoriesWf_with h)

theorem keeps_execPendingTimer {port : Nat} {srcPkg : BitVec 12} {txn : BitVec 14} : Keeps (execPendingTimer port srcPkg txn s) := by
  unfold execPendingTimer
  refine keeps_next (memoriesWf_clockRow h ?_)
  split
  · exact h
  · exact memoriesWf_ite (memoriesWf_with (memoriesWf_respond h)) h

theorem keeps_execTxnTimeout {port txn : Nat} : Keeps (execTxnTimeout port txn s) := by
  unfold execTxnTimeout
  refine keeps_next (memoriesWf_clockRow h ?_)
  split
  · exact h
  · exact memoriesWf_ite (memoriesWf_failTxn h) h

theorem keeps_execProgressHold {port : Nat} {m : Msg} {seq : Word} {rank : BitVec 16} : Keeps (execProgressHold port m seq rank s) := by
  unfold execProgressHold
  refine keeps_next (memoriesWf_receive h (fun _ h => ?_))
  split
  · exact h
  · exact memoriesWf_updColl h

theorem keeps_execProgressHoldBeacon {region : Nat} : Keeps (execProgressHoldBeacon region s) := by
  unfold execProgressHoldBeacon
  refine keeps_next (memoriesWf_ite (memoriesWf_foldl (fun _ _ h => ?_) h) h)
  split
  · exact memoriesWf_ite (memoriesWf_updGroup (memoriesWf_toMembers h)) h
  · exact h

theorem keeps_execPeerAbort {port : Nat} {m : Msg} {seq : Word} {rank : BitVec 16} : Keeps (execPeerAbort port m seq rank s) := by
  unfold execPeerAbort
  refine keeps_next (memoriesWf_receive h (fun _ h => ?_))
  split
  · exact h
  · exact memoriesWf_elim (memoriesWf_dropColl h) (fun _ => memoriesWf_finishCmd _ (memoriesWf_dropColl h))

theorem memoriesWf_losePart {part : Part} : memoriesWf (s.losePart part) = true := memoriesWf_with h

theorem memoriesWf_abandonExits {us : List ResetUnit} : memoriesWf (s.abandonExits us) = true := memoriesWf_with h

theorem memoriesWf_endRambler {rs : List Nat} : memoriesWf (s.endRambler rs) = true := by
  unfold State.endRambler
  split
  · exact h
  · exact memoriesWf_ite (memoriesWf_doneCmd _ _ _ (memoriesWf_wipeChannels (memoriesWf_with h))) h

theorem memoriesWf_refuseInbound {rs : List Nat} : memoriesWf (s.refuseInbound rs) = true :=
  memoriesWf_foldl (fun _ _ h => memoriesWf_nackMsg h) (memoriesWf_with h)

theorem memoriesWf_killAffected {rs : List Nat} : memoriesWf (s.killAffected rs) = true := memoriesWf_foldl (fun _ _ h => memoriesWf_killWhole h) h

theorem memoriesWf_closeRegions {rs : List Nat} : memoriesWf (s.closeRegions rs) = true :=
  memoriesWf_foldl (fun _ _ h => memoriesWf_updStack _ _ h) (memoriesWf_with (memoriesWf_endRambler
      (memoriesWf_refuseInbound (memoriesWf_with (memoriesWf_foldl (fun _ _ h => memoriesWf_downReq h) (memoriesWf_killAffected h))))))

theorem keeps_execRouterStopFailure {region stop : Nat} : Keeps (execRouterStopFailure region stop s) :=
  keeps_next (memoriesWf_ite h (memoriesWf_ite (memoriesWf_fenceCore (memoriesWf_error _ _ _ _ (memoriesWf_losePart (memoriesWf_with h))))
      (memoriesWf_ite (memoriesWf_with (memoriesWf_abandonExits (memoriesWf_closeRegions
      (memoriesWf_error _ _ _ _ (memoriesWf_losePart (memoriesWf_with h)))))) (memoriesWf_error _ _ _ _ (memoriesWf_losePart (memoriesWf_with h))))))

theorem keeps_execLinkOutOfService {link : Nat} : Keeps (execLinkOutOfService link s) :=
  keeps_next (memoriesWf_ite h (memoriesWf_ite (memoriesWf_ite h (memoriesWf_error _ _ _ _ (memoriesWf_with (memoriesWf_losePart h))))
      (memoriesWf_ite (memoriesWf_ite h (memoriesWf_error _ _ _ _ (memoriesWf_with (memoriesWf_losePart h)))) h)))

theorem keeps_execInternalFlitLoss {rid : Nat} : Keeps (execInternalFlitLoss rid s) := by
  unfold execInternalFlitLoss
  refine keeps_next (memoriesWf_clockRow h (memoriesWf_ite h ?_))
  dsimp only
  split
  · exact memoriesWf_failReq (memoriesWf_with h)
  · split
    · exact memoriesWf_ite (memoriesWf_stopCmd (memoriesWf_with h)) (memoriesWf_with h)
    · exact memoriesWf_with h

theorem memoriesWf_barHome {inst : Option Nat} {a len : Nat} {reads : Bool} {go : State} (hgo : memoriesWf go = true) : memoriesWf
    (s.barHome inst a len reads go) = true :=
  memoriesWf_ite (memoriesWf_barFetch h) hgo

theorem memoriesWf_bar2Send {inst fn len : Nat} {pieces : Nat → List (TxnOwner × Nat × Msg × List Byte)} : memoriesWf (s.bar2Send inst fn len pieces)
    = true := by
  unfold State.bar2Send
  dsimp only
  split
  · rename_i e
    exact SentWf.ok e (sentWf_sendPieces (memoriesWf_with (memoriesWf_fresh h)))
  · exact h
  · exact memoriesWf_emit h

theorem keeps_execBar2Read {fn len : Nat} {addr : Word64} {tagged : Bool} : Keeps (execBar2Read fn addr len tagged s) := by
  unfold execBar2Read
  refine keeps_next (memoriesWf_ite (memoriesWf_drainPosted h) (memoriesWf_ite (memoriesWf_emit (memoriesWf_drainPosted h))
      (memoriesWf_ite (memoriesWf_drainPosted h) ?_)))
  split
  · exact memoriesWf_emit (memoriesWf_drainPosted h)
  · exact memoriesWf_fetchLine _ _ _ _ (memoriesWf_drainPosted h)
  · exact memoriesWf_barHome (memoriesWf_drainPosted h) (memoriesWf_ite (memoriesWf_emit (memoriesWf_drainPosted h))
        (memoriesWf_emit (memoriesWf_drainPosted h)))
  · exact memoriesWf_bar2Send (memoriesWf_drainPosted h)

theorem keeps_execBar2Write {fn : Nat} {addr : Word64} {data : List Byte} {tagged relaxed : Bool} : Keeps
    (execBar2Write fn addr data tagged s relaxed) := by
  unfold execBar2Write
  refine keeps_next (memoriesWf_ite (memoriesWf_drainPosted h) (memoriesWf_ite (memoriesWf_postLater (memoriesWf_drainPosted h)) ?_))
  split
  · rename_i e
    exact memoriesWf_of_fst e (memoriesWf_bar2Put (memoriesWf_drainPosted h))
  · rename_i e
    exact memoriesWf_postLater (memoriesWf_of_fst e (memoriesWf_bar2Put (memoriesWf_drainPosted h)))

theorem keeps_execBar2Atomicop {fn size : Nat} {addr operand compare : Word64} {kind : AtomKind} {tagged : Bool} : Keeps
    (execBar2Atomicop fn addr kind size operand compare tagged s) := by
  unfold execBar2Atomicop
  refine keeps_next (memoriesWf_ite (memoriesWf_drainPosted h) (memoriesWf_ite (memoriesWf_emit (memoriesWf_drainPosted h))
      (memoriesWf_ite (memoriesWf_drainPosted h) ?_)))
  split
  · exact memoriesWf_emit (memoriesWf_drainPosted h)
  · exact memoriesWf_fetchLine _ _ _ _ (memoriesWf_drainPosted h)
  · exact memoriesWf_barHome (memoriesWf_drainPosted h) (memoriesWf_ite (memoriesWf_emit (memoriesWf_drainPosted h))
        (memoriesWf_emit (memoriesWf_drainEvents (memoriesWf_homeWrite _ _ _ _ (memoriesWf_drainPosted h)))))
  · exact memoriesWf_bar2Send (memoriesWf_drainPosted h)

theorem memoriesWf_writeMg {o v : Nat} : memoriesWf (s.writeMg o v) = true :=
  memoriesWf_ite (memoriesWf_with h) (memoriesWf_ite (memoriesWf_with h) (memoriesWf_ite (memoriesWf_with h) (memoriesWf_ite (memoriesWf_with h) h)))

theorem memoriesWf_writeHb {o v : Nat} : memoriesWf (s.writeHb o v) = true :=
  memoriesWf_ite (memoriesWf_with h) (memoriesWf_ite (memoriesWf_updStack _ _ h) (memoriesWf_ite (memoriesWf_updStack _ _ h) h))

theorem memoriesWf_writeFx {o v : Nat} : memoriesWf (s.writeFx o v) = true :=
  memoriesWf_ite (memoriesWf_ite h (memoriesWf_with h)) (memoriesWf_ite (memoriesWf_ite (memoriesWf_with h) h)
      (memoriesWf_ite h (memoriesWf_ite (memoriesWf_updPort h) (memoriesWf_ite (memoriesWf_updPort h)
      (memoriesWf_ite (memoriesWf_updPort h) (memoriesWf_ite (memoriesWf_updPort h) h))))))

theorem memoriesWf_markCapped : memoriesWf s.markCapped = true := memoriesWf_with h

theorem memoriesWf_noteCapped : memoriesWf s.noteCapped = true := memoriesWf_ite (memoriesWf_markCapped h) h

theorem memoriesWf_writePreq {p : BitVec 3} : memoriesWf (s.writePreq p) = true :=
  memoriesWf_noteCapped (memoriesWf_with (memoriesWf_ite (memoriesWf_setLevel (memoriesWf_with h)) (memoriesWf_with h)))

theorem memoriesWf_writePw {o v : Nat} : memoriesWf (s.writePw o v) = true :=
  memoriesWf_ite (memoriesWf_writePreq h) (memoriesWf_ite (memoriesWf_with h) h)

theorem memoriesWf_writeRs {o v : Nat} : memoriesWf (s.writeRs o v) = true := memoriesWf_ite (memoriesWf_with h) h

theorem memoriesWf_updFn {fn : Nat} {f : FnCfg → FnCfg} : memoriesWf (s.updFn fn f) = true := memoriesWf_with h

theorem memoriesWf_writeMsix {fn o v : Nat} : memoriesWf (s.writeMsix fn o v) = true :=
  memoriesWf_ite h (memoriesWf_ite (memoriesWf_ite (memoriesWf_updFn h) h) (memoriesWf_updFn h))

theorem memoriesWf_writeWord {p : Party} {off v : Nat} : memoriesWf (s.writeWord p off v) = true := by
  unfold State.writeWord
  dsimp only
  split
  · refine memoriesWf_ite h ?_
    split
    · exact memoriesWf_writeMg h
    · exact memoriesWf_writeHb h
    · exact memoriesWf_writeFx h
    · exact memoriesWf_writePw h
    · exact memoriesWf_writeRs h
    · exact memoriesWf_writeMsix h
    · exact h
  · exact memoriesWf_ite (memoriesWf_writeMsix h) h
  · exact memoriesWf_ite (memoriesWf_writeMsix h) h
  · exact h

theorem keeps_execRegisterWrite {p : Party} {offset size : Nat} {value : Word64} : Keeps (execRegisterWrite p offset size value s) :=
  keeps_next (memoriesWf_ite h (memoriesWf_ite (memoriesWf_writeWord (memoriesWf_writeWord h)) (memoriesWf_writeWord h)))

theorem memoriesWf_sendPending {fn : Nat} : memoriesWf (s.sendPending fn) = true :=
  memoriesWf_ite h (memoriesWf_foldl (fun _ _ h => memoriesWf_emit h) (memoriesWf_updFn h))

theorem memoriesWf_hostResume {fn : Nat} : memoriesWf (s.hostResume fn) = true :=
  memoriesWf_ite (memoriesWf_drainEvents (memoriesWf_drainHeld _ _ h)) (memoriesWf_foldl (fun _ _ h => memoriesWf_cmdOn h)
      (memoriesWf_foldl (fun _ _ h => memoriesWf_drainHeld _ _ h) h))

theorem memoriesWf_cfgWrite {fn : Nat} {x : CfgWrite} : memoriesWf (s.cfgWrite fn x) = true := by
  unfold State.cfgWrite
  split
  · exact memoriesWf_sendPending (memoriesWf_updFn h)
  · exact memoriesWf_sendPending (memoriesWf_updFn h)
  · exact memoriesWf_ite h (memoriesWf_hostResume (memoriesWf_updFn (memoriesWf_with h)))

theorem keeps_execConfigRequest {fn offset : Nat} {write : Option CfgWrite} : Keeps (execConfigRequest fn offset s write) := by
  unfold execConfigRequest
  refine keeps_next (memoriesWf_clockRow h (memoriesWf_ite h (memoriesWf_ite (memoriesWf_ite (memoriesWf_emit h)
      (memoriesWf_ite (memoriesWf_emit h) (memoriesWf_emit h))) (memoriesWf_ite (memoriesWf_emit h) ?_))))
  split
  · exact memoriesWf_emit (memoriesWf_cfgWrite h)
  · exact memoriesWf_ite (memoriesWf_emit h) (memoriesWf_emit (memoriesWf_free h))

theorem memoriesWf_dropVfs : memoriesWf s.dropVfs = true := memoriesWf_with h

theorem keeps_execVfEnable {numVfs : Nat} {enable : Bool} : Keeps (execVfEnable numVfs enable s) :=
  keeps_next (memoriesWf_ite h (memoriesWf_ite (memoriesWf_ite h (memoriesWf_with h)) (memoriesWf_with (memoriesWf_dropVfs h))))

theorem keeps_execBusMasterEnable {fn : Nat} {on : Bool} : Keeps (execBusMasterEnable fn on s) :=
  keeps_next (memoriesWf_ite h (memoriesWf_ite (memoriesWf_sendPending (memoriesWf_hostResume (memoriesWf_updFn h))) (memoriesWf_updFn h)))

theorem keeps_execMsixUnmask {fn vector : Nat} {tagged : Bool} : Keeps (execMsixUnmask fn vector s tagged) :=
  keeps_next (memoriesWf_ite h (memoriesWf_sendPending (memoriesWf_updFn h)))

theorem memoriesWf_adminStop : memoriesWf s.adminStop = true := memoriesWf_adminIdle (memoriesWf_with (memoriesWf_dropWaiting h))

theorem memoriesWf_hostLost : memoriesWf s.hostLost = true :=
  memoriesWf_foldl (fun _ _ h => memoriesWf_ite (memoriesWf_failTxn h) h) (memoriesWf_foldl (fun _ _ h => memoriesWf_ite (memoriesWf_failReq h) h) h)

theorem memoriesWf_allTdiError : memoriesWf s.allTdiError = true := memoriesWf_foldl (fun _ _ h => memoriesWf_tdiError h) h

theorem keeps_execHotReset : Keeps (execHotReset s) :=
  keeps_next (memoriesWf_clockRow h (memoriesWf_ite h (memoriesWf_adminStop (memoriesWf_with
      (memoriesWf_foldl (fun _ _ h => memoriesWf_bar2Drop h) (memoriesWf_hostLost (memoriesWf_allTdiError (memoriesWf_countReset h))))))))

theorem keeps_execPfFlr : Keeps (execPfFlr s) := keeps_next (memoriesWf_ite h (memoriesWf_adminStop (memoriesWf_with (memoriesWf_allTdiError h))))

theorem memoriesWf_resetWhole {i : Nat} : memoriesWf (s.resetWhole i) = true := memoriesWf_resetEnd (memoriesWf_resetKill (memoriesWf_resetBegin h))

theorem keeps_execVfFlr {vf : Nat} : Keeps (execVfFlr vf s) :=
  keeps_next (memoriesWf_ite h (memoriesWf_ite (memoriesWf_withRings h h (fun _ h => memoriesWf_with (memoriesWf_resetWhole h))) (memoriesWf_with h)))

theorem keeps_execAtsTranslationCompletion {inst page at_ : Nat} {readable writable : Bool} : Keeps
    (execAtsTranslationCompletion inst page readable writable s at_) :=
  keeps_next (memoriesWf_ite h (memoriesWf_foldl (fun _ _ h => memoriesWf_cmdOn h)
      (memoriesWf_foldl (fun _ _ h => memoriesWf_drainHeld _ _ h) (memoriesWf_with h))))

theorem keeps_execIdeKm {stream : Nat} {refresh : Bool} : Keeps (execIdeKm stream refresh s) :=
  keeps_next (memoriesWf_ite h (memoriesWf_ite (memoriesWf_ite (memoriesWf_emit h) h) (memoriesWf_emit (memoriesWf_with h))))

theorem keeps_execIdeIntegrityFailure {stream : Nat} : Keeps (execIdeIntegrityFailure stream s) :=
  keeps_next (memoriesWf_clockRow h (memoriesWf_ite h (memoriesWf_foldl (fun _ _ h => memoriesWf_tdiError h)
      (memoriesWf_error _ _ _ _ (memoriesWf_with h)))))

theorem memoriesWf_tdiAnswer {vf : Nat} : memoriesWf (s.tdiAnswer vf) = true := memoriesWf_emit h

theorem memoriesWf_tdiRow {vf : Nat} {go : Inst → State} (hgo : ∀ (a : Inst), memoriesWf (go a) = true) : memoriesWf (s.tdiRow vf go) = true := by
  unfold State.tdiRow
  refine memoriesWf_ite h ?_
  split
  · exact h
  · exact memoriesWf_tdiAnswer (hgo _)

theorem keeps_execTdiLock {vf stream : Nat} : Keeps (execTdiLock vf stream s) :=
  keeps_next (memoriesWf_tdiRow h (fun _ => memoriesWf_ite (memoriesWf_updInst _ _ h) h))

theorem keeps_execTdiStart {vf : Nat} : Keeps (execTdiStart vf s) :=
  keeps_next (memoriesWf_tdiRow h (fun _ => memoriesWf_ite (memoriesWf_updInst _ _ h) h))

theorem keeps_execStopInterface {vf : Nat} : Keeps (execStopInterface vf s) :=
  keeps_next (memoriesWf_tdiRow h (fun _ => memoriesWf_ite h (memoriesWf_withRings h h
      (fun _ h => memoriesWf_updInst _ _ (memoriesWf_resetWhole h)))))

theorem memoriesWf_setSpdm {doe : Bool} {x : Spdm} : memoriesWf (s.setSpdm doe x) = true := memoriesWf_ite (memoriesWf_with h) (memoriesWf_with h)

theorem keeps_execSpdmRequest {path : Nat} {request : List Byte} : Keeps (execSpdmRequest path request s) :=
  keeps_next (memoriesWf_ite h (memoriesWf_ite (memoriesWf_emit h) (memoriesWf_ite h (memoriesWf_emit (memoriesWf_setSpdm (memoriesWf_free h))))))

theorem keeps_execMctpControl {request : List Byte} : Keeps (execMctpControl request s) := by
  unfold execMctpControl
  refine keeps_next (memoriesWf_ite h (memoriesWf_emit ?_))
  split
  · exact memoriesWf_with h
  · exact h

theorem keeps_execPldmGetSensor {id : Nat} : Keeps (execPldmGetSensor id s) := by
  unfold execPldmGetSensor
  refine keeps_next (memoriesWf_ite h ?_)
  split
  · exact memoriesWf_emit (memoriesWf_ite (memoriesWf_free h) h)
  · exact h

theorem memoriesWf_newNonce : memoriesWf s.newNonce = true := memoriesWf_with (memoriesWf_free h)

theorem memoriesWf_afterCold : memoriesWf s.afterCold = true :=
  memoriesWf_iff.mpr ⟨rfl, rfl, hostMem_wf (s := s) h⟩

theorem memoriesWf_enterCold {cause : Nat} {pll : Bool} : memoriesWf (s.enterCold cause pll) = true :=
  memoriesWf_with (memoriesWf_ite (memoriesWf_countReset h) (memoriesWf_newNonce (memoriesWf_afterCold (memoriesWf_countReset h))))

theorem memoriesWf_storeGvar : memoriesWf s.storeGvar = true := memoriesWf_ite (memoriesWf_with h) h

theorem memoriesWf_capChanged {old : Nat} : memoriesWf (s.capChanged old) = true := memoriesWf_ite h (memoriesWf_with h)

theorem memoriesWf_enterWarm {cause : Nat} : memoriesWf (s.enterWarm cause) = true :=
  memoriesWf_runFences (memoriesWf_setLevel (memoriesWf_capChanged (memoriesWf_mk rfl rfl (hostMem_wf h))))

theorem keeps_execPldmSetEffecter {state : Nat} : Keeps (execPldmSetEffecter state s) :=
  keeps_next (memoriesWf_ite h (memoriesWf_ite (memoriesWf_enterCold (memoriesWf_storeGvar h))
      (memoriesWf_ite (memoriesWf_ite (memoriesWf_countReset h) (memoriesWf_enterWarm (memoriesWf_storeGvar (memoriesWf_countReset h)))) h)))

theorem keeps_execRequestUpdate {image : List Byte} : Keeps (execRequestUpdate image s) :=
  keeps_next (memoriesWf_ite h (memoriesWf_emit (memoriesWf_stageImage h)))

theorem memoriesWf_bootUpdate : memoriesWf s.bootUpdate = true :=
  memoriesWf_ite (memoriesWf_emit (memoriesWf_enterCold (memoriesWf_runSlot h))) (memoriesWf_emit (memoriesWf_unhold h))

theorem memoriesWf_sideActivate : memoriesWf s.sideActivate = true :=
  memoriesWf_ite (memoriesWf_emit h) (memoriesWf_ite (memoriesWf_bootUpdate h) (memoriesWf_ite (memoriesWf_emit h)
      (memoriesWf_emit (memoriesWf_drainEvents (memoriesWf_activateImage h)))))

theorem memoriesWf_activateHeld : memoriesWf s.activateHeld = true := memoriesWf_ite (memoriesWf_sideActivate (memoriesWf_with h)) h

theorem keeps_execActivateFirmware : Keeps (execActivateFirmware s) := keeps_next (memoriesWf_ite (memoriesWf_activateHeld (memoriesWf_with h)) h)

theorem keeps_execEntdaa {static_ : Option (BitVec 7)} {address : BitVec 7} : Keeps (execEntdaa static_ address s) :=
  keeps_next (memoriesWf_ite (memoriesWf_emit h) (memoriesWf_ite h (memoriesWf_emit (memoriesWf_with h))))

theorem keeps_execTapInstruction {op : TapInstr} : Keeps (execTapInstruction op s) :=
  keeps_next (memoriesWf_ite h (memoriesWf_ite (memoriesWf_emit (memoriesWf_with h)) (memoriesWf_with h)))

theorem keeps_execPor {source : PorSource} : Keeps (execPor source s) :=
  keeps_next (memoriesWf_ite (memoriesWf_with h) (memoriesWf_gateTap (memoriesWf_with
      (memoriesWf_newNonce (memoriesWf_afterCold (memoriesWf_countReset (memoriesWf_with h)))))))

theorem keeps_execPerstNAssert {ns : Nat} {counts : Bool} : Keeps (execPerstNAssert ns counts s) :=
  keeps_next (memoriesWf_ite h (memoriesWf_enterCold (memoriesWf_storeGvar (memoriesWf_with h))))

theorem keeps_execModRstNAssert {ns : Nat} {counts : Bool} : Keeps (execModRstNAssert ns counts s) :=
  keeps_next (memoriesWf_ite h (memoriesWf_enterCold (memoriesWf_storeGvar (memoriesWf_with h))))

theorem keeps_execColdBoot : Keeps (execColdBoot s) :=
  keeps_next (memoriesWf_ite h (memoriesWf_ite (memoriesWf_error _ _ _ _ (memoriesWf_gateTap (memoriesWf_with h)))
      (memoriesWf_gateTap (memoriesWf_with h))))

theorem memoriesWf_startExit {u : ResetUnit} : memoriesWf (s.startExit u) = true := memoriesWf_with h

theorem memoriesWf_startPorts {ps : List Nat} : memoriesWf (s.startPorts ps) = true := memoriesWf_foldl (fun _ _ h => memoriesWf_newInc h) h

theorem memoriesWf_applyFences : memoriesWf s.applyFences = true :=
  memoriesWf_ite (memoriesWf_foldl (fun _ _ h => memoriesWf_updCore h) (memoriesWf_with h))
      (memoriesWf_error _ _ _ _ (memoriesWf_foldl (fun _ _ h => memoriesWf_updCore h) (memoriesWf_with h)))

theorem memoriesWf_startFirmware {fallback : Bool} : memoriesWf (s.startFirmware fallback) = true :=
  memoriesWf_startExit (memoriesWf_startPorts (memoriesWf_with (memoriesWf_applyFences
      (memoriesWf_ite (memoriesWf_error _ _ _ _ (memoriesWf_measure (memoriesWf_with h))) (memoriesWf_measure (memoriesWf_with h))))))

theorem keeps_execImageVerified : Keeps (execImageVerified s) :=
  keeps_next (memoriesWf_ite h (memoriesWf_ite (memoriesWf_startFirmware h) (memoriesWf_ite (memoriesWf_startFirmware (memoriesWf_with h))
      (memoriesWf_with h))))

theorem keeps_execModuleWarm {source : WarmSource} : Keeps (execModuleWarm source s) :=
  keeps_next (memoriesWf_ite h (memoriesWf_ite (memoriesWf_countReset h) (memoriesWf_enterWarm (memoriesWf_storeGvar (memoriesWf_countReset h)))))

theorem keeps_execModuleWarmRelease : Keeps (execModuleWarmRelease s) :=
  keeps_next (memoriesWf_ite h (memoriesWf_startExit (memoriesWf_startPorts (memoriesWf_with h))))

theorem memoriesWf_holdPorts {ps : List Nat} : memoriesWf (s.holdPorts ps) = true :=
  memoriesWf_failUnreachable (memoriesWf_foldl (fun _ _ h => memoriesWf_forwardAgain h)
      (memoriesWf_foldl (fun _ _ h => memoriesWf_ite (memoriesWf_failTxn h) h) (memoriesWf_foldl
      (fun _ _ h => memoriesWf_dropReceived (memoriesWf_updPort h)) h)))

theorem memoriesWf_dieEnter {d : Nat} : memoriesWf (s.dieEnter d) = true :=
  memoriesWf_with (memoriesWf_abandonExits (memoriesWf_holdPorts (memoriesWf_closeRegions (memoriesWf_losePart h))))

theorem keeps_execDieResetAssert {p : Party} {d : Nat} : Keeps (execDieResetAssert p d s) :=
  keeps_next (memoriesWf_ite h (memoriesWf_with (memoriesWf_ite (memoriesWf_countReset h) (memoriesWf_dieEnter (memoriesWf_countReset h)))))

theorem memoriesWf_wipeHalf {r : Nat} : memoriesWf (s.wipeHalf r) = true := memoriesWf_mk (spWipe_wf _ (mem_wf h)) (back_wf h) (hostMem_wf h)

theorem memoriesWf_wipeCores {rs : List Nat} : memoriesWf (s.wipeCores rs) = true := memoriesWf_foldl (fun _ _ h => memoriesWf_updCore h) h

theorem memoriesWf_openRegions {rs : List Nat} : memoriesWf (s.openRegions rs) = true :=
  memoriesWf_foldl (fun _ _ h => memoriesWf_wipeHalf h) (memoriesWf_wipeCores h)

theorem memoriesWf_dieExit {d : Nat} : memoriesWf (s.dieExit d) = true :=
  memoriesWf_startExit (memoriesWf_startPorts (memoriesWf_openRegions (memoriesWf_with h)))

theorem keeps_execDieResetRelease {p : Party} {d : Nat} : Keeps (execDieResetRelease p d s) :=
  keeps_next (memoriesWf_ite h (memoriesWf_ite (memoriesWf_with h) (memoriesWf_dieExit (memoriesWf_with h))))

theorem keeps_execRegionResetAssert {p : Party} {r : Nat} : Keeps (execRegionResetAssert p r s) :=
  keeps_next (memoriesWf_ite h (memoriesWf_with (memoriesWf_ite (memoriesWf_countReset h)
      (memoriesWf_abandonExits (memoriesWf_closeRegions (memoriesWf_countReset h))))))

theorem keeps_execRegionResetRelease {p : Party} {r : Nat} : Keeps (execRegionResetRelease p r s) :=
  keeps_next (memoriesWf_ite h (memoriesWf_ite (memoriesWf_with h) (memoriesWf_startExit (memoriesWf_openRegions (memoriesWf_with h)))))

theorem keeps_execResetExitComplete {u : ResetUnit} : Keeps (execResetExitComplete u s) :=
  keeps_next (memoriesWf_ite h (memoriesWf_with (memoriesWf_abandonExits h)))

theorem keeps_execCommandProcessorWatchdog {d : Nat} {memory : Bool} : Keeps (execCommandProcessorWatchdog d s memory) :=
  keeps_next (memoriesWf_ite h (memoriesWf_with (memoriesWf_dieEnter (memoriesWf_countReset (memoriesWf_ite (memoriesWf_error _ _ _ _ h) h)))))

theorem keeps_execPllLockLoss : Keeps (execPllLockLoss s) := keeps_next (memoriesWf_ite h (memoriesWf_enterCold (memoriesWf_with h)))

theorem keeps_execPllRestartRetry {locked : Bool} : Keeps (execPllRestartRetry locked s) :=
  keeps_next (memoriesWf_ite h (memoriesWf_ite (memoriesWf_with h) (memoriesWf_with h)))

theorem keeps_execAdminQueueEnable {p : Party} {cfg : Word} : Keeps (execAdminQueueEnable p cfg s) :=
  keeps_next (memoriesWf_ite h (memoriesWf_drainEvents (memoriesWf_with h)))

theorem keeps_execPortDisable {p : Party} {port : Nat} : Keeps (execPortDisable p port s) :=
  keeps_next (memoriesWf_ite h (memoriesWf_ite (memoriesWf_updPort h) (memoriesWf_linkLost (memoriesWf_updPort h))))

theorem memoriesWf_govern {n : Nat} : memoriesWf (s.govern n) = true := memoriesWf_ite (memoriesWf_setLevel h) (memoriesWf_with h)

theorem memoriesWf_endP7 : memoriesWf s.endP7 = true := memoriesWf_with h

theorem memoriesWf_applyCap : memoriesWf s.applyCap = true := by
  unfold State.applyCap
  split
  · exact h
  · exact memoriesWf_doneCmd _ _ _ (memoriesWf_capChanged (memoriesWf_with h))

theorem memoriesWf_meter {p pFixed uj : Nat} {dieMj : List Nat} : memoriesWf (s.meter p pFixed uj dieMj) = true := memoriesWf_with h

theorem keeps_execControlPeriod {pIn pFixed div skip uj : Nat} {dieMj : List Nat} : Keeps (execControlPeriod pIn pFixed div skip uj dieMj s) :=
  keeps_next (memoriesWf_ite h (memoriesWf_activateHeld (memoriesWf_noteCapped (memoriesWf_with
      (memoriesWf_govern (memoriesWf_endP7 (memoriesWf_applyCap (memoriesWf_meter h))))))))

theorem memoriesWf_forceP7 : memoriesWf s.forceP7 = true := memoriesWf_with h

theorem keeps_execPwrAlertN {source : AlertSource} {ns : Nat} : Keeps (execPwrAlertN source ns s) :=
  keeps_next (memoriesWf_ite h (memoriesWf_event _ _ (memoriesWf_noteCapped (memoriesWf_forceP7 (memoriesWf_with h)))))

theorem keeps_execPowerAlertHoldEnd : Keeps (execPowerAlertHoldEnd s) := by
  unfold execPowerAlertHoldEnd
  refine keeps_next (memoriesWf_clockRow h ?_)
  split
  · exact memoriesWf_ite (memoriesWf_with h) h
  · exact h

theorem memoriesWf_thermAct {readings : List (Nat × Nat)} {t : Nat} : memoriesWf (s.thermAct readings t) = true :=
  memoriesWf_ite (memoriesWf_ite (memoriesWf_noteCapped (memoriesWf_forceP7 (memoriesWf_capChanged (memoriesWf_with h))))
      (memoriesWf_capChanged (memoriesWf_with h))) (memoriesWf_event _ _ (memoriesWf_ite
      (memoriesWf_noteCapped (memoriesWf_forceP7 (memoriesWf_capChanged (memoriesWf_with h)))) (memoriesWf_capChanged (memoriesWf_with h))))

theorem keeps_execThermalSample {readings : List (Nat × Nat)} : Keeps (execThermalSample readings s) :=
  keeps_next (memoriesWf_ite h (memoriesWf_ite (memoriesWf_thermTrip (memoriesWf_ite (memoriesWf_thermAct h) h))
      (memoriesWf_ite (memoriesWf_thermAct h) h)))

theorem keeps_execThermalLimitRaise : Keeps (execThermalLimitRaise s) := by
  unfold execThermalLimitRaise
  refine keeps_next ?_
  split
  · exact memoriesWf_ite h (memoriesWf_capChanged (memoriesWf_with h))
  · exact h

theorem keeps_execMarginMeasure {die weakest : Nat} {spareMv : Int} : Keeps (execMarginMeasure die spareMv weakest s) :=
  keeps_next (memoriesWf_ite h (memoriesWf_ite h (memoriesWf_ite (memoriesWf_with h)
      (memoriesWf_ite (memoriesWf_fenceCore (memoriesWf_ite (memoriesWf_error _ _ _ _ (memoriesWf_with (memoriesWf_with h)))
      (memoriesWf_with (memoriesWf_with h)))) (memoriesWf_ite (memoriesWf_error _ _ _ _ (memoriesWf_with (memoriesWf_with h)))
      (memoriesWf_with (memoriesWf_with h)))))))

theorem keeps_execCommandProcessorWatchdogRelease {d : Nat} : Keeps (execCommandProcessorWatchdogRelease d s) :=
  keeps_next (memoriesWf_ite h (memoriesWf_ite (memoriesWf_with h) (memoriesWf_dieExit (memoriesWf_with h))))

theorem keeps_execPowerAlertEnd {source : AlertSource} : Keeps (execPowerAlertEnd source s) :=
  keeps_next (memoriesWf_clockRow h (memoriesWf_ite h (memoriesWf_with h)))

theorem keeps_execPcieLinkUp {width rate : Nat} : Keeps (execPcieLinkUp width rate s) :=
  keeps_next (memoriesWf_ite h (memoriesWf_ite (memoriesWf_with h) (memoriesWf_error _ _ _ _ (memoriesWf_with h))))

theorem memoriesWf_hostAtomDone {a aop size old op cmp : Nat} : memoriesWf (s.hostAtomDone a aop size old op cmp) = true :=
  memoriesWf_mk (mem_wf h) (back_wf h) (writeBytes_wf _ _ (hostMem_wf h))

theorem memoriesWf_hostReqDone {x : Req} {reply : HostReply} {data : List Byte} : memoriesWf (s.hostReqDone x reply data) = true := by
  unfold State.hostReqDone
  refine memoriesWf_ite (memoriesWf_failReq h) (memoriesWf_reqData ?_)
  split
  · exact memoriesWf_hostAtomDone h
  · exact h

theorem memoriesWf_hostTxnDone {t : Txn} {reply : HostReply} {data : List Byte} : memoriesWf (s.hostTxnDone t reply data) = true := by
  unfold State.hostTxnDone
  refine memoriesWf_ite (memoriesWf_failTxn h) ?_
  dsimp only
  split
  · split
    · exact memoriesWf_endTxn h
    · exact memoriesWf_cmdResponse (memoriesWf_ite (memoriesWf_hostAtomDone (memoriesWf_endTxn h)) (memoriesWf_endTxn h))
  · exact memoriesWf_dmaResponse (memoriesWf_endTxn h)
  · exact memoriesWf_ringData (memoriesWf_endTxn h)
  · exact memoriesWf_endTxn h

theorem keeps_execPcieCompletion {rid : Nat} {reply : HostReply} {data : List Byte} {message : Bool} : Keeps
    (execPcieCompletion rid reply data s message) := by
  unfold execPcieCompletion
  refine keeps_next (memoriesWf_ite h (memoriesWf_ite (memoriesWf_ite h (memoriesWf_error _ _ _ _ h)) ?_))
  split
  · exact memoriesWf_hostReqDone h
  · split
    · exact memoriesWf_hostTxnDone h
    · exact h

end

/-- Every command keeps the three memories canonical. -/
theorem keeps_exec {s : State} (h : memoriesWf s = true) (i : Instr) : Keeps (exec i s) := by
  cases i with
  | instructionFetch => exact keeps_execInstructionFetch h
  | mov | add | sub | min | max | and | or | xor | shl | shr | pick | cnt1 | lzc | bmux | andn | bfx | bfi | fadd | fmul | fma | fmin | fmax | mullo |
      mulhi | madlo => exact keeps_next (memoriesWf_alu h)
  | rdsr => exact keeps_next (memoriesWf_issue h (fun _ _ _ h => memoriesWf_updHerd h))
  | conv | cmpv | first | lmask | nop => exact keeps_next (memoriesWf_issueHerd h)
  | recip | rsqrt | sqrt | exp2 | log2 | sin | cos | tanh => exact keeps_next (memoriesWf_trans h)
  | cmpi | cmpf => exact keeps_next (memoriesWf_cmpPred h)
  | anyp | allp => exact keeps_next (memoriesWf_vote h)
  | lget | lrot | lswz => exact keeps_next (memoriesWf_laneMove h)
  | hsum | hmin | hmax => exact keeps_next (memoriesWf_reduce h)
  | ld => exact keeps_execLd h
  | st => exact keeps_execSt h
  | atom => exact keeps_execAtom h
  | stAdd => exact keeps_execStAdd h
  | bra => exact keeps_execBra h
  | call => exact keeps_execCall h
  | ret => exact keeps_execRet h
  | exit => exact keeps_next (memoriesWf_issue h (fun _ _ _ h => memoriesWf_putHerd h))
  | trap => exact keeps_execTrap h
  | fence => exact keeps_execFence h
  | bar => exact keeps_execBar h
  | hsync => exact keeps_execHsync h
  | mxIssue | sbIssue => exact keeps_next (memoriesWf_issue h (fun _ _ _ h => memoriesWf_enqueue h))
  | mxWait => exact keeps_execMxWait h
  | contextKill => exact keeps_next (memoriesWf_clockRow h (memoriesWf_killCtx h))
  | contextKillComplete => exact keeps_next (memoriesWf_clockRow h (memoriesWf_killComplete h))
  | contextWatchdog => exact keeps_execContextWatchdog h
  | commandBegin => exact keeps_execCommandBegin h
  | commandCompletion => exact keeps_execCommandCompletion h
  | commandWatchdog => exact keeps_execCommandWatchdog h
  | sqTail | cqHead | resume => exact keeps_next (memoriesWf_bell h)
  | nolzinNop => exact keeps_execNolzinNop h
  | nolzinFence => exact keeps_execNolzinFence h
  | signal => exact keeps_execSignal h
  | wait => exact keeps_execWait h
  | waitPoll => exact keeps_execWaitPoll h
  | waitTimeout => exact keeps_execWaitTimeout h
  | launch => exact keeps_execLaunch h
  | launchSlotTake => exact keeps_execLaunchSlotTake h
  | residencyStall => exact keeps_execResidencyStall h
  | herdStart => exact keeps_execHerdStart h
  | kernelComplete => exact keeps_execKernelComplete h
  | elandOpStart | springbokOpStart => exact keeps_next (memoriesWf_clockRow h (memoriesWf_opStart h))
  | elandOpComplete | springbokOpComplete => exact keeps_next (memoriesWf_clockRow h (memoriesWf_opComplete h))
  | dmaCopy => exact keeps_execDmaCopy h
  | dmaFill => exact keeps_execDmaFill h
  | dmaCopyStrided => exact keeps_execDmaCopyStrided h
  | hamperPin => exact keeps_execHamperPin h
  | hamperUnpin => exact keeps_execHamperUnpin h
  | prefetch => exact keeps_execPrefetch h
  | discard => exact keeps_execDiscard h
  | specBegin => exact keeps_execSpecBegin h
  | specCommit => exact keeps_execSpecCommit h
  | specAbort => exact keeps_execSpecAbort h
  | collAllreduce | collReduceScatter | collAllgather | collBroadcast | collBarrier => exact keeps_next (memoriesWf_collRow h)
  | collectiveTimeout => exact keeps_execCollectiveTimeout h
  | heldFullResend => exact keeps_execHeldFullResend h
  | instanceCreate => exact keeps_execInstanceCreate h
  | instanceDestroy => exact keeps_execInstanceDestroy h
  | instanceQuiesce => exact keeps_execInstanceQuiesce h
  | quiesceTimeout => exact keeps_execQuiesceTimeout h
  | instanceReset => exact keeps_execInstanceReset h
  | instanceResetDrainEnd => exact keeps_execInstanceResetDrainEnd h
  | instanceResetContext => exact keeps_execInstanceResetContext h
  | instanceQuery => exact keeps_execInstanceQuery h
  | configStage => exact keeps_execConfigStage h
  | configApply => exact keeps_execConfigApply h
  | configEpochBoundary => exact keeps_execConfigEpochBoundary h
  | configStatus => exact keeps_execConfigStatus h
  | coreFence => exact keeps_execCoreFence h
  | coreDiagnose => exact keeps_execCoreDiagnose h
  | powerSetCap => exact keeps_execPowerSetCap h
  | powerQuery => exact keeps_execPowerQuery h
  | lifecycleAdvance => exact keeps_execLifecycleAdvance h
  | resetCountersRead => exact keeps_execResetCountersRead h
  | resetCountersClear => exact keeps_execResetCountersClear h
  | ramblerRun => exact keeps_execRamblerRun h
  | ramblerRunEnd => exact keeps_execRamblerRunEnd h
  | fwStage => exact keeps_execFwStage h
  | fwActivate => exact keeps_execFwActivate h
  | fabricRouteSet => exact keeps_execFabricRouteSet h
  | fabricGroupSet => exact keeps_execFabricGroupSet h
  | bankAccess | addRequest | deadDeclaration => exact keeps_next (memoriesWf_resume (memoriesWf_bankRow h))
  | hbmReadComplete => exact keeps_execHbmReadComplete h
  | fillArrival => exact keeps_execFillArrival h
  | landingCreditReturn => exact keeps_execLandingCreditReturn h
  | hbmRequestAging => exact keeps_next (memoriesWf_clockRow h (memoriesWf_with h))
  | perBankRefresh => exact keeps_next (memoriesWf_ite (memoriesWf_updStack _ _ h) h)
  | patrolScrub => exact keeps_execPatrolScrub h
  | hbmTempRead => exact keeps_execHbmTempRead h
  | thermalHoldExpiry => exact keeps_execThermalHoldExpiry h
  | hbmReady => exact keeps_execHbmReady h
  | flitReceive => exact keeps_execFlitReceive h
  | fastRetrain => exact keeps_execFastRetrain h
  | fastRetrainComplete => exact keeps_execFastRetrainComplete h
  | heartbeat => exact keeps_execHeartbeat h
  | heartbeatSend => exact keeps_execHeartbeatSend h
  | heartbeatLoss => exact keeps_execHeartbeatLoss h
  | portSignalDetect => exact keeps_execPortSignalDetect h
  | portTrainingComplete => exact keeps_execPortTrainingComplete h
  | portTrainingRestart => exact keeps_execPortTrainingRestart h
  | rd => exact keeps_execRd h
  | wr => exact keeps_execWr h
  | fabricAtom => exact keeps_execFabricAtom h
  | fabricAdd => exact keeps_execFabricAdd h
  | dead => exact keeps_execDead h
  | collData => exact keeps_execCollData h
  | collArrive => exact keeps_execCollArrive h
  | rdRsp => exact keeps_execRdRsp h
  | ack => exact keeps_execAck h
  | nack => exact keeps_execNack h
  | pending => exact keeps_execPending h
  | pendingTimer => exact keeps_execPendingTimer h
  | txnTimeout => exact keeps_execTxnTimeout h
  | progressHold => exact keeps_execProgressHold h
  | progressHoldBeacon => exact keeps_execProgressHoldBeacon h
  | peerAbort => exact keeps_execPeerAbort h
  | routerStopFailure => exact keeps_execRouterStopFailure h
  | linkOutOfService => exact keeps_execLinkOutOfService h
  | internalFlitLoss => exact keeps_execInternalFlitLoss h
  | bar2Read => exact keeps_execBar2Read h
  | bar2Write => exact keeps_execBar2Write h
  | bar2Atomicop => exact keeps_execBar2Atomicop h
  | registerWrite => exact keeps_execRegisterWrite h
  | configRequest => exact keeps_execConfigRequest h
  | vfEnable => exact keeps_execVfEnable h
  | busMasterEnable => exact keeps_execBusMasterEnable h
  | msixUnmask => exact keeps_execMsixUnmask h
  | hotReset => exact keeps_execHotReset h
  | pfFlr => exact keeps_execPfFlr h
  | vfFlr => exact keeps_execVfFlr h
  | atsTranslationCompletion => exact keeps_execAtsTranslationCompletion h
  | invalidateRequest | pldmEventFetch => exact keeps_next (memoriesWf_ite h (memoriesWf_emit (memoriesWf_with h)))
  | ideKm => exact keeps_execIdeKm h
  | ideIntegrityFailure => exact keeps_execIdeIntegrityFailure h
  | tdiLock => exact keeps_execTdiLock h
  | tdiStart => exact keeps_execTdiStart h
  | stopInterface => exact keeps_execStopInterface h
  | spdmRequest => exact keeps_execSpdmRequest h
  | mctpControl => exact keeps_execMctpControl h
  | pldmGetSensor => exact keeps_execPldmGetSensor h
  | pldmSetEffecter => exact keeps_execPldmSetEffecter h
  | requestUpdate => exact keeps_execRequestUpdate h
  | activateFirmware => exact keeps_execActivateFirmware h
  | entdaa => exact keeps_execEntdaa h
  | tapInstruction => exact keeps_execTapInstruction h
  | tapReset | powerUp | energyAttribution => exact keeps_next (memoriesWf_ite h (memoriesWf_with h))
  | porRelease | firmwareReady | pkgIdSet | gvarTrim => exact keeps_next (memoriesWf_ite (memoriesWf_with h) h)
  | por => exact keeps_execPor h
  | perstNAssert => exact keeps_execPerstNAssert h
  | modRstNAssert => exact keeps_execModRstNAssert h
  | coldBoot => exact keeps_execColdBoot h
  | imageVerified => exact keeps_execImageVerified h
  | moduleWarm => exact keeps_execModuleWarm h
  | moduleWarmRelease => exact keeps_execModuleWarmRelease h
  | dieResetAssert => exact keeps_execDieResetAssert h
  | dieResetRelease => exact keeps_execDieResetRelease h
  | regionResetAssert => exact keeps_execRegionResetAssert h
  | regionResetRelease => exact keeps_execRegionResetRelease h
  | resetExitComplete => exact keeps_execResetExitComplete h
  | commandProcessorWatchdog => exact keeps_execCommandProcessorWatchdog h
  | packageControllerWatchdog => exact keeps_next (memoriesWf_ite (memoriesWf_enterCold h) h)
  | pllLockLoss => exact keeps_execPllLockLoss h
  | pllRestartRetry => exact keeps_execPllRestartRetry h
  | adminQueueEnable => exact keeps_execAdminQueueEnable h
  | adminQueueDisable => exact keeps_next (memoriesWf_ite (memoriesWf_adminStop h) h)
  | portEnable => exact keeps_next (memoriesWf_ite (memoriesWf_updPort h) h)
  | portDisable => exact keeps_execPortDisable h
  | controlPeriod => exact keeps_execControlPeriod h
  | pwrAlertN => exact keeps_execPwrAlertN h
  | powerAlertHoldEnd => exact keeps_execPowerAlertHoldEnd h
  | thermalSample => exact keeps_execThermalSample h
  | thermalLimitRaise => exact keeps_execThermalLimitRaise h
  | marginMeasure => exact keeps_execMarginMeasure h
  | gvarStore => exact keeps_next (memoriesWf_storeGvar h)
  | commandProcessorWatchdogRelease => exact keeps_execCommandProcessorWatchdogRelease h
  | powerAlertEnd => exact keeps_execPowerAlertEnd h
  | pcieLinkUp => exact keeps_execPcieLinkUp h
  | pcieCompletion => exact keeps_execPcieCompletion h
  | coreCheckerError => exact keeps_next (memoriesWf_ite (memoriesWf_fenceCore h) h)

/-- Settles O3, row by row of the instruction table; on an empty queue only the clocks move. -/
theorem stepKeepsMemories : Obligations.StepKeepsMemories := by
  intro s s' h hs
  unfold step at hs
  split at hs
  · exact keeps_next (memoriesWf_idle h) s' hs
  · exact keeps_exec (memoriesWf_with h) _ s' hs

end Sys2Proof.Machine
end


section
/-! PROOF. How an instruction of a herd issues, and what a fetch takes. -/
namespace Sys2Proof.Machine
open Sys2Proof.Claims

/-! ## Issue (02 R34, R38, 03 R63) -/

/-- A row's outcome is an `issue` of a herd's instruction with some effect of its own. -/
def Issues (s : State) (r : HerdRef) (f : Fields) (sh : Shape) (o : Host.Outcome State Fault Refusal) : Prop :=
  ∃ go, o = .next (s.issue r f sh go)

section
variable (s : State) (r : HerdRef) (f : Fields)

theorem issues_issue (sh : Shape) (go : State → Herd → LaneMask → State) : Issues s r f sh (.next (s.issue r f sh go)) := ⟨go, rfl⟩

theorem issues_issueHerd (sh : Shape) (go : Herd → LaneMask → Herd) : Issues s r f sh (.next (s.issueHerd r f sh go)) := ⟨_, rfl⟩

theorem issues_issueMem (sh : Shape) (b : Bool) (go : State → Herd → LaneMask → State) :
    Issues s r f sh (.next (s.issueMem r f sh b go)) := ⟨_, rfl⟩

theorem issues_alu (a : AluForm) (op : Herd → Nat → Nat → Nat → Nat → Nat → Nat) : Issues s r f (a.shape f) (.next (s.alu r f a op)) :=
  issues_issueHerd ..

theorem issues_trans (b : Bool) (op : Nat → Nat) : Issues s r f (transShape f b) (.next (s.trans r f b op)) := issues_issueHerd ..

theorem issues_cmpPred (ts : List Nat) : Issues s r f (cmpPredShape ts f) (.next (s.cmpPred r f ts)) := issues_issueHerd ..

theorem issues_vote (p : LaneMask → LaneMask → Bool) : Issues s r f (votePredShape true f) (.next (s.vote r f p)) := issues_issueHerd ..

theorem issues_laneMove (src : Nat → Nat → Nat) : Issues s r f (moveShape f) (.next (s.laneMove r f src)) := issues_issueHerd ..

theorem issues_reduce (op : Nat → Nat → Nat → Nat) : Issues s r f (reduceShape f) (.next (s.reduce r f op)) := issues_issueHerd ..

end

/-- Every instruction of a herd issues with its shape, class by class. -/
theorem exec_issues {i : Instr} {r : HerdRef} {f : Fields} {sh : Shape} (h : shapeOf i = some (r, f, sh)) (s : State) :
    Issues s r f sh (exec i s) := by
  cases i <;> cases h
  case mov | add | sub | min | max | and | or | xor | shl | shr | pick | cnt1 | lzc | bmux | andn | bfx | bfi | fadd | fmul | fma | fmin | fmax
      | mullo | mulhi | madlo => exact issues_alu ..
  case recip | rsqrt | sqrt | exp2 | log2 | sin | cos | tanh => exact issues_trans ..
  case cmpi | cmpf => exact issues_cmpPred ..
  case anyp | allp => exact issues_vote ..
  case lget | lrot | lswz => exact issues_laneMove ..
  case hsum | hmin | hmax => exact issues_reduce ..
  case conv | cmpv | first | lmask | nop => exact issues_issueHerd ..
  case ld | st | atom | stAdd => exact issues_issueMem ..
  case rdsr | call | ret | exit | trap | fence | bar | hsync | mxIssue | sbIssue | mxWait => exact issues_issue ..

/-- A register of the instruction that is still being written holds it. -/
theorem State.issue_hazard {s : State} {r : HerdRef} {f : Fields} {sh : Shape} {h : Herd} (hi : s.issuing? r = some h)
    (h0 : h.acting f ≠ 0) (h1 : sh.legal h.nreg = true) (h2 : s.hazard r sh = true) (go : State → Herd → LaneMask → State) :
    s.issue r f sh go = s := by
  simp only [State.issue, hi, if_neg h0, h1, h2]; simp

/-- A herd that cannot issue performs nothing. -/
theorem State.issue_blocked {s : State} {r : HerdRef} (hi : s.issuing? r = none) (f : Fields) (sh : Shape)
    (go : State → Herd → LaneMask → State) : s.issue r f sh go = s := by
  simp only [State.issue, hi]

/-- A herd that cannot issue performs no branch. -/
theorem execBra_blocked {s : State} {r : HerdRef} {f : Fields} (hi : s.issuing? r = none) : exec (.bra r f) s = .next s := by
  simp only [exec, execBra, hi]

/-! ## Fetch (03 R61) -/

/-- Reading anew changes only the number of free values. -/
theorem State.newChoice_eq (s : State) : ∃ n, s.newChoice = { s with freeSeq := n } := by
  unfold State.newChoice
  split_ifs
  · exact ⟨s.freeSeq, rfl⟩
  · exact ⟨s.freeSeq + 1, rfl⟩

section
variable (s : State)

@[simp] theorem State.newChoice_isLocal (pa : Nat) : s.newChoice.isLocal pa = s.isLocal pa := by
  obtain ⟨n, hn⟩ := s.newChoice_eq; rw [hn]; rfl

@[simp] theorem State.newChoice_secMissing (sec : Nat) : s.newChoice.secMissing sec = s.secMissing sec := by
  obtain ⟨n, hn⟩ := s.newChoice_eq; rw [hn]; rfl

@[simp] theorem State.newChoice_secPoisoned (sec : Nat) : s.newChoice.secPoisoned sec = s.secPoisoned sec := by
  obtain ⟨n, hn⟩ := s.newChoice_eq; rw [hn]; rfl

@[simp] theorem State.newChoice_homeByte (a : Nat) : s.newChoice.homeByte a = s.homeByte a := by
  obtain ⟨n, hn⟩ := s.newChoice_eq; rw [hn]; rfl

@[simp] theorem State.newChoice_homeBytes (a n : Nat) : s.newChoice.homeBytes a n = s.homeBytes a n := by
  induction n generalizing a with
  | zero => rfl
  | succ n ih => simp only [State.homeBytes, State.newChoice_homeByte, ih]

end

/-- A herd without a word takes the one that a fetch from its half of this module returns, where it names an instruction. -/
theorem execInstructionFetch_local {s : State} {r : HerdRef} {h : Herd} {pa : Nat} {w stale : Bool} {i : Instr}
    (hi : s.issuing? r = some h) (hf : h.fetched = none) (hq : (s.herdReqs r).all (fun q => q.kind != .fetch) = true)
    (hx : s.herdXlat r h .fetch h.pc.toNat = .device pa w) (hl : s.isLocal pa = true) (hm : s.secMissing (paLocal pa / 32) = false)
    (hp : s.secPoisoned (paLocal pa / 32) = false) (hd : decodeWord r (s.newChoice.fetchWord r h stale (paLocal pa)) = some i) :
    exec (.instructionFetch r stale) s =
      .next ((s.newChoice.newChoice.updHerd r (fun x => { x with fetched := some (s.newChoice.fetchWord r h stale (paLocal pa)) })).countEvent
        (some h.inst) 4 r.core 1) := by
  have hn : (s.herdReqs r).any (fun q => q.kind = .fetch) = false := by
    simpa [List.all_eq_true, List.any_eq_false] using hq
  simp only [exec, execInstructionFetch, hi, hf, hn, hx, State.newChoice_isLocal, State.newChoice_secMissing, State.newChoice_secPoisoned, hl,
    hm, hp, State.takeWord, hd]
  rfl

/-- A fetch that is not stale returns the word that stands at its place. -/
theorem State.fetchWord_now (s : State) (r : HerdRef) (h : Herd) (a : Nat) :
    s.newChoice.fetchWord r h false a = BitVec.ofNat 64 (leNat (s.homeBytes a 8)) := by
  simp [State.fetchWord]

/-- Settles O7: every instruction is an `issue`, whose branches are read off, and a fetch is followed to the word it takes. -/
theorem issueRules : Obligations.IssueRules := by
  refine ⟨?issue, ?blocked, ?fetch⟩
  case issue =>
    intro i s r f sh h hs hi
    obtain ⟨go, he⟩ := exec_issues hs s
    rw [he]
    exact ⟨fun h0 => by rw [State.issue_silent hi h0], fun h0 h1 => by rw [State.issue_illegal hi h0 h1],
      fun h0 h1 h2 => by rw [State.issue_hazard hi h0 h1 h2]⟩
  case blocked =>
    rintro i s r f sh (hs | rfl) hi
    · obtain ⟨go, he⟩ := exec_issues hs s
      rw [he, State.issue_blocked hi]
    · exact execBra_blocked hi
  case fetch =>
    intro s r h pa w stale i hi hf hq hx hl hm hp hd
    exact ⟨execInstructionFetch_local hi hf hq hx hl hm hp hd, fun hs => hs ▸ State.fetchWord_now s r h (paLocal pa)⟩

end Sys2Proof.Machine
end


section
/-! PROOF. `BRA` on which the lanes disagree: one herd at its position, and two. -/
namespace Sys2Proof.Machine
open Sys2Proof.Claims

section
variable {s : State} {r : HerdRef} {f : Fields} {h : Herd} {a b : Word64}

/-- The translation of an address in an executable page neither waits nor faults. -/
theorem executable_xlat (ha : executable s r h a) :
    (s.herdXlat r h .fetch a.toNat).waits = false ∧ (s.herdXlat r h .fetch a.toNat).cause = none := by
  rcases ha with ⟨pa, w, hx⟩ | ⟨p, hx⟩ <;> rw [hx] <;> exact ⟨rfl, rfl⟩

/-- Two targets in executable pages let a branch go on (03 R84). -/
theorem withTargets_executable (ha : executable s r h a) (hb : executable s r h b) (lane : Nat) (go : State → State) :
    s.withTargets r h lane [a, b] go = go s.newChoice := by
  obtain ⟨hwa, hca⟩ := executable_xlat ha
  obtain ⟨hwb, hcb⟩ := executable_xlat hb
  simp [State.withTargets, hwa, hca, hwb, hcb]

/-- What a branch on which the lanes disagree makes of a herd at its position: the fall-through lanes run, and the entry that is pushed takes
its reconvergence point from that herd's own program counter, its target and taken lanes from `h` (02 R36). -/
def diverged (f : Fields) (h x : Herd) : Herd :=
  { x with stack := .diverge (jump x.pc (fReconv f)) x.active (h.acting f) (jump h.pc (fTarget f)) false :: x.stack }.goto (x.pc + 8)
    (x.active &&& ~~~(h.acting f))

/-- A branch on which the lanes disagree diverges every herd at its position. -/
theorem execBra_diverge (hi : s.issuing? r = some h) (ha : h.active ≠ 0) (hf : f.form = false) (hl : lowBits f 1 0 = 0)
    (h0 : h.acting f ≠ 0) (h1 : h.acting f ≠ h.active) (hs : h.stack.length < 64)
    (ht : executable s r h (jump h.pc (fTarget f))) (hr : executable s r h (jump h.pc (fReconv f))) :
    exec (.bra r f) s = .next (s.newChoice.updHerd r (diverged f h)) := by
  have hm : ¬ stackMax ≤ h.stack.length := Nat.not_le.mpr hs
  have hlow : (lowBits f 1 0 != 0) = false := by rw [hl]; rfl
  simp only [exec, execBra, hi, if_neg ha, hf, hlow, if_neg h0, if_neg h1, if_neg hm, withTargets_executable ht hr]
  rfl

end

/-! ## One herd at a position -/

/-- An entry of a list is changed alike by functions that agree on it. -/
theorem updAt_congr {α : Type} {l : List α} {i : Nat} {f g : α → α} (h : ∀ x, l[i]? = some x → f x = g x) : updAt l i f = updAt l i g := by
  refine List.ext_getElem? fun j => ?_
  rw [updAt_getElem?, updAt_getElem?]
  split_ifs with hj
  · subst hj
    cases hx : l[j]? with
    | none => rfl
    | some x => simp [h x hx]
  · rfl

/-- Herds at a position are changed alike by functions that agree on them. -/
theorem State.updHerd_congr {s : State} {r : HerdRef} {f g : Herd → Herd}
    (h : ∀ x ∈ (s.core r.core).herds, x.pos = r.pos → f x = g x) : s.updHerd r f = s.updHerd r g := by
  unfold State.updHerd State.updCore
  congr 1
  refine updAt_congr fun c hc => ?_
  have hcore : s.core r.core = c := by simp [State.core, List.getD_eq_getElem?_getD, hc]
  congr 1
  refine List.map_congr_left fun x hx => ?_
  split_ifs with hpos
  · exact h x (hcore ▸ hx) (of_decide_eq_true hpos)
  · rfl

/-- Where one herd alone stands at its position, a divergence is as O12's clause on it has it: `RECONV` counts from that herd's program
counter. -/
theorem execBra_diverge_alone {s : State} {r : HerdRef} {f : Fields} {h : Herd} (hi : s.issuing? r = some h) (ha : h.active ≠ 0)
    (hf : f.form = false) (hl : lowBits f 1 0 = 0) (h0 : h.acting f ≠ 0) (h1 : h.acting f ≠ h.active) (hs : h.stack.length < 64)
    (ht : executable s r h (jump h.pc (fTarget f))) (hr : executable s r h (jump h.pc (fReconv f)))
    (halone : ∀ x ∈ (s.core r.core).herds, x.pos = r.pos → x = h) :
    exec (.bra r f) s = .next (s.newChoice.updHerd r (fun x =>
      { x with stack := .diverge (jump h.pc (fReconv f)) x.active (h.acting f) (jump h.pc (fTarget f)) false :: x.stack }.goto (x.pc + 8)
        (x.active &&& ~~~(h.acting f)))) := by
  rw [execBra_diverge hi ha hf hl h0 h1 hs ht hr]
  refine congrArg _ (State.updHerd_congr fun x hx hpos => ?_)
  obtain ⟨n, hn⟩ := s.newChoice_eq
  rw [hn] at hx
  rw [halone x hx hpos]
  rfl

/-! ## Two herds at one position -/

/-- One table at 0x1000 that is its own next level; its entry 1 maps the second GiB to executable memory of module 1. -/
def sharedTables : Memory := [(0x1000, 0x01), (0x1001, 0x10), (0x1008, 0x0F), (0x100D, 0x04)]

/-- A herd at position 0, every lane active, whose lane 0 alone has p0. -/
def sharedHerd (pc : Word64) : Herd :=
  { pos := 0, slot := 0, inst := 0, ctx := 0, cid := 0, index := 0, nreg := 8, pc := pc, fetched := none, regs := [], uregs := [], preds := [1]
    active := BitVec.allOnes 32, exited := 0, stack := [], atBarrier := none, acquire := none, releases := [] }

/-- A module with one context that runs, and two herds at position 0 of core 0, an instruction apart. -/
def sharedPosition : State :=
  { State.reset with
    mem := sharedTables
    llc := [{ line := 0x10, mru := true, way := 0, valid := 0xFF, dirty := 0, dead := 0, deadChk := 0, poison := 0, under := 0, streamIn := false
              pinned := false }]
    cores := [{ Core.reset with herds := [sharedHerd 0x40000000, sharedHerd 0x40000008] }]
    insts := [{ id := 0, ptRoot := 0x1000, bwg := 0, tsWeight := 1, exclCh := false, rampUs := 0, privWays := [], hamper := []
                extents := [(0, 0x100000)], queues := [], st := .running, energyMj := 0, energyNj := 0, stalls := 0, kills := 0, tdi := .unlocked
                tdiStream := 0
                ctxs := [{ num := 0, deadchk := false, wdEn := false, wdPeriod := 0, entryDeadchk := false, entryWdEn := false, entryWdPeriod := 0
                           st := 0, stopped := false, cause := 0, fCore := 0, fHerd := 0, fLane := 0, fLaneValid := false, faultPc := 0
                           faultAddr := 0, faultCount := 0, deadReread := 0, epochs := [], nextEpoch := 1 }] }]
    rs := { Rs.reset with ready := 0xFFFF } }

/-- The position that the two herds share. -/
def sharedRef : HerdRef := { core := 0, pos := 0 }

/-- `BRA` under p0 with `TARGET` and `RECONV` 0. -/
def sharedBra : Fields := { form := false, pred := 0, pneg := false, dst := 0, sa := 0, sb := 0, low := 0 }

theorem sharedPosition_issuing : sharedPosition.issuing? sharedRef = some (sharedHerd 0x40000000) := by decide +kernel

theorem sharedPosition_executable : executable sharedPosition sharedRef (sharedHerd 0x40000000) 0x40000000 :=
  .inl ⟨0x40000000000, true, by decide +kernel⟩

/-- Refutes O12: in a state with two herds at one position the entry that the second one pushes reconverges at `RECONV` of its own program
counter, and not of the first one's, which the clause on a divergence writes into both; no hypothesis bounds the herds at a position to one
(`execBra_diverge_alone` is the clause with that hypothesis). -/
theorem not_branchRules : ¬ Obligations.BranchRules := by
  rintro ⟨h, -⟩
  obtain ⟨-, -, splits, -⟩ := h sharedPosition sharedRef sharedBra (sharedHerd 0x40000000) 0x40000000 0x40000000 sharedPosition_issuing
    (by decide) rfl (by decide) (by decide) (by decide)
  have claimed := splits (by decide) (by decide) (by decide) sharedPosition_executable sharedPosition_executable
  have reached := execBra_diverge (f := sharedBra) sharedPosition_issuing (by decide) rfl (by decide) (by decide) (by decide) (by decide)
    sharedPosition_executable sharedPosition_executable
  have heq := Host.Outcome.next.inj (claimed.symm.trans reached)
  exact absurd (congrArg (fun s : State => (s.core 0).herds.map (fun x => x.stack)) heq) (by decide +kernel)

end Sys2Proof.Machine
end


section
/-! PROOF. The scratchpad instructions. -/
namespace Sys2Proof.Machine
open Sys2Proof.Claims

/-! ## Cores, slots and herds after an update -/

section
variable (s : State) (n : Nat) (f : Core → Core)

/-- A core after an update of a core. -/
theorem State.core_updCore (m : Nat) : (s.updCore n f).core m = if m = n ∧ m < s.cores.length then f (s.core m) else s.core m := by
  unfold State.core State.updCore
  rw [List.getD_eq_getElem?_getD, List.getD_eq_getElem?_getD, updAt_getElem?]
  by_cases he : m = n
  · subst he
    by_cases hm : m < s.cores.length <;> simp [hm]
  · simp [he]

/-- An update of a core that leaves its slots leaves every slot. -/
theorem State.slot?_updCore (hf : ∀ c, (f c).slots = c.slots) (x : SlotRef) : (s.updCore n f).slot? x = s.slot? x := by
  unfold State.slot?
  rw [State.core_updCore]
  split_ifs
  · rw [hf]
  · rfl

end

section
variable (s : State) (r : HerdRef) (h : Herd)

@[simp] theorem entered_slot? (x : SlotRef) : (entered s r).slot? x = s.slot? x := State.slot?_updCore _ _ _ (by intro; rfl) x

@[simp] theorem entered_scratchSize : (entered s r).scratchSize r h = s.scratchSize r h := by
  simp only [State.scratchSize, entered_slot?]

@[simp] theorem entered_scratch : (entered s r).scratch r h = s.scratch r h := by simp only [State.scratch, entered_slot?]

@[simp] theorem entered_allReached (scope : Nat) : (entered s r).allReached r scope = s.allReached r scope := rfl

end

/-! ## Issue of a memory instruction (02 R46, 03 R80) -/

/-- A memory instruction that is ready runs its own effect once its herd holds no address pipeline. -/
theorem State.issueMem_ready {s : State} {r : HerdRef} {f : Fields} {sh : Shape} {stores : Bool} {h : Herd} (hr : readyMem s r f sh stores h)
    (go : State → Herd → LaneMask → State) : s.issueMem r f sh stores go = go (entered s r) h (h.acting f) := by
  obtain ⟨hready, hpipe, hacq, hrel⟩ := hr
  rw [State.issueMem, State.issue_ready hready]
  cases stores
  · simp [hpipe, hacq]
  · simp [hpipe, hacq, hrel rfl]

/-- Lanes of which none is refused fault for nothing. -/
theorem firstFault_eq_none {xs : List LaneVa} (h : ∀ x ∈ xs, ∀ c, x.res ≠ .bad c) : firstFault xs = none := by
  induction xs with
  | nil => rfl
  | cons x xs ih =>
    have hx := h x List.mem_cons_self
    have hrest := ih (fun y hy => h y (List.mem_cons_of_mem _ hy))
    unfold firstFault
    cases hres : x.res with
    | bad c => exact absurd hres (hx c)
    | ok t | needAts p | needLine l => simp [hrest]

/-! ## Scratchpad (02 R43, R47, 03 R76 to R81) -/

section
variable {s : State} {r : HerdRef} {f : Fields} {h : Herd}

/-- Offsets that are aligned and within the scratchpad let the access go on. -/
theorem State.withScratch_ok {size : Nat} {ls : List Nat} {off : Nat → Nat} (hx : ∀ l ∈ ls, off l % size = 0 ∧ off l < s.scratchSize r h)
    (go : State) : s.withScratch r h size (ls.map (fun l => (l, off l))) go = go := by
  unfold State.withScratch
  dsimp only
  rw [firstFault_eq_none]
  intro x hm c
  simp only [List.mem_map] at hm
  obtain ⟨-, ⟨l, hl, rfl⟩, rfl⟩ := hm
  obtain ⟨ha, hb⟩ := hx l hl
  simp [ha, Nat.not_le.mpr hb]

/-- A scratchpad load writes the extended value of each lane. -/
theorem execLd_scratch (hr : readyMem s r f (ldShape f) false h) (hs : fSpace f = 1)
    (hx : ∀ l ∈ loadLanes f (h.acting f), scratchOff h f (fOFS f) l % fSize f = 0 ∧ scratchOff h f (fOFS f) l < s.scratchSize r h) :
    exec (.ld r f .none) s = .next ((entered s r).updHerd r (fun y =>
      ((loadLanes f (h.acting f)).foldl (fun y l => y.write { uni := lowBit f 0, r := f.dst.toNat, span := spanOf (fSize f) } l
        (extend (lowBit f 13) (fSize f) (leNat (readBytes (s.scratch r h) (scratchOff h f (fOFS f) l) (fSize f))))) y).next)) := by
  simp only [exec, execLd, State.issueMem_ready hr, hs, if_true, State.ldScratch]
  rw [State.withScratch_ok (by simpa using hx)]
  simp only [entered_scratch, List.foldl_map]

/-- A scratchpad store writes the bytes of the lanes, a higher lane over a lower one. -/
theorem execSt_scratch (hr : readyMem s r f (stShape f) true h) (hs : fSpace f = 1)
    (hx : ∀ l ∈ laneList (h.acting f), scratchOff h f (fOFS f) l % fSize f = 0 ∧ scratchOff h f (fOFS f) l < s.scratchSize r h) :
    exec (.st r f) s = .next (((entered s r).updSlot { core := r.core, slot := h.slot } (fun y =>
      { y with scratch := (laneList (h.acting f)).foldl (fun m l =>
          writeBytes m (scratchOff h f (fOFS f) l) (leBytes (h.read (stData f) l) (fSize f))) y.scratch })).updHerd r Herd.next) := by
  simp only [exec, execSt, State.issueMem_ready hr, hs, if_true, State.stScratch]
  rw [State.withScratch_ok (by simpa using hx)]
  simp only [List.foldl_map]

end

/-- Settles O15: an access whose offsets pass the check, for each of the three instructions. -/
theorem scratchpadAccess : Obligations.ScratchpadAccess := by
  refine ⟨fun s r f h => execLd_scratch, fun s r f h => execSt_scratch, ?atom⟩
  case atom =>
    intro s r f h hr hs hrel hx
    refine ⟨_, _, _, rfl, rfl, ?_⟩
    have hgo : (lowBit f 1 && !(entered s r).allReached r (fScope f)) = false := by
      cases hb : lowBit f 1 with
      | false => rfl
      | true => simp [hrel hb]
    simp only [exec, execAtom, State.issueMem_ready hr, hs, if_true, hgo, State.atomScratch]
    rw [State.withScratch_ok (by simpa using hx)]
    simp only [entered_scratch, List.foldl_map]
    rfl

end Sys2Proof.Machine
end


section
/-! PROOF. Global stores, atomics and adds whose lanes all resolve. -/
namespace Sys2Proof.Machine
open Sys2Proof.Claims

/-! ## Lanes that resolve (03 R77) -/

/-- Lanes of which none waits wait for nothing. -/
theorem firstWait_eq_none {xs : List LaneVa} (h : ∀ x ∈ xs, ∃ t, x.res = .ok t) : firstWait xs = none := by
  induction xs with
  | nil => rfl
  | cons x xs ih =>
    obtain ⟨t, ht⟩ := h x List.mem_cons_self
    rw [firstWait, ht]
    exact ih (fun y hy => h y (List.mem_cons_of_mem _ hy))

/-- An access all of whose lanes resolve goes on with each lane's address and destination. -/
theorem State.withLanes_ok {ls : List Nat} {va : Nat → Nat} {dest : Nat → LaneTo} {mk : Nat → LaneVa}
    (hm : ∀ l ∈ ls, mk l = { lane := l, va := va l, res := .ok (dest l) }) (s : State) (r : HerdRef) (h : Herd)
    (go : State → List (Nat × Nat × LaneTo) → State) :
    s.withLanes r h (ls.map mk) go = go s.newChoice (ls.map (fun l => (l, va l, dest l))) := by
  have hok : ∀ x ∈ ls.map (fun l => ({ lane := l, va := va l, res := .ok (dest l) } : LaneVa)), ∃ t, x.res = .ok t := by
    intro x hx
    obtain ⟨l, -, rfl⟩ := List.mem_map.mp hx
    exact ⟨dest l, rfl⟩
  have hbad : ∀ x ∈ ls.map (fun l => ({ lane := l, va := va l, res := .ok (dest l) } : LaneVa)), ∀ c, x.res ≠ .bad c := by
    intro x hx c hc
    obtain ⟨t, ht⟩ := hok x hx
    rw [ht] at hc
    cases hc
  rw [List.map_congr_left hm]
  simp only [State.withLanes, firstFault_eq_none hbad, firstWait_eq_none hok, List.filterMap_map]
  exact congrArg _ (congrFun (List.filterMap_eq_map (f := fun l => (l, va l, dest l))) ls)

@[simp] theorem State.newChoice_allReached (s : State) (r : HerdRef) (scope : Nat) : s.newChoice.allReached r scope = s.allReached r scope := by
  obtain ⟨n, hn⟩ := s.newChoice_eq; rw [hn]; rfl

/-- A release that is satisfied does not hold its herd. -/
theorem release_satisfied {s : State} {r : HerdRef} {f : Fields} (hrel : lowBit f 1 = true → s.allReached r (fScope f) = true) :
    (lowBit f 1 && !s.allReached r (fScope f)) = false := by
  cases hb : lowBit f 1 with
  | false => rfl
  | true => simp [hrel hb]

/-- A lane that an atomic may reach keeps its destination (03 R82). -/
theorem hostAtomOk_ok {f : Fields} {t : LaneTo} (ht : ∀ a, t = .host a → (hostAtomKind (fAOP f)).isSome = true) {l va : Nat} :
    hostAtomOk f { lane := l, va := va, res := .ok t } = { lane := l, va := va, res := .ok t } := by
  cases t with
  | host a => simp [hostAtomOk, ht a rfl]
  | home a | remote a => rfl

/-- A lane outside the host keeps its destination in an add (03 R83). -/
theorem hostAddBad_ok {t : LaneTo} (ht : ∀ a, t ≠ .host a) {l va : Nat} :
    hostAddBad { lane := l, va := va, res := .ok t } = { lane := l, va := va, res := .ok t } := by
  cases t with
  | host a => exact absurd rfl (ht a)
  | home a | remote a => rfl

/-- Settles O17: lanes that resolve, a release that is satisfied, room for the requests, and requests to other modules that are all sent leave
one path through each instruction. -/
theorem globalStoresAndAtomics : Obligations.GlobalStoresAndAtomics := by
  refine ⟨?store, ?atomic, ?add⟩
  case store =>
    intro s s1 r f h dest hr hs hrel hd e op ts acc hfit hsend
    dsimp only [e, op, ts, acc] at hfit hsend ⊢
    simp only [exec, execSt, State.issueMem_ready hr, hs, State.stGlobal]
    rw [State.withLanes_ok (fun l hl => congrArg (LaneVa.mk l _) (hd l hl))]
    simp only [State.newChoice_allReached, entered_allReached, release_satisfied hrel, hfit, State.fresh, hsend]
    rfl
  case atomic =>
    intro s s1 r f h dest hr hs hrel hd hhost e op ts acc hfit hsend
    dsimp only [e, op, ts, acc] at hfit hsend ⊢
    simp only [exec, execAtom, State.issueMem_ready hr, hs, State.atomGlobal]
    rw [State.withLanes_ok (fun l hl => by rw [hd l hl]; exact hostAtomOk_ok (hhost l hl))]
    simp only [State.newChoice_allReached, entered_allReached, release_satisfied hrel, hfit, State.fresh, hsend]
    rfl
  case add =>
    intro s s1 r f h dest hr hd hhost e op ts acc hsend
    dsimp only [e, op, ts, acc] at hsend ⊢
    simp only [exec, execStAdd, State.issueMem_ready hr]
    rw [State.withLanes_ok (fun l hl => by rw [hd l hl]; exact hostAddBad_ok (hhost l hl))]
    simp only [State.fresh, hsend]

end Sys2Proof.Machine
end


section
/-! PROOF. Faults, kills and the watchdog of a context. -/
namespace Sys2Proof.Machine
open Sys2Proof.Claims

/-! ## The fault record (02 R56) -/

section
variable {c : Ctx} {f : FaultInfo}

/-- The first fault fills the record and puts the context into the killing state. -/
theorem Ctx.recordFault_first (h4 : c.st ≠ 4) (h0 : c.cause = 0) : c.recordFault f =
    { c with st := 3, cause := BitVec.ofNat 4 f.cause.code, fCore := BitVec.ofNat 6 f.core, fHerd := BitVec.ofNat 7 f.herd,
             fLane := BitVec.ofNat 5 (f.lane.getD 0), fLaneValid := f.lane.isSome, faultPc := BitVec.ofNat 57 f.pc,
             faultAddr := BitVec.ofNat 57 f.addr } := by
  simp only [Ctx.recordFault, if_neg h4, h0]
  rfl

/-- A further fault counts. -/
theorem Ctx.recordFault_further (h4 : c.st ≠ 4) (h0 : c.cause ≠ 0) : c.recordFault f = { c with faultCount := satInc c.faultCount 1 } := by
  have hc : (c.cause != 0) = true := bne_iff_ne.mpr h0
  simp only [Ctx.recordFault, if_neg h4, if_pos hc]

/-- A dead context records nothing. -/
theorem Ctx.recordFault_dead (h4 : c.st = 4) : c.recordFault f = c := if_pos h4

end

/-! ## The kill (02 R55) -/

section
variable {s : State} {c : CtxRef} {x : Ctx}

/-- A row of a module whose clocks run takes effect. -/
theorem State.clockRow_clocked (hk : s.clocked = true) (go : State) : s.clockRow go = go := if_pos hk

/-- A row that changes nothing changes nothing while the clocks are stopped either. -/
theorem State.clockRow_self : s.clockRow s = s := ite_self _

/-- A context that has not faulted is not killed. -/
theorem State.killCtx_unfaulted (hx : s.ctx? c = some x) (h3 : x.st ≠ 3) : s.killCtx c = s := by
  have hc : (x.st != 3 || x.stopped) = true := by rw [bne_iff_ne.mpr h3]; rfl
  simp only [State.killCtx, hx, if_pos hc]

/-- The kill of a context that has not faulted does not end. -/
theorem State.killComplete_unfaulted (hx : s.ctx? c = some x) (h3 : x.st ≠ 3) : s.killComplete c = s := by
  have hc : (x.st != 3 || !x.stopped) = true := by rw [bne_iff_ne.mpr h3]; rfl
  simp only [State.killComplete, hx, if_pos hc]

end

/-- Settles O19, clause by clause: each row is followed past the conditions that its clause assumes. -/
theorem contextKillRules : Obligations.ContextKillRules := by
  refine ⟨fun c f => ⟨Ctx.recordFault_first, Ctx.recordFault_further, Ctx.recordFault_dead⟩, ⟨?begins, ?unfaulted⟩, ?ends, ?watchdog⟩
  case begins =>
    intro s c x hk hx h3 hs
    simp only [exec, execContextKill, State.clockRow_clocked hk, State.killCtx, hx, h3, hs]
    rfl
  case unfaulted =>
    intro s c x hx h3
    simp only [exec, execContextKill, execContextKillComplete, State.killCtx_unfaulted hx h3, State.killComplete_unfaulted hx h3,
      State.clockRow_self, and_self]
  case ends =>
    intro s c x hk hx h3 hs
    simp only [exec, execContextKillComplete, State.clockRow_clocked hk, State.killComplete, hx, h3, hs]
    rfl
  case watchdog =>
    intro s cid d c x hk hd hq hx hop hph hran hen h3 h4 hcores hdue
    have hstart : kernelStart d = some d.mark := if_pos hran
    have hc : (d.opcode = 0x10 && d.phase = .active && x.wdEn && x.st != 3 && x.st != 4 && d.cores.isEmpty
        && d.mark + d.unmeasured + x.wdPeriod.toNat * 1000000 ≤ s.time) = true := by
      simp [hop, hph, hen, h3, h4, hcores, hdue]
    simp only [exec, execContextWatchdog, State.clockRow_clocked hk, hd, hq, hstart, hx, if_pos hc]
    rfl

end Sys2Proof.Machine
end


section
/-! PROOF. The matrix queue: its instructions, and the start, the stages and the end of an operation. -/
namespace Sys2Proof.Machine
open Sys2Proof.Claims

/-! ## MX.ISSUE, SB.ISSUE and MX.WAIT (02 R53, 03 R89, R90) -/

section
variable {s : State} {r : HerdRef} {f : Fields} {h : Herd} {x : Slot}

/-- An issue with a descriptor in its scratchpad, behind no acquire and no release fence, with room in the queue and a free token appends its
operation. -/
theorem State.enqueue_room {springbok : Bool} {act : LaneMask} {off : Nat}
    (ho : off = h.read { uni := lowBit f 0, r := f.sa.toNat, span := 1 } (lowLane act))
    (hacq : h.acquire = none) (hrel : s.releasesDone h = true) (hx : s.slot? { core := r.core, slot := h.slot } = some x)
    (h64 : off % 64 = 0) (hin : off + 64 ≤ s.scratchSize r h) (hlen : x.mxq.length < 16)
    (htok : x.mxq.all (fun o => !(o.live && o.pos = r.pos && o.token = f.dst.toNat)) = true)
    (hval : (mxDesc springbok (descWords (s.scratch r h) off)).valid (s.scratchSize r h) = true) :
    s.enqueue r f springbok h act = (({ s with nextId := s.nextId + 1 } : State).updSlot { core := r.core, slot := h.slot } (fun (y : Slot) =>
      { y with mxq := y.mxq ++ [MxOp.queued s.nextId springbok r h f.dst.toNat (lowLane act) (descWords (s.scratch r h) off)] })).updHerd r
        Herd.next := by
  subst ho
  have hfence : (h.acquire.isSome || !s.releasesDone h) = false := by rw [hacq, hrel]; rfl
  have hfree : x.mxq.any (fun o => o.live && o.pos = r.pos && o.token = f.dst.toNat) = false := by
    rw [List.any_eq_not_all_not, htok]; rfl
  have hfull : ¬ 16 ≤ x.mxq.length := Nat.not_le.mpr hlen
  have hin' : ¬ s.scratchSize r h < h.read { uni := lowBit f 0, r := f.sa.toNat, span := 1 } (lowLane act) + 64 := Nat.not_lt.mpr hin
  simp only [State.enqueue, hx, hfence, h64, if_neg hin', Option.elim_some, hfree, hfull, hval, State.fresh]
  simp

/-- A wait for tokens of which none has an outstanding operation goes on, and their outputs count for the herd. -/
theorem execMxWait_done (hr : ready s r f (mxWaitShape f) h) (hx : s.slot? { core := r.core, slot := h.slot } = some x)
    (hdone : x.mxq.all (fun o => !(o.live && o.pos = r.pos && f.low.getLsbD o.token)) = true) :
    exec (.mxWait r f) s = .next (({ s with reqs := s.reqs.map (fun (q : Req) =>
      if q.core = r.core && 256 ≤ q.pos && (q.pos - 256) / 16 = r.pos && f.low.getLsbD ((q.pos - 256) % 16) then
        { q with pos := r.pos } else q) } : State).updHerd r Herd.next) := by
  have hnone : x.mxq.any (fun o => o.live && o.pos = r.pos && f.low.getLsbD o.token) = false := by
    rw [List.any_eq_not_all_not, hdone]; rfl
  have hgo : exec (.mxWait r f) s = .next (s.issue r f (mxWaitShape f) _) := rfl
  rw [hgo, State.issue_ready hr]
  simp only [hx, Option.elim_some, hnone]
  rfl

end

/-! ## The start of an operation (02 R53) -/

/-- An engine takes an operation of its own core. -/
theorem State.takeOp_core {s : State} {core : Nat} {b : Bool} {w : OpAt} (h : s.takeOp core b = some w) : w.core = core := by
  obtain ⟨n, -, hn⟩ := List.exists_of_findSome?_eq_some h
  split at hn
  · split_ifs at hn
    obtain ⟨o, -, ho⟩ := Option.bind_eq_some_iff.mp hn
    obtain ⟨c, -, rfl⟩ := Option.map_eq_some_iff.mp ho
    rfl
  · cases hn

/-- An engine that works on nothing takes the next operation and goes on with it. -/
theorem State.opStart_takes {s : State} {core : Nat} {b : Bool} {w : OpAt} (hw : s.workingOp core b = none) (ht : s.takeOp core b = some w)
    (hs : s.opStopped w = false) (hb : s.canBegin w = true) : s.opStart core b = (s.beginOp w).opStep ((s.beginOp w).refresh w) := by
  simp only [State.opStart, hw, ht, hs, hb, Bool.not_true, Bool.or_self, Bool.false_eq_true, if_false]

/-- The engine's turn passes to the slot after the one that it takes an operation from; the other engine's turn stays. -/
theorem State.beginOp_turn {s : State} {w : OpAt} (hc : w.core < s.cores.length) :
    ((s.beginOp w).core w.core).arrNext = (if w.op.springbok then (s.core w.core).arrNext else (w.slot + 1) % 64) ∧
      ((s.beginOp w).core w.core).sbNext = (if w.op.springbok then (w.slot + 1) % 64 else (s.core w.core).sbNext) := by
  have hcore : ∀ g : MxOp → MxOp, ((s.updOp w g).core w.core).arrNext = (s.core w.core).arrNext ∧
      ((s.updOp w g).core w.core).sbNext = (s.core w.core).sbNext := by
    intro g
    rw [State.updOp, State.updSlot, State.core_updCore, if_pos ⟨rfl, hc⟩]
    exact ⟨rfl, rfl⟩
  obtain ⟨harr, hsb⟩ := hcore (fun o => { o with started := true })
  have hlen : w.core < (s.updOp w (fun o => { o with started := true })).cores.length := by
    simpa [State.updOp] using hc
  rw [State.beginOp, State.core_updCore, if_pos ⟨rfl, hlen⟩]
  cases w.op.springbok
  · exact ⟨rfl, hsb⟩
  · exact ⟨harr, rfl⟩

/-! ## A stage of an operation (04 R102, R105, R107, 05 R120) -/

/-- The operation that `w` names, as it stands in its slot's queue. -/
def State.opOf (s : State) (w : OpAt) : Option MxOp :=
  (s.slot? { core := w.core, slot := w.slot }).bind (fun x => x.mxq.find? (fun o => o.id = w.op.id))

/-- From `s` to `t` the operation that `w` names changes by `g` and the accumulator bank of its core by `b`; its slot's scratchpad, the memory
and the requests stay. -/
structure Moves (w : OpAt) (g : MxOp → MxOp) (b : Nat → Nat) (s t : State) : Prop where
  op : t.opOf w = (s.opOf w).map g
  bank : (t.core w.core).bank = b (s.core w.core).bank
  scratch : t.opScratch w = s.opScratch w
  cores : t.cores.length = s.cores.length
  mem : t.mem = s.mem
  reqs : t.reqs = s.reqs

section
variable {w : OpAt} {s t u : State} {g g' : MxOp → MxOp} {b b' : Nat → Nat}

theorem Moves.refl : Moves w id id s s := ⟨(Option.map_id_apply).symm, rfl, rfl, rfl, rfl, rfl⟩

theorem Moves.trans (h : Moves w g b s t) (h' : Moves w g' b' t u) : Moves w (g' ∘ g) (b' ∘ b) s u where
  op := by rw [h'.op, h.op, Option.map_map]
  bank := by rw [h'.bank, h.bank]; rfl
  scratch := h'.scratch.trans h.scratch
  cores := h'.cores.trans h.cores
  mem := h'.mem.trans h.mem
  reqs := h'.reqs.trans h.reqs

/-- A state that differs in the counts of events only. -/
theorem moves_countEvent (i : Option Nat) (k p n : Nat) : Moves w id id s (s.countEvent i k p n) :=
  ⟨(Option.map_id_apply).symm, rfl, rfl, rfl, rfl, rfl⟩

/-- An update of a core that leaves its slots. -/
theorem moves_updCore (hc : w.core < s.cores.length) {f : Core → Core} (hs : ∀ c, (f c).slots = c.slots) (hb : ∀ c, (f c).bank = b c.bank) :
    Moves w id b s (s.updCore w.core f) where
  op := by rw [State.opOf, State.slot?_updCore _ _ _ hs, Option.map_id]; rfl
  bank := by rw [State.core_updCore, if_pos ⟨rfl, hc⟩, hb]
  scratch := by rw [State.opScratch, State.slot?_updCore _ _ _ hs]; rfl
  cores := by simp
  mem := rfl
  reqs := rfl

/-- The first entry that satisfies a predicate, where those that do are changed and still do. -/
theorem find?_updWhere {α : Type} {p : α → Bool} {f : α → α} (hp : ∀ x, p x = true → p (f x) = true) (l : List α) :
    (updWhere p f l).find? p = (l.find? p).map f := by
  induction l with
  | nil => rfl
  | cons x l ih =>
    unfold updWhere at ih ⊢
    by_cases hx : p x = true
    · simp [hx, hp x hx]
    · simp [hx, ih]

/-- A slot after an update of it that keeps its number. -/
theorem State.slot?_updSlot (s : State) (r : SlotRef) {f : Slot → Slot} (hf : ∀ x, (f x).num = x.num) :
    (s.updSlot r f).slot? r = (s.slot? r).map f := by
  unfold State.slot? State.updSlot
  rw [State.core_updCore]
  by_cases hr : r.core < s.cores.length
  · rw [if_pos ⟨rfl, hr⟩]
    exact find?_updWhere (fun x hx => by simpa [hf] using hx) _
  · have hreset : s.core r.core = Core.reset := by simp [State.core, hr]
    rw [if_neg (fun hh => hr hh.2), hreset]
    rfl

/-- A change of an operation that keeps its number. -/
theorem moves_updOp (hc : w.core < s.cores.length) (hg : ∀ o, (g o).id = o.id) : Moves w g id s (s.updOp w g) where
  op := by
    rw [State.opOf, State.updOp, State.slot?_updSlot, State.opOf]
    · cases s.slot? { core := w.core, slot := w.slot } with
      | none => rfl
      | some x => exact find?_updWhere (fun o ho => by simpa [hg] using ho) _
    · exact fun _ => rfl
  bank := by rw [State.updOp, State.updSlot, State.core_updCore, if_pos ⟨rfl, hc⟩]; rfl
  scratch := by
    rw [State.opScratch, State.updOp, State.slot?_updSlot, State.opScratch]
    · cases s.slot? { core := w.core, slot := w.slot } <;> rfl
    · exact fun _ => rfl
  cores := by simp [State.updOp]
  mem := rfl
  reqs := rfl

end

section
variable {w : OpAt} {s : State} (hc : w.core < s.cores.length)
include hc

/-- A change of an operation that keeps its number, and of its core's free landing lines. -/
theorem moves_updOp_landing {g : MxOp → MxOp} (hg : ∀ o, (g o).id = o.id) (n : Nat) :
    Moves w g id s ((s.updOp w g).updCore w.core (fun c => { c with landing := min 1536 (c.landing + n) })) :=
  have h1 := moves_updOp hc hg
  h1.trans (moves_updCore (h1.cores ▸ hc) (by intro; rfl) (b := id) (by intro; rfl))

/-- Freeing the lines of landed operands changes only the operation's landing lines. -/
theorem moves_freeLands : ∃ L : MxOp → List (Nat × Nat), Moves w (fun o => { o with lands := L o }) id s (s.freeLands w) := by
  unfold State.freeLands
  dsimp only
  split_ifs
  · exact ⟨MxOp.lands, Moves.refl⟩
  · exact ⟨_, moves_updOp_landing hc (by intro; rfl) _⟩

/-- The operands that a stage read go. -/
theorem moves_useReads (n : Nat) (secs : List Nat) : ∃ L : MxOp → List (Nat × Nat),
    Moves w (fun o => { o with reads := o.reads.filter (fun x => !(x.1.1 = n && secs.contains x.1.2)), lands := L o }) id s
      (s.useReads w n secs) := by
  have h1 := moves_updOp (g := fun o => { o with reads := o.reads.filter (fun x => !(x.1.1 = n && secs.contains x.1.2)) }) hc (fun _ => rfl)
  obtain ⟨L, h2⟩ := moves_freeLands (w := w) (h1.cores ▸ hc)
  exact ⟨_, h1.trans h2⟩

end


/-- What a stage makes of its operation: the operands that it read go, its tile or with the last one its round is counted, and outputs are left
only by a round's last stage with complete units. -/
def stageOf (w : OpAt) (e n : Nat) (o p : MxOp) : Prop :=
  (n % w.desc.tiles + 1 = w.desc.tiles → p.round = o.round + 1 ∧ p.tile = 0) ∧
  (n % w.desc.tiles + 1 ≠ w.desc.tiles → p.round = o.round ∧ p.tile = o.tile + 1) ∧
  p.reads = o.reads.filter (fun r => !(r.1.1 = n && (w.rows e n ++ w.weights e n ++ w.starts e n).contains r.1.2)) ∧
  (n % w.desc.tiles + 1 ≠ w.desc.tiles ∨ (w.desc.stageUnits e n).filter w.desc.last = [] → p.writes = o.writes)

/-- Only the counts of events change as a stage is counted. -/
theorem moves_countStage {w : OpAt} {s : State} (us : List MxUnit) : Moves w id id s (s.countStage w us) := by
  unfold State.countStage
  dsimp only
  split_ifs <;> exact moves_countEvent ..

/-- An operation whose round has ended, with sums `C` in its combine store and outputs `W` left to drain. -/
def roundEnd (C : List (Nat × Nat)) (W : List MxOut) (o : MxOp) : MxOp :=
  { o with round := o.round + 1, tile := 0, combine := C, writes := o.writes ++ W }

/-- A round's end changes its operation, and the bank of its core where the arrays work; only complete units leave outputs. -/
theorem State.finishRound_eq (s : State) (w : OpAt) (us : List MxUnit) (bc : Nat → Nat) : ∃ (C : List (Nat × Nat)) (W : List MxOut),
    (us.filter w.desc.last = [] → W = []) ∧ s.finishRound w us bc =
      if w.op.springbok then s.updOp w (roundEnd C W)
      else (s.updOp w (roundEnd C W)).updCore w.core (fun c => { c with bank := 1 - c.bank }) := by
  refine ⟨_, _, fun hdone => ?_, rfl⟩
  simp [hdone]

section
variable {w : OpAt} {s : State} (hc : w.core < s.cores.length)
include hc

/-- A change of an operation that keeps its number, with which its core goes over to the other accumulator bank or keeps its own. -/
theorem moves_updOp_bank {g : MxOp → MxOp} (hg : ∀ o, (g o).id = o.id) (keep : Bool) : Moves w g (fun k => if keep then k else 1 - k) s
    (if keep then s.updOp w g else (s.updOp w g).updCore w.core (fun c => { c with bank := 1 - c.bank })) := by
  have h1 := moves_updOp hc hg
  cases keep with
  | true => exact h1
  | false => exact h1.trans (moves_updCore (b := fun k => 1 - k) (h1.cores ▸ hc) (by intro; rfl) (by intro; rfl))

/-- A round's end counts the round, uses the arrays' other accumulator bank, and leaves outputs of complete units only. -/
theorem moves_finishRound (us : List MxUnit) (bc : Nat → Nat) : ∃ (C : List (Nat × Nat)) (W : List MxOut),
    (us.filter w.desc.last = [] → W = []) ∧
    Moves w (roundEnd C W) (fun k => if w.op.springbok then k else 1 - k) s (s.finishRound w us bc) := by
  obtain ⟨C, W, hW, he⟩ := State.finishRound_eq s w us bc
  exact ⟨C, W, hW, he ▸ moves_updOp_bank hc (g := roundEnd C W) (fun _ => rfl) _⟩

/-- The last stage of a round ends it, and any other counts its tile. -/
theorem moves_stageEnd (us : List MxUnit) (bc : Nat → Nat) (ends : Prop) [Decidable ends] : ∃ g : MxOp → MxOp,
    (∀ o, (ends → (g o).round = o.round + 1 ∧ (g o).tile = 0) ∧ (¬ ends → (g o).round = o.round ∧ (g o).tile = o.tile + 1) ∧
      (g o).reads = o.reads ∧ (¬ ends ∨ us.filter w.desc.last = [] → (g o).writes = o.writes)) ∧
    Moves w g (fun k => if ends ∧ w.op.springbok = false then 1 - k else k) s
      (if ends then s.finishRound w us bc else s.updOp w (fun o => { o with tile := o.tile + 1 })) := by
  by_cases he : ends
  · obtain ⟨C, W, hW, hm⟩ := moves_finishRound hc us bc
    refine ⟨roundEnd C W, fun o => ⟨fun _ => ⟨rfl, rfl⟩, fun hn => absurd he hn, rfl, fun hh => ?_⟩, ?_⟩
    · simp [roundEnd, hW (hh.resolve_left (not_not_intro he))]
    · cases hb : w.op.springbok <;> simpa [he, hb] using hm
  · refine ⟨fun o => { o with tile := o.tile + 1 }, fun o => ⟨fun hh => absurd hh he, fun _ => ⟨rfl, rfl⟩, rfl, fun _ => rfl⟩, ?_⟩
    rw [if_neg he]
    simp only [he, false_and, if_false]
    exact moves_updOp hc (fun _ => rfl)

/-- A stage that is worked ends its round or counts its tile, and the operands that it read go. -/
theorem moves_workStage (e n : Nat) : ∃ g : MxOp → MxOp, (∀ o, stageOf w e n o (g o)) ∧
    Moves w g (fun k => if n % w.desc.tiles + 1 = w.desc.tiles ∧ w.op.springbok = false then 1 - k else k) s (s.workStage w e n) := by
  unfold State.workStage
  dsimp only
  have hcount := moves_countStage (w := w) (s := s) (w.desc.stageUnits e n)
  generalize s.countStage w (w.desc.stageUnits e n) = t at hcount ⊢
  have ht : w.core < t.cores.length := hcount.cores ▸ hc
  generalize hX : (if w.op.springbok = true then (_ : State) else _) = X
  have hrun : Moves w id id t X := by
    subst hX
    cases w.op.springbok with
    | true => exact moves_updCore ht (by intro; rfl) (by intro; rfl)
    | false =>
      have harrays := fun A : List Eland => moves_updCore (b := id) (f := fun c => { c with arrays := A }) ht (fun _ => rfl) (fun _ => rfl)
      exact (harrays _).trans (moves_updCore (b := id) ((harrays _).cores ▸ ht) (by intro; rfl) (by intro; rfl))
  have hX' : w.core < X.cores.length := hrun.cores ▸ ht
  obtain ⟨g, hg, hend⟩ := moves_stageEnd hX' (w.desc.stageUnits e n) (if w.desc.cScr then _ else _) (n % w.desc.tiles + 1 = w.desc.tiles)
  obtain ⟨L, huse⟩ := moves_useReads (hend.cores ▸ hX') n (w.rows e n ++ w.weights e n ++ w.starts e n)
  refine ⟨_, fun o => ?_, ((hcount.trans hrun).trans hend).trans huse⟩
  obtain ⟨hround, htile, hreads, hwrites⟩ := hg o
  exact ⟨hround, htile, congrArg _ hreads, hwrites⟩

end

/-- An operation that a state still holds lies in its slot, with the slot's scratchpad. -/
theorem State.slot_of_opOf {s t : State} {w : OpAt} {x : Slot} {p : MxOp} (hp : t.opOf w = some p)
    (hx : s.slot? { core := w.core, slot := w.slot } = some x) (hscr : t.opScratch w = s.opScratch w) :
    ∃ y, t.slot? { core := w.core, slot := w.slot } = some y ∧ y.mxq.find? (fun o => o.id = w.op.id) = some p ∧ y.scratch = x.scratch := by
  obtain ⟨y, hy, hfind⟩ := Option.bind_eq_some_iff.mp hp
  refine ⟨y, hy, hfind, ?_⟩
  simpa only [State.opScratch, hx, hy, Option.elim_some] using hscr

/-! ## The end of an operation (02 R54) -/

/-- An operation that is stopped by nothing, whose rounds are worked, whose dead declarations are sent and whose outputs have drained, retires. -/
theorem State.opComplete_retires {s t : State} {core : Nat} {b : Bool} {w : OpAt} (hw : s.runningOp core b = some w)
    (hs : s.opStopped w = false) (ht : t = s.opRest w (w.desc.rounds (s.width core b))) (hst : t.opStopped (t.refresh w) = false)
    (hwork : t.worked core (t.refresh w).op = true) (hwr : (t.refresh w).op.writes = []) (hdead : (t.refresh w).op.dead = [])
    (hacc : b = true → t.outputsAccepted (t.refresh w) = true) : s.opComplete core b .none = t.retireOp (t.refresh w) := by
  subst ht
  have hout : (b && !(s.opRest w (w.desc.rounds (s.width core b))).outputsAccepted
      ((s.opRest w (w.desc.rounds (s.width core b))).refresh w)) = false := by
    cases b with
    | false => rfl
    | true => rw [hacc rfl]; rfl
  simp only [State.opComplete, hw, hs, State.opErr, hst, hwork, hwr, hdead, hout, List.isEmpty_nil, Bool.not_true, Bool.or_self,
    Bool.false_eq_true, if_false]

/-! ## The rows of the two engines -/

/-- Both issue instructions enqueue, each for its own engine. -/
theorem exec_opIssue {p : (HerdRef → Fields → Instr) × Bool} (hp : p ∈ [(Instr.mxIssue, false), (Instr.sbIssue, true)]) (r : HerdRef)
    (f : Fields) (s : State) : exec (p.1 r f) s = .next (s.issue r f (mxShape f) (fun s h act => s.enqueue r f p.2 h act)) := by
  simp only [List.mem_cons, List.not_mem_nil, or_false] at hp
  rcases hp with rfl | rfl <;> rfl

/-- Both start rows start, each its own engine. -/
theorem exec_opStart {p : (Nat → Instr) × Bool} (hp : p ∈ [(Instr.elandOpStart, false), (Instr.springbokOpStart, true)]) (core : Nat)
    (s : State) : exec (p.1 core) s = .next (s.clockRow (s.opStart core p.2)) := by
  simp only [List.mem_cons, List.not_mem_nil, or_false] at hp
  rcases hp with rfl | rfl <;> rfl

/-- Both completion rows complete, each for its own engine. -/
theorem exec_opComplete {p : (Nat → CoreErr → Instr) × Bool}
    (hp : p ∈ [(Instr.elandOpComplete, false), (Instr.springbokOpComplete, true)]) (core : Nat) (err : CoreErr) (s : State) :
    exec (p.1 core err) s = .next (s.clockRow (s.opComplete core p.2 err)) := by
  simp only [List.mem_cons, List.not_mem_nil, or_false] at hp
  rcases hp with rfl | rfl <;> rfl

/-- Settles O18: the rows of the queue, the start of an operation, its stages by the relation `Moves`, and its end. -/
theorem matrixRules : Obligations.MatrixRules := by
  refine ⟨⟨?issue, fun s r f h x => execMxWait_done⟩, ?start, ?stage, ?complete⟩
  case issue =>
    intro p hp s r f h x hr hacq hrel hx lane off h64 hin hlen htok hval
    rw [exec_opIssue hp, State.issue_ready hr, State.enqueue_room rfl hacq hrel hx h64 hin hlen htok hval]
    rfl
  case start =>
    intro p hp s core w hk hw ht hs hb
    refine ⟨?_, fun x hx hbk hc => ?_⟩
    · rw [exec_opStart hp, State.clockRow_clocked hk, State.opStart_takes hw ht hs hb]
    · obtain rfl := State.takeOp_core ht
      rw [← hbk]
      exact State.beginOp_turn hc
  case stage =>
    intro s t w e n x o ends hc hx ho ht hends
    subst ht hends
    obtain ⟨g, hg, hm⟩ := moves_workStage hc e n
    obtain ⟨hround, htile, hreads, hwrites⟩ := hg o
    have hop : s.opOf w = some o := by rw [State.opOf, hx]; exact ho
    have hp : (s.workStage w e n).opOf w = some (g o) := by rw [hm.op, hop]; rfl
    obtain ⟨y, hy, hfind, hscr⟩ := State.slot_of_opOf hp hx hm.scratch
    exact ⟨y, g o, hy, hfind, by simpa using hround, by simpa using htile, hreads, by simpa using hwrites, by simpa using hm.bank, hscr, hm.mem,
      hm.reqs⟩
  case complete =>
    intro p hp s t core w hk hw hs ht hst hwork hwr hdead hacc
    rw [exec_opComplete hp, State.clockRow_clocked hk, State.opComplete_retires hw hs ht hst hwork hwr hdead hacc]

end Sys2Proof.Machine
end

section
/-! PROOF. Instruction words: packing and unpacking a word are inverse, and so are the function tables and `Instr.opcode`. -/
namespace Sys2Proof

/-! ## Packing and unpacking (03 R60) -/

section
variable {c fn : Nat} {f : Fields}

/-- Bits of a packed word above its lowest field. -/
theorem extractLsb'_packWord {start len : Nat} (h : 26 ≤ start) : (packWord c fn f).extractLsb' start len =
    (BitVec.ofNat 4 c ++ BitVec.ofBool f.form ++ BitVec.ofNat 5 fn ++ f.pred ++ BitVec.ofBool f.pneg ++ f.dst ++ f.sa ++ f.sb).extractLsb'
      (start - 26) len := BitVec.extractLsb'_append_eq_of_le h

/-- A bit of a word is the field of that bit alone. -/
theorem getLsbD_eq_extractLsb' {n : Nat} (w : BitVec n) (i : Nat) : w.getLsbD i = (w.extractLsb' i 1).getLsbD 0 := by simp

theorem wordClass_packWord (h : c < 16) : wordClass (packWord c fn f) = c := by
  simp (disch := decide) only [wordClass, extractLsb'_packWord, BitVec.extractLsb'_append_eq_of_le, Nat.reduceSub, BitVec.extractLsb'_eq_self,
    BitVec.toNat_ofNat]
  exact Nat.mod_eq_of_lt h

theorem wordFunc_packWord (h : fn < 32) : wordFunc (packWord c fn f) = fn := by
  simp (disch := decide) only [wordFunc, extractLsb'_packWord, BitVec.extractLsb'_append_eq_of_le, BitVec.extractLsb'_append_eq_of_add_le,
    Nat.reduceSub, BitVec.extractLsb'_eq_self, BitVec.toNat_ofNat]
  exact Nat.mod_eq_of_lt h

theorem wordFields_packWord : wordFields (packWord c fn f) = f := by
  have hlow : (packWord c fn f).extractLsb' 0 26 = f.low :=
    (BitVec.extractLsb'_append_eq_of_add_le (Nat.le_refl _)).trans BitVec.extractLsb'_eq_self
  simp (disch := decide) only [wordFields, wordForm, getLsbD_eq_extractLsb' (packWord c fn f), hlow, extractLsb'_packWord,
    BitVec.extractLsb'_append_eq_of_le, BitVec.extractLsb'_append_eq_of_add_le, Nat.reduceSub, BitVec.extractLsb'_eq_self,
    BitVec.getLsbD_ofBool, decide_true, Bool.true_and]

end

/-- A bit as a word of one bit. -/
theorem ofBool_getLsbD {n : Nat} (w : BitVec n) (i : Nat) : BitVec.ofBool (w.getLsbD i) = w.extractLsb' i 1 := by
  refine BitVec.eq_of_getLsbD_eq fun j hj => ?_
  obtain rfl : j = 0 := Nat.lt_one_iff.mp hj
  simp

/-- A word is its class, function and fields put together. -/
theorem packWord_wordFields (w : Word64) : packWord (wordClass w) (wordFunc w) (wordFields w) = w := by
  simp only [packWord, wordFields, wordClass, wordFunc, wordForm, BitVec.ofNat_toNat, BitVec.setWidth_eq, ofBool_getLsbD]
  iterate 7 rw [BitVec.extractLsb'_append_extractLsb'_eq_extractLsb' (by rfl)]
  exact (BitVec.extractLsb'_append_extractLsb'_eq_extractLsb' (by rfl)).trans BitVec.extractLsb'_eq_self

/-! ## The tables of functions (03 R62, R71 to R90) -/

/-- The instruction of a class, a function and fields, as `decodeWord` finds it. -/
def decodeOp (h : HerdRef) (c fn : Nat) (f : Fields) : Option Instr :=
  if c = 0 then decodeInt h f fn else if c = 1 then decodeFlt h f fn else if f.form then none else decodeRest h f c fn

theorem decodeWord_eq_decodeOp (h : HerdRef) (w : Word64) : decodeWord h w = decodeOp h (wordClass w) (wordFunc w) (wordFields w) := rfl

section
variable {i : Instr} {h : HerdRef} {c fn : Nat} {f : Fields}

theorem opcode_bounds (ho : i.opcode = some (h, c, fn, f)) : c < 16 ∧ fn < 32 := by
  unfold Instr.opcode at ho
  split at ho <;> cases ho <;> decide

theorem decodeInt_of_opcode (ho : i.opcode = some (h, 0, fn, f)) : decodeInt h f fn = some i := by
  unfold Instr.opcode at ho
  split at ho <;> cases ho <;> rfl

theorem decodeFlt_of_opcode (ho : i.opcode = some (h, 1, fn, f)) : decodeFlt h f fn = some i := by
  unfold Instr.opcode at ho
  split at ho <;> cases ho <;> rfl

theorem decodeRest_of_opcode (ho : i.opcode = some (h, c + 2, fn, f)) (hld : ∀ h f e, i = .ld h f e → e = .none) :
    decodeRest h f (c + 2) fn = some i := by
  unfold Instr.opcode at ho
  split at ho <;> cases ho
  case h_49.refl err => cases hld h f err rfl; rfl
  all_goals rfl

/-- The tables hold an instruction at the place that `opcode` gives it. -/
theorem decodeOp_of_opcode (ho : i.opcode = some (h, c, fn, f)) (hf : c ≤ 1 ∨ f.form = false)
    (hld : ∀ h f e, i = .ld h f e → e = .none) : decodeOp h c fn f = some i := by
  match c with
  | 0 => exact decodeInt_of_opcode ho
  | 1 => exact decodeFlt_of_opcode ho
  | c + 2 =>
    have hform : f.form = false := hf.resolve_left (by omega)
    simpa [decodeOp, hform] using decodeRest_of_opcode ho hld

theorem opcode_of_decodeInt (hd : decodeInt h f fn = some i) :
    i.opcode = some (h, 0, fn, f) := by
  unfold decodeInt at hd
  split at hd <;> cases hd <;> rfl

theorem opcode_of_decodeFlt (hd : decodeFlt h f fn = some i) :
    i.opcode = some (h, 1, fn, f) := by
  unfold decodeFlt at hd
  split at hd <;> cases hd <;> rfl

theorem opcode_of_decodeRest (hd : decodeRest h f c fn = some i) :
    i.opcode = some (h, c, fn, f) := by
  unfold decodeRest at hd
  split at hd <;> cases hd <;> rfl

/-- An instruction of the tables has their place as its `opcode`. -/
theorem opcode_of_decodeOp (hd : decodeOp h c fn f = some i) :
    i.opcode = some (h, c, fn, f) := by
  unfold decodeOp at hd
  split_ifs at hd with h0 h1 h2
  · exact h0 ▸ opcode_of_decodeInt hd
  · exact h1 ▸ opcode_of_decodeFlt hd
  · exact opcode_of_decodeRest hd

end

/-- Settles O4: both directions through the place of an instruction in the tables. -/
theorem decodeEncodeAgree : Obligations.DecodeEncodeAgree := by
  constructor
  · intro i h c fn f ho hf hld
    obtain ⟨hc, hfn⟩ := opcode_bounds ho
    refine ⟨packWord c fn f, by rw [encodeWord, ho]; rfl, ?_⟩
    rw [decodeWord_eq_decodeOp, wordClass_packWord hc, wordFunc_packWord hfn, wordFields_packWord, decodeOp_of_opcode ho hf hld]
  · intro h w i hd
    rw [decodeWord_eq_decodeOp] at hd
    rw [encodeWord, opcode_of_decodeOp hd, Option.map_some, packWord_wordFields]

end Sys2Proof
end

section
/-! PROOF. Global loads whose lanes all resolve. -/
namespace Sys2Proof.Machine
open Sys2Proof.Claims

/-- A global load that is ready runs its own effect. -/
theorem execLd_global {s : State} {r : HerdRef} {f : Fields} {h : Herd} (hr : readyMem s r f (ldShape f) false h) (hs : fSpace f = 0) :
    exec (.ld r f .none) s = .next ((entered s r).ldGlobal r f h (h.acting f)) := by
  simp only [exec, execLd, State.issueMem_ready hr, hs]
  rfl

/-- Settles O16: lanes that resolve leave the branches on the miss registers, on the room for host requests and landing lines, and on the
requests to other modules; each clause decides them. -/
theorem globalLoad : Obligations.GlobalLoad := by
  intro s r f h dest hr hs hd e ts acc near home hits lines far regs op
  rw [execLd_global hr hs, State.ldGlobal, State.withLanes_ok (fun l hl => congrArg (LaneVa.mk l _) (hd l hl))]
  refine ⟨?full, ?waits, ?goes⟩
  case full =>
    intro hfit
    simp only [regs, lines, far, home, near, acc, ts, e] at hfit
    simp only [hfit]
    rfl
  case waits =>
    intro hfit hroom
    have hno : (!e.hostFits (hostLanes ts acc).length || !e.landFar r.core (farLines f far)) = true := by
      rcases hroom with h0 | h0 <;> simp [h0]
    simp only [regs, lines, far, home, near, acc, ts, e] at hfit hno
    simp only [hfit, hno]
    rfl
  case goes =>
    intro s1 hfit hhost hland hsend
    simp only [op, regs, lines, far, home, near, acc, ts, e] at hfit hhost hland hsend
    simp only [hfit, hhost, hland, State.fresh, hsend]
    rfl

end Sys2Proof.Machine
end

section
/-! PROOF. The control instructions, and the end of a herd. -/
namespace Sys2Proof.Machine
open Sys2Proof.Claims

section
variable {s : State} {r : HerdRef} {f : Fields} {h : Herd}

/-! ## CALL, RET, HSYNC (02 R36, R37, 03 R85, R88) -/

/-- One target in an executable page lets a call go on (03 R84). -/
theorem withTarget_executable {a : Word64} (ha : executable s r h a) (lane : Nat) (go : State → State) :
    s.withTargets r h lane [a] go = go s.newChoice := by
  obtain ⟨hw, hc⟩ := executable_xlat ha
  simp [State.withTargets, hw, hc]

/-- A call with room on its stack and an executable target jumps. -/
theorem execCall_jumps (hr : ready s r f (callShape f) h) (hroom : h.stack.length < 64) (ht : executable s r h (jump h.pc (fTarget f))) :
    exec (.call r f) s = .next (s.newChoice.updHerd r (fun x =>
      { x with stack := .call (x.pc + 8) x.active :: x.stack }.goto (jump x.pc (fTarget f)) (h.acting f))) := by
  have hm : ¬ stackMax ≤ h.stack.length := Nat.not_le.mpr hroom
  rw [callShape] at hr
  simp only [exec, execCall, State.issue_ready hr, if_neg hm, withTarget_executable ht]

/-- A return takes the call entry on top of the stack. -/
theorem execRet_pops {ret : Word64} {mask : LaneMask} {rest : List StackEntry} (hr : ready s r f (ctrlShape f) h)
    (hs : h.stack = .call ret mask :: rest) :
    exec (.ret r f) s = .next (s.updHerd r (fun x => { x with stack := rest }.goto ret (mask &&& ~~~x.exited))) := by
  simp only [exec, execRet, State.issue_ready hr, hs]

/-! ## EXIT (02 R38) -/

theorem execExit_ready (hr : ready s r f (ctrlShape f) h) :
    exec (.exit r f) s = .next (s.putHerd r
      ({ h with exited := h.exited ||| h.acting f }.goto (h.pc + 8) (h.active &&& ~~~(h.acting f)))) := by
  simp only [exec, execExit, State.issue_ready hr]

end

/-- An update of a core that leaves its herds leaves every core's herds. -/
theorem State.herds_updCore (s : State) (n : Nat) {f : Core → Core} (hf : ∀ c, (f c).herds = c.herds) (m : Nat) :
    ((s.updCore n f).core m).herds = (s.core m).herds := by
  rw [State.core_updCore]
  split_ifs
  · exact hf _
  · rfl

/-- An update of a slot leaves every core's herds. -/
theorem State.herds_updSlot (s : State) (x : SlotRef) (f : Slot → Slot) (n : Nat) : ((s.updSlot x f).core n).herds = (s.core n).herds :=
  s.herds_updCore x.core (by intro; rfl) n

/-- Address pipelines that are freed leave every core's herds. -/
theorem State.herds_freePipes (s : State) (m : Nat) (gone : Nat → Bool) (n : Nat) : ((s.freePipes m gone).core n).herds = (s.core n).herds :=
  s.herds_updCore m (by intro; rfl) n

/-- Herds filtered out of a core, which has none where it is not there. -/
theorem State.herds_filter (s : State) (m : Nat) (p : Herd → Bool) (n : Nat) :
    ((s.updCore m (fun c => { c with herds := c.herds.filter p })).core n).herds =
      if n = m then (s.core n).herds.filter p else (s.core n).herds := by
  rw [State.core_updCore]
  by_cases hn : n < s.cores.length
  · simp only [hn, and_true]
    split_ifs <;> rfl
  · have hnone : (s.core n).herds = [] := by rw [State.core, List.getD_eq_default _ _ (Nat.le_of_not_lt hn)]; rfl
    simp [hn, hnone]

/-- The end of a herd takes the herds at its position from its core. -/
theorem State.herds_endHerd (s : State) (r : HerdRef) (h : Herd) (n : Nat) : ((s.endHerd r h).core n).herds =
    if n = r.core then (s.core n).herds.filter (fun x => x.pos != r.pos) else (s.core n).herds := by
  unfold State.endHerd
  dsimp only
  rw [State.herds_updSlot, State.herds_freePipes, State.herds_filter]
  rfl

/-- A herd that has ended is not at its position. -/
theorem State.herd?_endHerd_same (s : State) (r : HerdRef) (h : Herd) : (s.endHerd r h).herd? r = none := by
  rw [State.herd?, State.herds_endHerd, if_pos rfl, List.find?_eq_none]
  intro x hx
  simpa using (List.mem_filter.mp hx).2

/-- The end of a herd leaves the herds at the other positions of its core. -/
theorem State.herd?_endHerd_other (s : State) (r : HerdRef) (h : Herd) {p : Nat} (hp : p ≠ r.pos) :
    (s.endHerd r h).herd? { core := r.core, pos := p } = s.herd? { core := r.core, pos := p } := by
  rw [State.herd?, State.herds_endHerd, if_pos rfl, List.find?_filter]
  refine congrArg (fun q => List.find? q _) (funext fun x => ?_)
  by_cases hx : x.pos = p <;> simp [hx, hp]

/-- A herd none of whose lanes is left goes on nowhere: it has no active lane and no stack. -/
theorem Herd.goto_exited {h : Herd} (hs : h.stack = []) (pc : Word64) : (h.goto pc 0).active = 0 ∧ (h.goto pc 0).stack = [] := by
  simp only [Herd.goto, hs, settle, and_self]

/-- A herd without lanes and without a stack ends as it is put back. -/
theorem State.putHerd_exited {g : Herd} (s : State) (r : HerdRef) (ha : g.active = 0) (hs : g.stack = []) :
    s.putHerd r g = s.endHerd r g := by
  rw [State.putHerd, ha, hs]
  rfl

/-- Where the last lanes exit, the herd ends. -/
theorem execExit_last {s : State} {r : HerdRef} {f : Fields} {h : Herd} (hr : ready s r f (ctrlShape f) h) (ha : h.acting f = h.active)
    (hs : h.stack = []) : ∃ g, exec (.exit r f) s = .next (s.endHerd r g) := by
  obtain ⟨hact, hstack⟩ := Herd.goto_exited (h := { h with exited := h.exited ||| h.acting f }) hs (h.pc + 8)
  have hnone : h.active &&& ~~~(h.acting f) = 0 := by rw [ha, BitVec.and_not_self]
  rw [execExit_ready hr, hnone, State.putHerd_exited s r hact hstack]
  exact ⟨_, rfl⟩

/-- Settles O13: each instruction past the conditions of its clause; the last `EXIT` through what the end of a herd leaves. -/
theorem controlRules : Obligations.ControlRules := by
  refine ⟨⟨fun s r f h => execCall_jumps, fun s r f h ret mask rest => execRet_pops, fun s r f h => execExit_ready, ?nop, ?hsync, ?apart, ?trap⟩,
    ?last⟩
  case nop =>
    intro s r f h hr
    simp only [exec, execNop, State.issueHerd_ready hr]
  case hsync =>
    intro s r f h hr hall
    simp only [exec, execHsync, State.issue_ready hr, if_pos hall]
  case apart =>
    intro s r f h hr hsome
    simp only [exec, execHsync, State.issue_ready hr, if_neg hsome]
  case trap =>
    intro s r f h hr
    simp only [exec, execTrap, State.issue_ready hr]
  case last =>
    intro s r f h hr ha hs
    obtain ⟨g, hg⟩ := execExit_last hr ha hs
    exact ⟨_, hg, State.herd?_endHerd_same s r g, fun p hp => State.herd?_endHerd_other s r g hp, rfl, rfl, rfl⟩

end Sys2Proof.Machine
end

section
/-! PROOF. The start of a herd: its registers, and the row that starts it. -/
namespace Sys2Proof.Machine

/-! ## Launch values (03 R67) -/

/-- A register file in rising order reads the same without the registers that hold 0. -/
theorem spGet_filter_ne_zero {w : Nat} {m : List (Nat × BitVec w)} (h : m.Pairwise (fun c d => c.1 < d.1)) (a : Nat) :
    spGet (m.filter (fun c => c.2 != 0)) a = spGet m a := by
  induction h with
  | nil => rfl
  | @cons c m hlow _ ih =>
    obtain ⟨k, v⟩ := c
    by_cases hv : v = 0
    · rw [List.filter_cons_of_neg (by simp [hv]), ih]
      by_cases ha : a = k
      · rw [ha, spGet_cons_same, hv]
        exact spGet_below hlow
      · simp only [spGet, if_neg ha]
    · rw [List.filter_cons_of_pos (by simpa using hv)]
      simp only [spGet, ih]

/-- The uniform registers of a new herd: u0 to u6 hold the launch values, and the others read 0. -/
theorem spGet_launchRegs (k : Kernel) (n : Nat) : spGet (launchRegs k) n =
    spGet [(0, BitVec.ofNat 32 k.args.toNat), (1, BitVec.ofNat 32 (k.args.toNat / 2 ^ 32)), (2, BitVec.ofNat 32 k.next),
      (3, BitVec.ofNat 32 k.herds), (4, BitVec.ofNat 32 k.scratchBytes), (5, BitVec.ofNat 32 k.ordinal), (6, BitVec.ofNat 32 k.ncores)] n :=
  spGet_filter_ne_zero (by simp) n

/-- Past u6 a new herd's uniform registers read 0. -/
theorem spGet_launchRegs_above (k : Kernel) {n : Nat} (hn : 7 ≤ n) : spGet (launchRegs k) n = 0 := by
  have hne (m : Nat) (hm : m < 7) : n ≠ m := by omega
  rw [spGet_launchRegs]
  simp [spGet, hne]

/-- p7 of a new herd is true, and every other predicate false (02 R42). -/
theorem pred_newHerd (p : Nat) (x : Slot) (ctx : Nat) (k : Kernel) (n : Nat) :
    (newHerd p x ctx k).pred n = if n = 7 then BitVec.allOnes 32 else 0 := by
  have hz : (List.replicate 7 (0 : LaneMask)).getD n 0 = 0 := by
    rw [List.getD_eq_getElem?_getD, List.getElem?_replicate]
    split_ifs <;> rfl
  rw [Herd.pred, newHerd, hz]

/-! ## The row (02 R41, R42) -/

/-- A running slot whose kernel has herds left and a free position starts the next one there. -/
theorem execHerdStart_starts {s : State} {sl : SlotRef} {x : Slot} {k : Kernel} {ctx p : Nat} (hx : s.slot? sl = some x)
    (hk : x.kernel = some k) (hc : x.ctx = some ctx) (hst : x.st = .running) (hn : k.next < k.herds) (hclk : s.clocked = true)
    (hlive : (s.ctx? { inst := x.inst, ctx := ctx }).elim true (fun y => y.st = 3 || y.st = 4) = false)
    (hp : s.freePos sl.core x k.nreg = some p) :
    exec (.herdStart sl) s = .next (((s.updCore sl.core (fun (c : Core) => { c with herds := c.herds ++ [newHerd p x ctx k] })).updSlot sl
      (fun (x : Slot) => { x with kernel := some { k with next := k.next + k.ncores, started := true } })).updCmd k.cid
      (fun c => if c.herdRan then c else { c with herdRan := true, mark := s.time })) := by
  have hgo : (x.st != .running || decide (k.herds ≤ k.next) || !s.clocked ||
      (s.ctx? { inst := x.inst, ctx := ctx }).elim true (fun y => y.st = 3 || y.st = 4)) = false := by
    simp only [hst, hclk, hlive, Nat.not_le.mpr hn]
    rfl
  simp only [exec, execHerdStart, hx, hk, hc, hgo, hp]
  rfl

/-- Settles O26: the row starts a new herd, whose registers are read off. -/
theorem herdStarts : Obligations.HerdStarts := by
  intro s sl x k ctx p hx hk hc hst hn hclk hlive hp
  refine ⟨newHerd p x ctx k, execHerdStart_starts hx hk hc hst hn hclk hlive hp, rfl, rfl, rfl, rfl, rfl, rfl, pred_newHerd p x ctx k,
    fun _ _ => rfl, ?_⟩
  have hu : (newHerd p x ctx k).uregs = launchRegs k := rfl
  simp only [hu]
  exact ⟨spGet_launchRegs k 0, spGet_launchRegs k 1, spGet_launchRegs k 2, spGet_launchRegs k 3, spGet_launchRegs k 4, spGet_launchRegs k 5,
    spGet_launchRegs k 6, fun n => spGet_launchRegs_above k⟩

end Sys2Proof.Machine
end

section
/-! PROOF. Registers: what a result that is written to its use leaves in every register of the herd. -/
namespace Sys2Proof.Machine
open Sys2Proof.Claims

/-! ## One register (02 R42) -/

/-- What stands in a place of a register file: uniform register `n`, or register `n` of a lane, v255 like any other. -/
def Herd.cell (h : Herd) (uni : Bool) (n lane : Nat) : Word := if uni then spGet h.uregs n else spGet h.regs (32 * n + lane)

/-- A register reads as what stands in its place, and v255 as 0. -/
theorem Herd.reg_eq_cell (h : Herd) (uni : Bool) (n l : Nat) : h.reg uni n l = if uni = false ∧ n = 255 then 0 else h.cell uni n l := by
  cases uni <;> simp [Herd.reg, Herd.cell]

/-- `g` is `h` but for its register files, which are canonical. -/
structure FilesOf (h g : Herd) : Prop where
  wf : filesWf g
  rest : g = { h with regs := g.regs, uregs := g.uregs }

theorem FilesOf.refl {h : Herd} (hw : filesWf h) : FilesOf h h := ⟨hw, rfl⟩

/-- A register that is written keeps the rest of its herd. -/
theorem FilesOf.setReg {h g : Herd} (hg : FilesOf h g) (uni : Bool) (n l : Nat) (w : Word) : FilesOf h (g.setReg uni n l w) := by
  obtain ⟨⟨hregs, huregs⟩, hrest⟩ := hg
  unfold Herd.setReg
  split_ifs
  · exact ⟨⟨hregs, spSet_wf n w huregs⟩, by rw [hrest]⟩
  · exact ⟨⟨hregs, huregs⟩, hrest⟩
  · exact ⟨⟨spSet_wf _ w hregs, huregs⟩, by rw [hrest]⟩

/-- A register that is written changes its own place, in its own lane unless it is uniform, and v255 drops what is written. -/
theorem Herd.cell_setReg {h : Herd} (hw : filesWf h) {l l' : Nat} (hl : l < 32) (hl' : l' < 32) (uni b : Bool) (m n : Nat) (w : Word) :
    (h.setReg uni m l w).cell b n l' =
      if b = uni ∧ n = m ∧ (uni = false → l' = l ∧ m ≠ 255) then w else h.cell b n l' := by
  have hplace : 32 * n + l' = 32 * m + l ↔ n = m ∧ l' = l := by omega
  have hsame {k : Nat} (x : List (Nat × Word)) (a : Nat) (hx : spWf x = true) : spGet (spSet x a w) k = if k = a then w else spGet x k := by
    split_ifs with hk
    · rw [hk, spGet_spSet_same a w hx]
    · exact spGet_spSet_other x a w hk
  obtain ⟨hregs, huregs⟩ := hw
  cases uni with
  | true => cases b <;> simp [Herd.setReg, Herd.cell, hsame, huregs]
  | false =>
    by_cases hm : m = 255
    · simp [Herd.setReg, hm]
    · cases b <;> simp [Herd.setReg, Herd.cell, hm, hsame, hregs, hplace]

/-! ## One use (03 R64, R65) -/

/-- Register `n` is one that a result in the use `u` reaches: any of its registers where it is uniform; where it is not, one of its
registers other than v255, and none where the use is vz. -/
abbrev Use.takes (u : Use) (b : Bool) (n : Nat) : Prop := b = u.uni ∧ u.r ≤ n ∧ n < u.r + u.span ∧ (u.uni = false → u.r ≠ 255 ∧ n ≠ 255)

theorem Use.vz_eq_true {u : Use} : u.vz = true ↔ u.uni = false ∧ u.r = 255 := by simp [Use.vz]

section
variable {h g : Herd} {l l' : Nat}

/-- The words of a value, written to the first `k` registers from `r` on. -/
def Herd.writeWords (h : Herd) (uni : Bool) (r l v k : Nat) : Herd :=
  (List.range k).foldl (fun x i => x.setReg uni (r + i) l (BitVec.ofNat 32 (v / 2 ^ (32 * i)))) h

theorem Herd.writeWords_succ (h : Herd) (uni : Bool) (r l v k : Nat) : h.writeWords uni r l v (k + 1) =
    (h.writeWords uni r l v k).setReg uni (r + k) l (BitVec.ofNat 32 (v / 2 ^ (32 * k))) := by
  simp only [Herd.writeWords, List.range_succ, List.foldl_append, List.foldl_cons, List.foldl_nil]

/-- A write to a use other than vz writes the words of its value. -/
theorem Herd.write_eq_writeWords {u : Use} (hu : u.vz = false) (h : Herd) (l v : Nat) : h.write u l v = h.writeWords u.uni u.r l v u.span := by
  rw [Herd.write, hu]
  rfl

/-- vz drops what is written. -/
theorem Herd.write_vz {u : Use} (hu : u.vz = true) (h : Herd) (l v : Nat) : h.write u l v = h := if_pos hu

theorem FilesOf.writeWords (hg : FilesOf h g) (uni : Bool) (r l v k : Nat) : FilesOf h (g.writeWords uni r l v k) := by
  induction k with
  | zero => exact hg
  | succ k ih => rw [Herd.writeWords_succ]; exact ih.setReg ..

theorem FilesOf.write (hg : FilesOf h g) (u : Use) (l v : Nat) : FilesOf h (g.write u l v) := by
  cases hu : u.vz with
  | true => rwa [Herd.write_vz hu]
  | false => rw [Herd.write_eq_writeWords hu]; exact hg.writeWords ..

/-- Each word reaches its own register. -/
theorem Herd.cell_writeWords (hw : filesWf h) (hl : l < 32) (hl' : l' < 32) (uni b : Bool) (r v n k : Nat) :
    (h.writeWords uni r l v k).cell b n l' =
      if b = uni ∧ r ≤ n ∧ n < r + k ∧ (uni = false → l' = l ∧ n ≠ 255) then BitVec.ofNat 32 (v / 2 ^ (32 * (n - r))) else h.cell b n l' := by
  induction k with
  | zero => rw [if_neg (by omega)]; rfl
  | succ k ih =>
    rw [Herd.writeWords_succ, Herd.cell_setReg ((FilesOf.refl hw).writeWords ..).wf hl hl', ih]
    by_cases hn : n = r + k
    · subst hn
      simp
    · have hlt : n < r + (k + 1) ↔ n < r + k := by omega
      simp [hn, hlt]

/-- A value that is written to a use leaves its words in the registers that the use takes, in its lane unless it is uniform. -/
theorem Herd.cell_write (hw : filesWf h) (hl : l < 32) (hl' : l' < 32) (u : Use) (v : Nat) (b : Bool) (n : Nat) :
    (h.write u l v).cell b n l' =
      if u.takes b n ∧ (u.uni = false → l' = l) then BitVec.ofNat 32 (v / 2 ^ (32 * (n - u.r))) else h.cell b n l' := by
  cases hu : u.vz with
  | true =>
    obtain ⟨huni, hr⟩ := Use.vz_eq_true.mp hu
    rw [Herd.write_vz hu, if_neg fun hx => (hx.1.2.2.2 huni).1 hr]
  | false =>
    have hr : u.uni = false → u.r ≠ 255 := fun huni hr => by simp [Use.vz, huni, hr] at hu
    rw [Herd.write_eq_writeWords hu, Herd.cell_writeWords hw hl hl']
    refine if_congr ?_ rfl rfl
    grind

end

/-! ## One use in the acting lanes (02 R42, 03 R65) -/

theorem mem_laneList {m : LaneMask} {l : Nat} : l ∈ laneList m ↔ m.getLsbD l = true := by
  simp only [laneList, lanes32, List.mem_filter, List.mem_range, and_iff_right_iff_imp]
  exact BitVec.lt_of_getLsbD

theorem lowLane_lt (m : LaneMask) : lowLane m < 32 := by
  unfold lowLane
  cases h : laneList m with
  | nil => exact Nat.zero_lt_succ 31
  | cons l ls => exact BitVec.lt_of_getLsbD (mem_laneList.mp (h ▸ List.mem_cons_self))

section
variable {h g : Herd}

theorem FilesOf.writeLanes (hg : FilesOf h g) (u : Use) (act : LaneMask) (v : Nat → Nat) : FilesOf h (g.writeLanes u act v) := by
  unfold Herd.writeLanes
  split_ifs
  · exact hg.write ..
  · exact List.foldlRecOn _ _ hg fun x hx l _ => hx.write ..

/-- A result per lane leaves its words in the registers that the use takes, in each of the lanes. -/
theorem Herd.cell_foldl_write {u : Use} (huni : u.uni = false) (v : Nat → Nat) (b : Bool) (n : Nat) {l' : Nat} (hl' : l' < 32) :
    ∀ {ls : List Nat} {h : Herd}, filesWf h → (∀ l ∈ ls, l < 32) → (ls.foldl (fun x l => x.write u l (v l)) h).cell b n l' =
      if u.takes b n ∧ l' ∈ ls then BitVec.ofNat 32 (v l' / 2 ^ (32 * (n - u.r))) else h.cell b n l'
  | [], h, _, _ => by simp
  | l :: ls, h, hw, hls => by
    rw [List.foldl_cons, Herd.cell_foldl_write huni v b n hl' ((FilesOf.refl hw).write ..).wf fun x hx => hls x (List.mem_cons_of_mem _ hx),
      Herd.cell_write hw (hls l List.mem_cons_self) hl']
    by_cases ht : u.takes b n
    · by_cases hl : l' = l <;> simp [ht, hl, huni]
    · rw [if_neg (fun hx => ht hx.1), if_neg (fun hx => ht hx.1), if_neg (fun hx => ht hx.1)]

/-- A result leaves its words in the registers that its use takes: in each acting lane, or once where the use is uniform. -/
theorem Herd.cell_writeLanes (hw : filesWf h) (u : Use) (act : LaneMask) (v : Nat → Nat) (b : Bool) (n : Nat) {l' : Nat} (hl' : l' < 32) :
    (h.writeLanes u act v).cell b n l' = if u.takes b n ∧ (u.uni = false → act.getLsbD l' = true) then
      BitVec.ofNat 32 (v (if u.uni then lowLane act else l') / 2 ^ (32 * (n - u.r))) else h.cell b n l' := by
  by_cases huni : u.uni = true
  · simp [Herd.writeLanes, huni, Herd.cell_write hw (Nat.zero_lt_succ 31) hl']
  · rw [Bool.not_eq_true] at huni
    have hlanes : ∀ l ∈ laneList act, l < 32 := fun l hl => BitVec.lt_of_getLsbD (mem_laneList.mp hl)
    simp [Herd.writeLanes, huni, Herd.cell_foldl_write huni v b n hl' hw hlanes, mem_laneList]

end

/-! ## Reading a result back -/

/-- The words of a value, as far as they are kept, add up to its low part. -/
theorem foldl_words (v k : Nat) {x : Nat → Nat} {n : Nat} (hx : ∀ i < n, x i = if i < k then v / 2 ^ (32 * i) % 2 ^ 32 else 0) :
    (List.range n).foldl (fun a i => a + x i * 2 ^ (32 * i)) 0 = v % 2 ^ (32 * min n k) := by
  induction n with
  | zero => simp [Nat.mod_one]
  | succ n ih =>
    rw [List.range_succ, List.foldl_append, List.foldl_cons, List.foldl_nil, ih fun i hi => hx i (Nat.lt_succ_of_lt hi), hx n (Nat.lt_succ_self n)]
    split_ifs with hn
    · rw [Nat.min_eq_left hn.le, Nat.min_eq_left hn, Nat.mul_succ, Nat.pow_add, Nat.mod_mul, Nat.mul_comm (2 ^ (32 * n))]
    · rw [Nat.min_eq_right (by omega), Nat.min_eq_right (by omega), Nat.zero_mul, Nat.add_zero]

/-- A use other than vz whose first `k` registers hold the words of a value, and the others 0, reads as its low part. -/
theorem Herd.read_words {g : Herd} {u : Use} {l k v : Nat} (hu : u.vz = false)
    (hg : ∀ i < u.span, g.reg u.uni (u.r + i) l = if i < k then BitVec.ofNat 32 (v / 2 ^ (32 * i)) else 0) :
    g.read u l = v % 2 ^ (32 * min u.span k) := by
  rw [Herd.read, hu]
  refine foldl_words v k fun i hi => ?_
  rw [hg i hi]
  split_ifs
  · exact BitVec.toNat_ofNat ..
  · rfl

/-- A use that an instruction can have: uniform, vz, or within the 256 registers of a lane. -/
def Use.fits (u : Use) : Prop := u.uni = true ∨ u.r = 255 ∨ u.r + u.span ≤ 256

/-- A register result reaches its use, and only that. -/
theorem wrote_writeLanes {h : Herd} {u : Use} (hw : filesWf h) (hu : u.fits) (act : LaneMask) (v : Nat → Nat) :
    wrote h (h.writeLanes u act v) u act v := by
  have hcell := fun b n {l'} hl' => Herd.cell_writeLanes (l' := l') hw u act v b n hl'
  refine ⟨?vector, ?uniform, ?regs, ?uregs, ((FilesOf.refl hw).writeLanes ..).rest⟩
  case vector =>
    intro huni hr l hl
    have hend : u.r + u.span ≤ 256 := by simpa [Use.fits, huni, hr] using hu
    refine Herd.read_words (by simp [Use.vz, hr]) fun i hi => ?_
    rw [Herd.reg_eq_cell, hcell _ _ (BitVec.lt_of_getLsbD hl)]
    by_cases hi' : i < 255 - u.r
    · have hne : u.r + i ≠ 255 := by omega
      simp [huni, hr, hl, hi, hi', hne]
    · have heq : u.r + i = 255 := by omega
      simp [huni, hi', heq]
  case uniform =>
    intro huni
    have hread := Herd.read_words (g := h.writeLanes u act v) (u := u) (l := 0) (k := u.span) (v := v (lowLane act)) (by simp [Use.vz, huni])
      fun i hi => by simp [Herd.reg_eq_cell, hcell, huni, hi]
    rwa [Nat.min_self] at hread
  case regs =>
    intro n l hl hout
    have hc := hcell false n hl
    rw [if_neg (by grind)] at hc
    simpa [Herd.cell] using hc
  case uregs =>
    intro n hout
    have hc := hcell true n (Nat.zero_lt_succ 31)
    rw [if_neg (by grind)] at hc
    simpa [Herd.cell] using hc

end Sys2Proof.Machine
end

section
/-! PROOF. The arithmetic classes and RDSR: every function is one issue that writes a result per lane. -/
namespace Sys2Proof.Machine
open Sys2Proof.Claims

/-! ## Results of a herd that is ready (03 R63 to R65) -/

/-- Every register that a legal encoding writes is one that an instruction can have, where it takes one register or an aligned pair. -/
theorem Shape.fits_of_legal {sh : Shape} {nreg : Nat} {u : Use} (hl : sh.legal nreg = true) (hu : u ∈ sh.dst) (hr : u.r < 256)
    (hs : u.span = 1 ∨ u.span = 2) : u.fits := by
  simp only [Shape.legal, Bool.and_eq_true, List.all_eq_true] at hl
  obtain ⟨-, hdst⟩ := hl
  have hlegal := hdst u hu
  by_cases huni : u.uni = true
  · exact .inl huni
  · simp only [Use.legal, if_neg huni, Bool.or_eq_true, Bool.and_eq_true, decide_eq_true_eq] at hlegal
    rcases hlegal with h255 | ⟨halign, -⟩
    · exact .inr (.inl h255)
    · refine .inr (.inr ?_)
      rcases hs with hs | hs <;> rw [hs] at halign ⊢ <;> omega

section
variable {i : HerdRef → Fields → Instr} {sh : Fields → Shape} {d : Fields → Use} {v : HerdRef → Fields → Herd → LaneMask → Nat → Nat}

/-- An instruction that issues a result per lane, and has its destination among the registers that it writes. -/
theorem laneResult_of_writeLanes
    (hi : ∀ s r f, exec (i r f) s = .next (s.issueHerd r f (sh f) (fun h act => h.writeLanes (d f) act (v r f h act))))
    (hd : ∀ f, d f ∈ (sh f).dst) (hr : ∀ f, (d f).r < 256) (hs : ∀ f, (d f).span = 1 ∨ (d f).span = 2) : laneResult i sh d v := by
  intro s r f h hready hw
  have ⟨_, _, hlegal, _⟩ := hready
  refine ⟨h.writeLanes (d f) (h.acting f) (v r f h (h.acting f)), ?_, wrote_writeLanes hw ?_ _ _⟩
  · rw [hi, State.issueHerd_ready hready]
  · exact Shape.fits_of_legal hlegal (hd f) (hr f) (hs f)

end

theorem typeSpan_one_or_two (t : Nat) : typeSpan t = 1 ∨ typeSpan t = 2 := by
  unfold typeSpan
  split_ifs <;> simp

theorem useD_r_lt (f : Fields) (k : Nat) : (useD f k).r < 256 := f.dst.isLt

/-- An arithmetic instruction writes its destination: form I one register, form R those of its type. -/
theorem AluForm.useD_mem_dst {a : AluForm} (ha : typeSpan a.immType = 1) (f : Fields) : useD f (typeSpan (a.type f)) ∈ (a.shape f).dst := by
  by_cases hf : f.form = true
  · simp [AluForm.shape, AluForm.type, hf, ha]
  · simp [AluForm.shape, AluForm.type, hf]

/-- An instruction that runs an arithmetic form has that form's result. -/
theorem aluResult_of_alu {i : HerdRef → Fields → Instr} {a : AluForm} {op : Fields → Herd → Nat → Nat → Nat → Nat → Nat → Nat}
    (ha : typeSpan a.immType = 1) (hi : ∀ s r f, exec (i r f) s = .next (s.alu r f a (op f))) : aluResult i a op :=
  laneResult_of_writeLanes hi (AluForm.useD_mem_dst ha) (fun f => useD_r_lt f _) (fun _ => typeSpan_one_or_two _)

/-! ## RDSR (03 R68) -/

/-- The status register that `SA` names. -/
theorem statusReg_eq (time cyc : Nat) (r : HerdRef) (act : LaneMask) (sa : BitVec 8) (l : Nat) : statusReg time cyc r act sa.toNat l =
    if sa = 0 then l else if sa = 1 then r.pos else if sa = 2 then r.core else if sa = 3 then act.toNat
    else if sa = 4 then time % 2 ^ 64 else cyc % 2 ^ 64 := by
  simp only [← BitVec.toNat_inj]
  unfold statusReg
  split <;> simp_all

/-- `RDSR` writes its status register. -/
theorem execRdsr_wrote {s : State} {r : HerdRef} {f : Fields} {h : Herd} (hr : ready s r f (rdsrShape f) h) (hw : filesWf h) :
    ∃ g : Herd, exec (.rdsr r f) s = .next (s.updHerd r (fun _ => g.next)) ∧ wrote h g (useD f (srSpan f.sa.toNat)) (h.acting f)
      (statusReg s.time (s.kernelCycles r h) r (h.acting f) f.sa.toNat) := by
  have hspan : srSpan f.sa.toNat = 1 ∨ srSpan f.sa.toNat = 2 := by
    unfold srSpan
    split_ifs <;> simp
  have ⟨_, _, hlegal, _⟩ := hr
  refine ⟨_, ?_, wrote_writeLanes hw (Shape.fits_of_legal hlegal List.mem_cons_self (useD_r_lt f _) hspan) _ _⟩
  simp only [exec, execRdsr, State.issue_ready hr]

/-- Settles O8: each function runs its arithmetic form, and `RDSR` writes its status register. -/
theorem integerResults : Obligations.IntegerResults := by
  constructor
  · and_intros <;> exact aluResult_of_alu rfl (fun _ _ _ => rfl)
  · intro s r f h hr hw
    obtain ⟨g, hg, hwrote⟩ := execRdsr_wrote hr hw
    refine ⟨g, hg, ?_⟩
    have hv : statusReg s.time (s.kernelCycles r h) r (h.acting f) f.sa.toNat = _ := funext fun l => statusReg_eq ..
    rwa [hv] at hwrote

/-- Settles O9: each function runs its arithmetic form. -/
theorem floatResults : Obligations.FloatResults := by
  unfold Obligations.FloatResults
  and_intros <;> exact aluResult_of_alu rfl (fun _ _ _ => rfl)

end Sys2Proof.Machine
end

section
/-! PROOF. The compare class, the votes and the herd-wide functions. -/
namespace Sys2Proof.Machine
open Sys2Proof.Claims

/-! ## Predicates (03 R66) -/

/-- The mask of one lane. -/
theorem one_shiftLeft_getLsbD {k : Nat} (hk : k < 32) (l : Nat) : (((1 <<< k : Nat) : LaneMask)).getLsbD l = decide (l = k) := by
  rw [BitVec.natCast_eq_ofNat, BitVec.getLsbD_ofNat, Nat.one_shiftLeft, Nat.testBit_two_pow]
  grind

/-- A mask to which the lanes of a list are added where `p` holds for them. -/
theorem foldl_lanes_getLsbD (p : Nat → Bool) (l : Nat) : ∀ (ls : List Nat) (m : LaneMask), (∀ k ∈ ls, k < 32) →
    (ls.foldl (fun (m : LaneMask) k => if p k then m ||| ((1 <<< k : Nat) : LaneMask) else m) m).getLsbD l =
      (m.getLsbD l || (decide (l ∈ ls) && p l))
  | [], m, _ => by simp
  | k :: ls, m, hls => by
    rw [List.foldl_cons, foldl_lanes_getLsbD p l ls _ fun x hx => hls x (List.mem_cons_of_mem _ hx)]
    split_ifs with hp
    · rw [BitVec.getLsbD_or, one_shiftLeft_getLsbD (hls k List.mem_cons_self)]
      by_cases hl : l = k <;> simp [hl, hp]
    · by_cases hl : l = k <;> simp [hl, hp]

/-- A mask of the lanes for which `p` holds. -/
theorem laneMask_getLsbD (p : Nat → Bool) {l : Nat} (hl : l < 32) : (laneMask p).getLsbD l = p l := by
  rw [laneMask, foldl_lanes_getLsbD p l lanes32 0 (by simp [lanes32])]
  simp [lanes32, hl]

/-- A mask of every lane, or of none. -/
theorem getLsbD_ite_allOnes (b : Bool) {l : Nat} (hl : l < 32) :
    (if b then BitVec.allOnes 32 else (0 : LaneMask)).getLsbD l = b := by
  cases b
  · exact BitVec.getLsbD_zero
  · simp only [if_true, BitVec.getLsbD_allOnes, hl, decide_true]

section
variable {h : Herd} {n : Nat} {act v : LaneMask}

/-- A predicate that is written takes the new value in the acting lanes, and keeps the old one in the others. -/
theorem Herd.pred_setPred_same (hp : h.preds.length = 7) (hn : n < 7) {l : Nat} (hl : l < 32) :
    ((h.setPred n act v).pred n).getLsbD l = if act.getLsbD l then v.getLsbD l else (h.pred n).getLsbD l := by
  have hne : n ≠ 7 := Nat.ne_of_lt hn
  have hin : n < h.preds.length := hp ▸ hn
  simp only [Herd.pred, if_neg hne, Herd.setPred, List.getD_eq_getElem?_getD, updAt_getElem?, if_true, List.getElem?_eq_getElem hin,
    Option.map_some, Option.getD_some]
  simp only [BitVec.getLsbD_or, BitVec.getLsbD_and, BitVec.getLsbD_not, hl, decide_true, Bool.true_and]
  cases act.getLsbD l <;> simp

/-- Other predicates stay. -/
theorem Herd.pred_setPred_other {m : Nat} (hm : m ≠ n) : (h.setPred n act v).pred m = h.pred m := by
  simp only [Herd.pred, Herd.setPred, List.getD_eq_getElem?_getD, updAt_getElem?, if_neg hm]

end

/-- An instruction that issues a write of one predicate writes it in the acting lanes. -/
theorem predResult_of_setPred {i : HerdRef → Fields → Instr} {sh : Fields → Shape} {p : Fields → Herd → LaneMask → Nat → Bool}
    (v : Fields → Herd → LaneMask → LaneMask)
    (hi : ∀ s r f, exec (i r f) s = .next (s.issueHerd r f (sh f) (fun h act => h.setPred f.dst.toNat act (v f h act))))
    (hv : ∀ f h act l, l < 32 → (v f h act).getLsbD l = p f h act l) : predResult i sh p := by
  intro s r f h hready hp
  refine ⟨h.setPred f.dst.toNat (h.acting f) (v f h (h.acting f)), by rw [hi, State.issueHerd_ready hready], ?_,
    fun n hn => Herd.pred_setPred_other hn, rfl⟩
  intro hdst l hl
  rw [Herd.pred_setPred_same hp hdst hl, hv f h _ l hl]

/-- Settles O11: a compare or vote writes one predicate, and every other function a result per lane. -/
theorem predicateAndHerdWideResults : Obligations.PredicateAndHerdWideResults := by
  refine ⟨⟨?cmpi, ?cmpf, ?first, ?anyp, ?allp⟩, ?cmpv, ?lmask, ?lget, ?lrot, ?lswz, ?reduce⟩
  case cmpi | cmpf => exact predResult_of_setPred _ (fun _ _ _ => rfl) fun f h act l hl => laneMask_getLsbD _ hl
  case first => exact predResult_of_setPred _ (fun _ _ _ => rfl) fun f h act l hl => one_shiftLeft_getLsbD (lowLane_lt act) l
  case anyp | allp => exact predResult_of_setPred _ (fun _ _ _ => rfl) fun f h act l hl => getLsbD_ite_allOnes _ hl
  case cmpv =>
    exact laneResult_of_writeLanes (fun _ _ _ => rfl) (fun _ => List.mem_cons_self) (fun f => useD_r_lt f _) fun _ => typeSpan_one_or_two _
  case lmask | lget | lrot | lswz =>
    exact laneResult_of_writeLanes (fun _ _ _ => rfl) (fun _ => List.mem_cons_self) (fun f => useD_r_lt f _) fun _ => .inl rfl
  case reduce =>
    intro p hp
    simp only [List.mem_cons, List.not_mem_nil, or_false] at hp
    rcases hp with rfl | rfl | rfl <;>
      exact laneResult_of_writeLanes (fun _ _ _ => rfl) (fun _ => List.mem_cons_self) (fun f => useD_r_lt f _) fun _ => .inl rfl

end Sys2Proof.Machine
end

section
/-! PROOF. FENCE and BAR: what each makes of a herd that is ready, and where O14's clause on a release fence stands. -/
namespace Sys2Proof.Machine
open Sys2Proof.Claims

/-! ## FENCE and BAR (03 R86, R87) -/

section
variable {s : State} {r : HerdRef} {f : Fields} {h : Herd}

/-- What a fence covers has reached the point of its scope; for an acquire fence, every load has returned. -/
def State.fenceDone (s : State) (r : HerdRef) (f : Fields) : Bool :=
  if lowBits f 1 0 = 1 then s.loadsDone r else s.allReached r (lowBits f 7 5)

/-- A fence whose accesses have reached their point goes on, and a full or acquire fence at `CORE` or wider empties the slot's L1. -/
theorem execFence_done (hr : ready s r f (fenceShape f) h) (hacq : h.acquire = none) (hb : s.fenceDone r f = true) :
    exec (.fence r f) s = .next (if lowBits f 1 0 ≠ 2 ∧ 2 ≤ lowBits f 7 5
      then (s.updHerd r Herd.next).invalidateL1 { core := r.core, slot := h.slot } else s.updHerd r Herd.next) := by
  rw [fenceShape] at hr
  rw [State.fenceDone] at hb
  simp only [exec, execFence, State.issue_ready hr, hacq, hb]
  simp

/-- Any other fence holds its herd, but for a release fence at `PACKAGE`. -/
theorem execFence_waits (hr : ready s r f (fenceShape f) h) (hacq : h.acquire = none) (hb : s.fenceDone r f = false)
    (hk : lowBits f 1 0 ≠ 2 ∨ lowBits f 7 5 ≠ 4) : exec (.fence r f) s = .next s := by
  rw [fenceShape] at hr
  rw [State.fenceDone] at hb
  simp only [exec, execFence, State.issue_ready hr, hacq, hb]
  rcases hk with hk | hk <;> simp [hk]

/-- The accesses of a herd that have not reached the point of `PACKAGE`. -/
def State.unreached (s : State) (r : HerdRef) : List Nat := ((s.herdReqs r).filter (fun x => !s.reached x 4)).map (fun x => x.rid)

/-- A release fence at `PACKAGE` may let the herds at its position go on, each with its own release fences and this one (log 59). -/
theorem execFence_release (hr : ready s r f (fenceShape f) h) (hacq : h.acquire = none) (hb : s.fenceDone r f = false)
    (hk : lowBits f 1 0 = 2) (hs : lowBits f 7 5 = 4) : exec (.fence r f) s = .next (
      if Config.passesFence s.freeSeq then ({ s with freeSeq := s.freeSeq + 1 } : State).updHerd r
        (fun x => { x.next with releases := x.releases ++ [(4, s.unreached r)] })
      else { s with freeSeq := s.freeSeq + 1 }) := by
  rw [fenceShape] at hr
  rw [State.fenceDone] at hb
  simp only [exec, execFence, State.issue_ready hr, hacq, hb]
  simp only [hk, hs]
  rfl

/-- `BAR` whose accesses have reached `CORE` is a full fence there, and then counts an arrival unless `COUNT` is 0. -/
theorem execBar_reached (hr : ready s r f (Claims.barShape f) h) (hacq : h.acquire = none) (hb : s.allReached r 2 = true) :
    exec (.bar r f) s = .next (if lowBits f 21 14 = 0 then (s.invalidateL1 { core := r.core, slot := h.slot }).updHerd r Herd.next
      else (s.invalidateL1 { core := r.core, slot := h.slot }).arrive r h.slot (lowBits f 25 22) (lowBits f 21 14)) := by
  rw [Claims.barShape] at hr
  simp only [exec, execBar, State.issue_ready hr, hacq, hb]
  rfl

/-- Where one herd alone stands at its position, a release fence at `PACKAGE` is as O14's clause on it has it. -/
theorem execFence_release_alone (hr : ready s r f (fenceShape f) h) (hacq : h.acquire = none) (hb : s.fenceDone r f = false)
    (hk : lowBits f 1 0 = 2) (hs : lowBits f 7 5 = 4) (halone : ∀ x ∈ (s.core r.core).herds, x.pos = r.pos → x = h) :
    exec (.fence r f) s = .next (
      if Config.passesFence s.freeSeq then ({ s with freeSeq := s.freeSeq + 1 } : State).updHerd r
        (fun x => { x.next with releases := h.releases ++ [(4, s.unreached r)] })
      else { s with freeSeq := s.freeSeq + 1 }) := by
  rw [execFence_release hr hacq hb hk hs]
  refine congrArg _ (if_congr Iff.rfl (State.updHerd_congr fun x hx hpos => ?_) rfl)
  rw [halone x hx hpos]

end

/-! ## O14 rests on a free value (log 59)

Its clause on a release fence at `PACKAGE` writes the release fences of the herd that issues into every herd at its position, where the model
keeps each one's own. Two herds at one position tell them apart, but only past a fence that lets them go on, and whether one does is
`Config.passesFence`, a constant without a value: O14 holds exactly where no fence ever lets a herd go on. -/

/-- Two herds at position 0 with a store on its way, of which the second already holds a release fence; the next free value is `n`. -/
def releasingPosition (n : Nat) : State :=
  { sharedPosition with
    freeSeq := n
    cores := [{ Core.reset with herds := [sharedHerd 0x40000000, { sharedHerd 0x40000000 with releases := [(4, [])] }] }]
    reqs := [herdReq 5 5 sharedRef (sharedHerd 0x40000000) .write .home 128 []] }

/-- How many release fences each herd of core 0 holds. -/
def releaseCounts (s : State) : List Nat := (s.core 0).herds.map (fun x => x.releases.length)

/-- A release fence at `PACKAGE`. -/
def releaseFence : Fields := { form := false, pred := 7, pneg := false, dst := 0xFF, sa := 0xFF, sb := 0xFF, low := 0x82 }

theorem releasingPosition_ready (n : Nat) :
    ready (releasingPosition n) sharedRef releaseFence (fenceShape releaseFence) (sharedHerd 0x40000000) := by
  have h0 : ready (releasingPosition 0) sharedRef releaseFence (fenceShape releaseFence) (sharedHerd 0x40000000) := by decide +kernel
  exact h0

theorem releasingPosition_waits (n : Nat) : (releasingPosition n).fenceDone sharedRef releaseFence = false := by
  have h0 : (releasingPosition 0).fenceDone sharedRef releaseFence = false := by decide +kernel
  exact h0

/-- O14 holds exactly where no release fence ever lets a herd go on, which nothing decides. -/
theorem fenceAndBarrierRules_iff : Obligations.FenceAndBarrierRules ↔ ∀ n, Config.passesFence n = false := by
  constructor
  · rintro ⟨hfence, -⟩ n
    by_contra hpass
    rw [Bool.not_eq_false] at hpass
    have hready := releasingPosition_ready n
    have hwaits := releasingPosition_waits n
    obtain ⟨-, -, hclaimed⟩ := hfence _ _ _ _ _ hready rfl rfl
    have claimed := hclaimed hwaits (by decide) (by decide)
    have reached := execFence_release hready rfl hwaits (by decide) (by decide)
    have hn : (releasingPosition n).freeSeq = n := rfl
    simp only [hn, hpass, if_true] at claimed reached
    have heq := Host.Outcome.next.inj (claimed.symm.trans reached)
    have hlengths : [1, 1] = [1, 2] := congrArg releaseCounts heq
    exact absurd hlengths (by decide)
  · intro hnever
    refine ⟨fun s r f h b hr hacq hb => ?_, fun s r f h => execBar_reached⟩
    subst hb
    refine ⟨execFence_done hr hacq, execFence_waits hr hacq, fun hb hk hs => ?_⟩
    rw [execFence_release hr hacq hb hk hs]
    simp only [hnever]
    rfl

end Sys2Proof.Machine
end

section
/-! PROOF. The tags of an LLC half and the masks of their sectors: what a change of one tag and a lookup leave. -/
namespace Sys2Proof.Machine

/-! ## Changes of lines that keep their place -/

/-- A change of a line that keeps its number, its way and whether it is pinned. -/
def Line.KeepsPlace (g : Line → Line) : Prop := ∀ l, (g l).line = l.line ∧ (g l).way = l.way ∧ (g l).pinned = l.pinned

/-- A lookup changes nothing but marks of lines that say which was used last. -/
theorem State.touch_eq (s : State) (line : Nat) : ∃ g, Line.KeepsPlace g ∧ s.touch line = { s with llc := s.llc.map g } := by
  have hnone : ∃ g, Line.KeepsPlace g ∧ s = { s with llc := s.llc.map g } := ⟨id, fun _ => ⟨rfl, rfl, rfl⟩, by simp⟩
  unfold State.touch
  split
  · exact hnone
  · split
    · exact hnone
    · refine ⟨_, fun l => ?_, rfl⟩
      split_ifs <;> exact ⟨rfl, rfl, rfl⟩

/-! ## Tags and masks of sectors (06 R128, R147) -/

theorem State.tag?_updTag (s : State) (line : Nat) {f : Line → Line} (hf : ∀ l, (f l).line = l.line) :
    (s.updTag line f).tag? line = (s.tag? line).map f :=
  find?_updWhere (fun l hl => by simpa [hf] using hl) s.llc

section
variable {k i : Nat} (hi : i < 8) (m : BitVec 8)
include hi

theorem sectorMask_getLsbD : ((1 <<< k : Nat) : BitVec 8).getLsbD i = decide (i = k) := by
  rw [BitVec.natCast_eq_ofNat, BitVec.getLsbD_ofNat, Nat.one_shiftLeft, Nat.testBit_two_pow, decide_eq_true hi, Bool.true_and]
  exact decide_eq_decide.mpr eq_comm

theorem setSector_getLsbD : (m ||| ((1 <<< k : Nat) : BitVec 8)).getLsbD i = (m.getLsbD i || decide (i = k)) := by
  rw [BitVec.getLsbD_or, sectorMask_getLsbD hi]

theorem clearSector_getLsbD : (m &&& ~~~((1 <<< k : Nat) : BitVec 8)).getLsbD i = (m.getLsbD i && !decide (i = k)) := by
  rw [BitVec.getLsbD_and, BitVec.getLsbD_not, sectorMask_getLsbD hi, decide_eq_true hi, Bool.true_and]

end

end Sys2Proof.Machine
end

section
/-! PROOF. Dead sectors: what a declaration leaves of its line, and what a read of a sector meets. -/
namespace Sys2Proof.Machine

/-! ## Dead declarations (06 R147, R149, R150) -/

/-- A line whose sector `i` has been declared dead. -/
def Line.declared (l : Line) (i : Nat) (chk : Bool) : Line :=
  let b : BitVec 8 := 1 <<< i
  { l with valid := l.valid &&& ~~~b, dirty := l.dirty &&& ~~~b, dead := l.dead ||| b, poison := l.poison &&& ~~~b,
           under := l.under &&& ~~~b, deadChk := if chk then l.deadChk ||| b else l.deadChk }

section
variable (l : Line) (k : Nat) (chk : Bool) {i : Nat} (hi : i < 8)
include hi

theorem Line.declared_valid : (l.declared k chk).valid.getLsbD i = (l.valid.getLsbD i && !decide (i = k)) := clearSector_getLsbD hi _

theorem Line.declared_dirty : (l.declared k chk).dirty.getLsbD i = (l.dirty.getLsbD i && !decide (i = k)) := clearSector_getLsbD hi _

theorem Line.declared_poison : (l.declared k chk).poison.getLsbD i = (l.poison.getLsbD i && !decide (i = k)) := clearSector_getLsbD hi _

theorem Line.declared_dead : (l.declared k chk).dead.getLsbD i = (l.dead.getLsbD i || decide (i = k)) := setSector_getLsbD hi _

theorem Line.declared_deadChk : (l.declared k true).deadChk.getLsbD i = (l.deadChk.getLsbD i || decide (i = k)) := setSector_getLsbD hi _

end

theorem State.declareDead_tagged {s : State} {sec : Nat} {l : Line} (chk : Bool) (hl : s.tag? (sec / 8) = some l) (hp : l.pinned = false)
    (hw : inWindow (sec * 32) = false) (he : s.inOpenEpoch (sec / 8) = false) :
    s.declareDead sec chk = s.updTag (sec / 8) (fun l => l.declared (sec % 8) chk) := by
  simp only [State.declareDead, hl, hp, hw, he]
  rfl

/-! ## Reads of a context (06 R148, R149, 11 R265, 16 R371) -/

/-- Outside its epochs a context reads the ordinary line. -/
theorem State.ctxReadSector_of_epochOf_none {s : State} {c : CtxRef} {sec : Nat} (h : s.epochOf c (sec / 8) = none) :
    s.ctxReadSector c sec = State.ctxReadSector.ordinary s c sec := by
  simp only [State.ctxReadSector, h]

/-- Settles O30: a declaration changes one bit of each mask of its line's tag, and a read tries poison mode, deadness and poison in turn. -/
theorem deadSectorRules : Obligations.DeadSectorRules := by
  unfold Obligations.DeadSectorRules
  refine ⟨fun s sec chk l hl hp hw he => ?_, fun s c sec h => ?_⟩
  · have hbit : sec % 8 < 8 := Nat.mod_lt _ (by decide)
    rw [State.declareDead_tagged chk hl hp hw he]
    have htag : (s.updTag (sec / 8) (fun l => l.declared (sec % 8) chk)).tag? (sec / 8) = some (l.declared (sec % 8) chk) := by
      rw [State.tag?_updTag s _ (f := fun l => l.declared (sec % 8) chk) (fun _ => rfl), hl]
      rfl
    refine ⟨_, htag, ?_, ?_, ?_, ?_, fun hchk => ?_, fun i hi hne => ⟨?_, ?_, ?_⟩, rfl, rfl⟩
    · simp [Line.declared_valid _ _ _ hbit]
    · simp [Line.declared_dirty _ _ _ hbit]
    · simp [Line.declared_dead _ _ _ hbit]
    · simp [Line.declared_poison _ _ _ hbit]
    · simp [hchk, Line.declared_deadChk _ _ hbit]
    · simp [Line.declared_valid _ _ _ hi, hne]
    · simp [Line.declared_dirty _ _ _ hi, hne]
    · simp [Line.declared_dead _ _ _ hi, hne]
  · rw [State.ctxReadSector_of_epochOf_none h]
    unfold State.ctxReadSector.ordinary
    refine ⟨fun hd => ?_, fun hd hdead hchk => ?_, fun hd hok hpois => ?_, fun hd hdead hchk hpois => ?_, fun hd hdead hpois => ?_⟩
    · rw [if_pos hd]
    · simp [hd, hdead, hchk]
    · rcases hok with hok | hok <;> simp [hd, hok, hpois]
    · simp [hd, hdead, hchk, hpois]
    · simp [hd, hdead, hpois]

end Sys2Proof.Machine
end

section
/-! PROOF. What a home writes to a sector is what a read of it returns. -/
namespace Sys2Proof.Machine

/-! ## The write queues leave the tags (11 R262) -/

/-- What no write to HBM changes: the lines of the halves, their bytes, the configuration. -/
def State.homeView (s : State) : List Line × Memory × Cf := (s.llc, s.mem, s.cf)

theorem State.issueWrite_homeView (s : State) (sec : Nat) : (s.issueWrite sec).homeView = s.homeView := by
  have issued : ∀ (t : State) (i : Option Nat) (k p n : Nat), t.homeView = s.homeView →
      (t.countEvent i k p n).homeView = s.homeView := fun _ _ _ _ _ h => h
  have lost : ∀ (t : State) (r c u cls sev src info : Nat), t.homeView = s.homeView →
      ((t.hbmCount r c u).postError cls sev src info).homeView = s.homeView := fun _ _ _ _ _ _ _ _ h => h
  have marked : ∀ (t : State) (p d : List Nat) (b : Memory), t.homeView = s.homeView →
      State.homeView { t with poisonMarks := p, deadMarks := d, back := b } = s.homeView := fun _ _ _ _ h => h
  unfold State.issueWrite
  dsimp only
  split_ifs
  · exact marked _ _ _ _ (lost _ _ _ _ _ _ _ _ (issued _ _ _ _ _ rfl))
  · exact issued _ _ _ _ _ rfl

theorem State.drainWq_homeView (s : State) (a : Nat) : (s.drainWq a).homeView = s.homeView := by
  unfold State.drainWq
  dsimp only
  split_ifs
  · rfl
  · exact foldl_keeps (p := fun t : State => t.homeView = s.homeView) (fun t sec ht => (t.issueWrite_homeView sec).trans ht) _ _ rfl

theorem State.queueWrite_homeView (s : State) (sec : Nat) : (s.queueWrite sec).homeView = s.homeView := State.drainWq_homeView _ _

theorem State.writeBack_homeView (s : State) (l : Line) : (s.writeBack l).homeView = s.homeView := by
  refine foldl_keeps (p := fun t : State => t.homeView = s.homeView) (fun t i ht => ?_) _ s rfl
  have kept : ∀ (b : Memory) (d p : List Nat), State.homeView { t with back := b, deadMarks := d, poisonMarks := p } = s.homeView :=
    fun _ _ _ => ht
  have queued : ∀ (b : Memory) (d p : List Nat) (sec : Nat),
      (State.queueWrite { t with back := b, deadMarks := d, poisonMarks := p } sec).homeView = s.homeView :=
    fun b d p sec => (State.queueWrite_homeView _ sec).trans (kept b d p)
  dsimp only
  split_ifs
  · exact ht
  · exact queued _ _ _ _
  · exact ht
  · exact queued _ _ _ _
  · exact queued _ _ _ _
  · exact ht

/-! ## The pinned lines (06 R136, R139) -/

/-- The pinned lines of the halves, with their ways. -/
def pinsOf (ls : List Line) : List (Nat × Nat) := (ls.filter (fun l => l.pinned)).map (fun l => (l.line, l.way))

theorem pinsOf_map {g : Line → Line} (hg : Line.KeepsPlace g) (ls : List Line) : pinsOf (ls.map g) = pinsOf ls := by
  induction ls with
  | nil => rfl
  | cons l ls ih =>
    obtain ⟨hline, hway, hpin⟩ := hg l
    unfold pinsOf at ih ⊢
    cases hl : l.pinned <;> simp [hl, hpin, hline, hway, ih]

theorem pinsOf_append_unpinned {l : Line} (hl : l.pinned = false) (ls : List Line) : pinsOf (ls ++ [l]) = pinsOf ls := by
  simp [pinsOf, hl]

theorem pinsOf_filter {p : Line → Bool} {ls : List Line} (hp : ∀ l ∈ ls, p l = false → l.pinned = false) :
    pinsOf (ls.filter p) = pinsOf ls := by
  unfold pinsOf
  rw [List.filter_filter]
  congr 1
  refine List.filter_congr (fun l hl => ?_)
  cases hpl : p l
  · simp [hp l hl hpl]
  · simp

/-- The line that a pin shows at window address `a`. -/
def State.shows (s : State) (a : Nat) (p : Nat × Nat) : Bool :=
  p.2 = windowOff a / 2 ^ 24 && s.homeRegion (p.1 * 256) = windowSlot a && s.setOf (p.1 * 256) = windowOff a % 2 ^ 24 / 256

theorem State.aliased_line (s : State) (a : Nat) :
    (s.aliased a).map (fun l => l.line) = if inWindow a then ((pinsOf s.llc).find? (s.shows a)).map Prod.fst else none := by
  unfold State.aliased
  split_ifs
  · unfold pinsOf
    rw [List.find?_map, List.find?_filter, Option.map_map]
    simp [Function.comp_def, State.shows, Bool.and_assoc]
  · rfl

theorem State.canonSec_eq (s : State) (sec : Nat) :
    s.canonSec sec = ((s.aliased (sec * 32)).map (fun l => l.line)).elim sec (fun n => n * 8 + secBit sec) := by
  unfold State.canonSec
  cases s.aliased (sec * 32) <;> rfl

theorem State.homeRegion_congr {s t : State} (h : t.cf = s.cf) : t.homeRegion = s.homeRegion := by
  funext a
  unfold State.homeRegion State.placeWord
  rw [h]

theorem State.setOf_congr {s t : State} (h : t.cf = s.cf) : t.setOf = s.setOf := by
  funext a
  unfold State.setOf State.lineIndex State.shareGranule State.placeWord
  rw [h]

/-- Which sector keeps a sector's state depends on the pinned lines and the configuration. -/
theorem State.canonSec_congr {s t : State} (hp : pinsOf t.llc = pinsOf s.llc) (hc : t.cf = s.cf) (sec : Nat) : t.canonSec sec = s.canonSec sec := by
  have hshows : t.shows = s.shows := by
    funext a p
    rw [State.shows, State.shows, State.homeRegion_congr hc, State.setOf_congr hc]
  simp only [State.canonSec_eq, State.aliased_line, hp, hshows]

theorem State.canonSec_canonSec {s : State} {sec : Nat} (h : inWindow (s.canonSec sec * 32) = true → s.canonSec sec = sec) :
    s.canonSec (s.canonSec sec) = s.canonSec sec := by
  by_cases hw : inWindow (s.canonSec sec * 32) = true
  · rw [h hw, h hw]
  · have hnone : s.aliased (s.canonSec sec * 32) = none := if_neg hw
    rw [State.canonSec_eq (sec := s.canonSec sec), hnone]
    rfl

/-! ## Allocation (06 R130, R136) -/

theorem State.tag?_isSome_iff {s : State} {line : Nat} : (s.tag? line).isSome = true ↔ line ∈ s.llc.map (fun l => l.line) := by
  simp [State.tag?]

theorem victimIn_mem {lines : List Line} {room choice : Nat} {v : Line} (h : victimIn lines room choice = some v) : v ∈ lines := by
  unfold victimIn at h
  split_ifs at h
  split at h
  · cases h
    exact List.mem_of_find?_eq_some ‹_›
  · split at h
    · cases h
      exact List.mem_of_find?_eq_some ‹_›
    · have hmem := List.mem_of_getElem? h
      split_ifs at hmem
      · exact hmem
      · exact List.mem_of_mem_filter hmem

theorem State.victimFor_mem {s : State} {inst : Option Nat} {line choice : Nat} {v : Line} (h : s.victimFor inst line choice = some v) :
    v ∈ s.llc ∧ v.pinned = false := by
  obtain ⟨hmem, hpeer⟩ := List.mem_filter.mp (victimIn_mem h)
  simp only [Bool.and_eq_true, Bool.not_eq_true', and_assoc] at hpeer
  exact ⟨hmem, hpeer.1⟩

/-- A home keeps its bytes, its pins and its configuration from `s` to `t`. -/
structure State.Stays (s t : State) : Prop where
  mem : t.mem = s.mem
  cf : t.cf = s.cf
  pins : pinsOf t.llc = pinsOf s.llc

theorem State.Stays.trans {s t u : State} (h : s.Stays t) (k : t.Stays u) : s.Stays u :=
  ⟨k.mem.trans h.mem, k.cf.trans h.cf, k.pins.trans h.pins⟩

theorem State.stays_touch (s : State) (line : Nat) : s.Stays (s.touch line) := by
  obtain ⟨g, hg, he⟩ := s.touch_eq line
  rw [he]
  exact ⟨rfl, rfl, pinsOf_map hg _⟩

theorem State.tag?_touch_isSome {s : State} {line : Nat} (n : Nat) (h : (s.tag? line).isSome = true) : ((s.touch n).tag? line).isSome = true := by
  obtain ⟨g, hg, he⟩ := s.touch_eq n
  rw [State.tag?_isSome_iff] at h ⊢
  simpa [he, (hg _).1] using h

/-- An unpinned line that leaves takes no pin with it. -/
theorem State.stays_evict {s : State} {v : Line} (hn : (s.llc.map (fun l => l.line)).Nodup) (hv : v ∈ s.llc) (hp : v.pinned = false) :
    s.Stays (s.evict v.line) := by
  unfold State.evict
  split
  · exact ⟨rfl, rfl, rfl⟩
  · rename_i l _
    have hview := s.writeBack_homeView l
    simp only [State.homeView, Prod.mk.injEq] at hview
    obtain ⟨hllc, hmem, hcf⟩ := hview
    refine ⟨hmem, hcf, ?_⟩
    dsimp only
    rw [hllc]
    refine pinsOf_filter (fun x hx hxv => ?_)
    rw [List.inj_on_of_nodup_map hn hx hv (by simpa using hxv)]
    exact hp

/-- An allocation lists the line behind those that its victim leaves, and looks it up unless it is a stream line. -/
theorem State.allocate_eq {s : State} {inst : Option Nat} {line choice : Nat} {stream : Bool} (hn : (s.llc.map (fun l => l.line)).Nodup)
    (h : s.tag? line = none) :
    ∃ (t : State) (l : Line), s.Stays t ∧ l.line = line ∧ l.pinned = false ∧
      s.allocate inst line choice stream = (if stream then { t with llc := t.llc ++ [l] } else State.touch { t with llc := t.llc ++ [l] } line) := by
  simp only [State.allocate, h]
  cases hv : s.victimFor inst line choice with
  | none => exact ⟨s, _, ⟨rfl, rfl, rfl⟩, rfl, rfl, rfl⟩
  | some v =>
    obtain ⟨hmem, hpin⟩ := State.victimFor_mem hv
    exact ⟨_, _, State.stays_evict hn hmem hpin, rfl, rfl, rfl⟩

theorem State.stays_append {s : State} {l : Line} (hl : l.pinned = false) : s.Stays { s with llc := s.llc ++ [l] } :=
  ⟨rfl, rfl, pinsOf_append_unpinned hl _⟩

/-- After an allocation its line has a tag, and the home stays. -/
theorem State.allocate_stays {s : State} (hn : (s.llc.map (fun l => l.line)).Nodup) (inst : Option Nat) (line choice : Nat) (stream : Bool) :
    s.Stays (s.allocate inst line choice stream) ∧ ((s.allocate inst line choice stream).tag? line).isSome = true := by
  cases h : s.tag? line with
  | some l =>
    have hsame : s.allocate inst line choice stream = s := by simp only [State.allocate, h]
    rw [hsame, h]
    exact ⟨⟨rfl, rfl, rfl⟩, rfl⟩
  | none =>
    obtain ⟨t, l, ht, hline, hpin, he⟩ := State.allocate_eq (inst := inst) (choice := choice) (stream := stream) hn h
    have hstay := ht.trans (State.stays_append hpin)
    have htag : (State.tag? { t with llc := t.llc ++ [l] } line).isSome = true := State.tag?_isSome_iff.mpr (by simp [hline])
    rw [he]
    cases stream with
    | true => exact ⟨hstay, htag⟩
    | false => exact ⟨hstay.trans (State.stays_touch _ _), State.tag?_touch_isSome _ htag⟩

/-! ## A sector is written (06 R130) -/

/-- A line whose sector `i` has been written. -/
def Line.written (l : Line) (i : Nat) : Line :=
  let b : BitVec 8 := 1 <<< i
  { l with valid := l.valid ||| b, dirty := l.dirty ||| b, dead := l.dead &&& ~~~b, deadChk := l.deadChk &&& ~~~b,
           poison := l.poison &&& ~~~b, under := l.under &&& ~~~b }

theorem secBit_lt (sec : Nat) : secBit sec < 8 := Nat.mod_lt _ (by decide)

section
variable (l : Line) {k : Nat} (hk : k < 8)
include hk

theorem Line.written_valid : (l.written k).valid.getLsbD k = true := by
  rw [Line.written, setSector_getLsbD hk, decide_eq_true rfl, Bool.or_true]

theorem Line.written_dead : (l.written k).dead.getLsbD k = false := by
  rw [Line.written, clearSector_getLsbD hk, decide_eq_true rfl, Bool.not_true, Bool.and_false]

end

/-- New bytes are put in a sector. -/
def State.putSector (s : State) (sec : Nat) (new : List Byte) : State :=
  ({ s with mem := writeBytes s.mem (s.storeAddr (sec * 32)) new
            deadMarks := s.deadMarks.erase sec, poisonMarks := s.poisonMarks.erase sec } : State).updTag (sec / 8) (fun l => l.written (secBit sec))

/-- The state in which a write finds its sector's half: its line has a tag, and what the sector held is kept. -/
def State.enterSector (s : State) (inst : Option Nat) (sec choice : Nat) : State :=
  (if inWindow (sec * 32) then s else (s.allocate inst (sec / 8) choice false).touch (sec / 8)).remember sec (s.secBytes sec)

/-- A write that is not dropped: the sector is entered, and the new bytes are put over the old. -/
theorem State.writeSector_eq {s : State} (inst : Option Nat) {sec : Nat} (choice : Nat) {bs : List (Nat × Byte)}
    (hd : s.poisonMode.getLsbD (s.homeRegion (s.canonSec sec * 32)) = false)
    (hp : s.secPoisoned (s.canonSec sec) = false ∨ (List.range 32).all (fun o => bs.any (fun x => x.1 = o)) = true) :
    s.writeSector inst sec choice bs = (s.enterSector inst (s.canonSec sec) choice).putSector (s.canonSec sec)
      (bs.foldl (fun acc x => acc.set x.1 x.2) (s.secBytes (s.canonSec sec))) := by
  unfold State.writeSector
  dsimp only
  rw [if_neg (by simp [hd]), if_neg (by rcases hp with hp | hp <;> simp [hp])]
  rfl

theorem State.remember_eq (s : State) (sec : Nat) (old : List Byte) : ∃ h n, s.remember sec old = { s with hist := h, histSeq := n } := by
  unfold State.remember
  split_ifs
  · exact ⟨[], s.histSeq, rfl⟩
  · exact ⟨_, _, rfl⟩

theorem State.enterSector_stays {s : State} (hn : (s.llc.map (fun l => l.line)).Nodup) (inst : Option Nat) (sec choice : Nat) :
    s.Stays (s.enterSector inst sec choice) ∧
      (if inWindow (sec * 32) then (s.enterSector inst sec choice).deadMarks = s.deadMarks
       else ((s.enterSector inst sec choice).tag? (sec / 8)).isSome = true) := by
  unfold State.enterSector
  obtain ⟨h, n, he⟩ :=
    State.remember_eq (if inWindow (sec * 32) then s else (s.allocate inst (sec / 8) choice false).touch (sec / 8)) sec (s.secBytes sec)
  rw [he]
  split_ifs
  · exact ⟨⟨rfl, rfl, rfl⟩, rfl⟩
  · obtain ⟨hstay, htag⟩ := State.allocate_stays hn inst (sec / 8) choice false
    have hall := hstay.trans (State.stays_touch _ (sec / 8))
    exact ⟨⟨hall.mem, hall.cf, hall.pins⟩, State.tag?_touch_isSome _ htag⟩

section
variable {s : State} {sec : Nat} (new : List Byte)

theorem State.putSector_keeps : (s.putSector sec new).cf = s.cf ∧ pinsOf (s.putSector sec new).llc = pinsOf s.llc :=
  ⟨rfl, pinsOf_map (fun l => by split_ifs <;> exact ⟨rfl, rfl, rfl⟩) _⟩

theorem State.tag?_putSector : (s.putSector sec new).tag? (sec / 8) = (s.tag? (sec / 8)).map (fun l => l.written (secBit sec)) :=
  State.tag?_updTag _ _ (f := fun l => l.written (secBit sec)) (fun _ => rfl)

theorem State.storeAddr_putSector : (s.putSector sec new).storeAddr (sec * 32) = s.storeAddr (sec * 32) := by
  have hline : sec * 32 / 256 = sec / 8 := by omega
  unfold State.storeAddr
  rw [hline, State.tag?_putSector, State.homeRegion_congr (State.putSector_keeps new).1, State.setOf_congr (State.putSector_keeps new).1]
  cases s.tag? (sec / 8) <;> rfl

variable (hs : inWindow (sec * 32) = true ∧ s.deadMarks.count sec ≤ 1 ∨ (s.tag? (sec / 8)).isSome = true)
include hs

theorem State.secMarked_putSector : (s.putSector sec new).secMarked sec = false := by
  unfold State.secMarked
  rw [State.tag?_putSector]
  cases htag : s.tag? (sec / 8) with
  | some l =>
    dsimp only [Option.map_some]
    rw [l.written_dead (secBit_lt sec), l.written_valid (secBit_lt sec)]
    rfl
  | none =>
    obtain ⟨-, hcount⟩ := hs.resolve_right (by simp [htag])
    have herase : (s.deadMarks.erase sec).count sec = 0 := by rw [List.count_erase_self]; omega
    have hgone : sec ∉ (s.putSector sec new).deadMarks := List.count_eq_zero.mp herase
    simpa using hgone

theorem State.secValid_putSector : (s.putSector sec new).secValid sec = true := by
  unfold State.secValid
  rw [State.tag?_putSector]
  rcases hs with ⟨hwin, -⟩ | htag
  · rw [hwin, Bool.true_or]
  · obtain ⟨l, hl⟩ := Option.isSome_iff_exists.mp htag
    rw [hl]
    dsimp only [Option.map_some]
    rw [l.written_valid (secBit_lt sec), Bool.or_true, Bool.or_true]

end

/-- What is put in a sector of a canonical memory is what a read of the sector returns. -/
theorem State.secBytes_putSector {s : State} {sec : Nat} {new : List Byte} (hw : s.mem.wf = true) (hlen : new.length = 32)
    (hs : inWindow (sec * 32) = true ∧ s.deadMarks.count sec ≤ 1 ∨ (s.tag? (sec / 8)).isSome = true) {sec' : Nat}
    (hc : (s.putSector sec new).canonSec sec' = sec) : (s.putSector sec new).secBytes sec' = new := by
  unfold State.secBytes
  dsimp only
  rw [hc, State.secMarked_putSector new hs, State.secValid_putSector new hs, State.storeAddr_putSector]
  have hread := readBytes_writeBytes new (s.storeAddr (sec * 32)) hw
  rw [hlen] at hread
  exact hread

theorem State.secBytes_length (s : State) (sec : Nat) : (s.secBytes sec).length = 32 := by
  unfold State.secBytes
  dsimp only
  split_ifs <;> simp

/-- Bytes set one by one leave the length. -/
theorem foldl_set_length {α : Type} (bs : List (Nat × α)) (l : List α) : (bs.foldl (fun acc x => acc.set x.1 x.2) l).length = l.length :=
  foldl_keeps (p := fun m : List α => m.length = l.length) (fun _ _ hm => (List.length_set ..).trans hm) bs l rfl

/-- Settles O31: the write puts its bytes in the sector that the window shows, and leaves the pins by which a read finds it. -/
theorem homeWriteReadBack : Obligations.HomeWriteReadBack := by
  unfold Obligations.HomeWriteReadBack
  intro s inst sec choice bs hw hn hwin hd hp hcount
  obtain ⟨hstay, hent⟩ := State.enterSector_stays hn inst (s.canonSec sec) choice
  have hold : s.secBytes (s.canonSec sec) = s.secBytes sec := by
    unfold State.secBytes
    rw [State.canonSec_canonSec hwin]
  rw [State.writeSector_eq inst choice hd hp, hold]
  refine State.secBytes_putSector (hstay.mem ▸ hw) ((foldl_set_length _ _).trans (State.secBytes_length _ _)) ?_ ?_
  · split_ifs at hent with hin
    · exact .inl ⟨hin, hent ▸ hcount⟩
    · exact .inr hent
  · obtain ⟨hcf, hpins⟩ := State.putSector_keeps (s := s.enterSector inst (s.canonSec sec) choice) (sec := s.canonSec sec)
      (bs.foldl (fun acc x => acc.set x.1 x.2) (s.secBytes sec))
    exact State.canonSec_congr (hpins.trans hstay.pins) (hcf.trans hstay.cf) sec

end Sys2Proof.Machine
end

section
/-! PROOF. The banks of the homes: what the rows that bring a request to its bank do, and what a bank that performs one leaves. -/
namespace Sys2Proof.Machine
open Sys2Proof.Claims

/-! ## A request comes to its bank (06 R128, 08 R185) -/

/-- What is queued under a number has the number, a home of this module, and has not been performed. -/
theorem State.queued?_eq_some {s : State} {rid : Nat} {x : Req} (h : s.queued? rid = some x) :
    x.rid = rid ∧ x.target = .home ∧ x.phase = .queued := by
  simpa [and_assoc] using List.find?_some h

/-- What the row of a request makes of the state before what waits at the homes goes on. -/
def State.bankCome (s : State) (x : Req) (choice : Nat) (err : LlcErr) : State :=
  if !s.running || (!s.bankq.contains x.rid && !s.pathClear x) then s
  else if !s.homeUp x.line then s.downReq x
  else (bankTakes s x err).bankArrive x choice

section
variable {s : State} {rid choice : Nat} {err : LlcErr} {x : Req} {row : Nat → Nat → LlcErr → Instr}

theorem State.bankRow_queued {ok : ReqKind → Bool} (hx : s.queued? rid = some x) (hok : ok x.kind = true) :
    s.bankRow rid choice err ok = s.bankCome x choice err := by
  have hrid := (State.queued?_eq_some hx).1
  simp only [State.bankRow, hx, hok, State.bankCome, hrid, Bool.not_true, Bool.or_false]

theorem next_bankRow {ok : ReqKind → Bool} (hx : s.queued? rid = some x) (hok : ok x.kind = true) :
    (.next (s.bankRow rid choice err ok).resume : Host.Outcome State Fault Refusal) = .next (s.bankCome x choice err).resume := by
  rw [State.bankRow_queued hx hok]

/-- Every kind's row runs the request at its bank. -/
theorem exec_bankRow (hx : s.queued? rid = some x) (hrow : bankRowOf x.kind = some row)
    (hd : ∀ chk, x.kind = .declare chk → choice = 0 ∧ err = .none) :
    exec (row rid choice err) s = .next (s.bankCome x choice err).resume := by
  cases hk : x.kind with
  | read | write | atomic | operand | add =>
    rw [hk] at hrow
    cases hrow
    exact next_bankRow hx (by rw [hk])
  | declare chk =>
    obtain ⟨rfl, rfl⟩ := hd chk hk
    rw [hk] at hrow
    cases hrow
    exact next_bankRow hx (by rw [hk])
  | fetch =>
    rw [hk] at hrow
    cases hrow

theorem State.bankCome_down (hr : s.running = true) (hup : s.homeUp x.line = false) (ha : s.bankq.contains x.rid = true ∨ s.pathClear x = true) :
    s.bankCome x choice err = s.downReq x := by
  rcases ha with ha | ha <;> simp only [State.bankCome, hr, hup, ha] <;> simp

theorem State.bankCome_up (hr : s.running = true) (hup : s.homeUp x.line = true) (ha : s.bankq.contains x.rid = true ∨ s.pathClear x = true) :
    s.bankCome x choice err = (bankTakes s x err).bankArrive x choice := by
  rcases ha with ha | ha <;> simp only [State.bankCome, hr, hup, ha] <;> simp

theorem State.bankCome_behind (hq : s.bankq.contains x.rid = false) (hp : s.pathClear x = false) : s.bankCome x choice err = s := by
  simp only [State.bankCome, hq, hp]; simp

theorem State.bankArrive_queued (h : s.bankq.contains x.rid = true) : s.bankArrive x choice = s.bankDrain x.line choice 32 := if_pos h

theorem State.bankArrive_enters (hq : s.bankq.contains x.rid = false) (hp : s.pathClear x = true) (hroom : (s.bankQueue x.line).length < 32)
    (hi : s.ingressHeld x = false) (ho : x.sectors.any (fun sec => s.inboundAt sec) = false) :
    s.bankArrive x choice = ({ s with bankq := s.bankq ++ [x.rid] } : State).bankDrain x.line choice 33 := by
  simp only [State.bankArrive, hq, hp, hi, ho, Nat.not_le.mpr hroom]; simp

theorem State.bankArrive_held (hq : s.bankq.contains x.rid = false)
    (h : 32 ≤ (s.bankQueue x.line).length ∨ s.ingressHeld x = true ∨ x.sectors.any (fun sec => s.inboundAt sec) = true) :
    s.bankArrive x choice = s := by
  rcases h with h | h | h <;> simp only [State.bankArrive, hq, h] <;> simp

/-! ## The bank serves its queue (06 R128, R142) -/

theorem State.bankDrain_served {line n : Nat} {rest : List Req} {t : State} (hq : s.bankQueue line = x :: rest)
    (h : s.bankServe x choice = (t, true)) : s.bankDrain line choice (n + 1) = t.bankDrain line choice n := by
  rw [State.bankDrain, hq]; simp only [h]

theorem State.bankDrain_waits {line n : Nat} {rest : List Req} {t : State} (hq : s.bankQueue line = x :: rest)
    (h : s.bankServe x choice = (t, false)) : s.bankDrain line choice (n + 1) = s := by
  rw [State.bankDrain, hq]; simp only [h]

theorem State.bankServe_misses (hm : s.reqMisses x = true ∨ s.behindMiss x = true)
    (hroom : s.hbmEntries.any (fun e => e.line = x.line) = true ∨ s.entriesFull (s.homeRegion (x.line * 256)) (s.bwgOf (some x.inst)) = false) :
    s.bankServe x choice = (s.joinEntry x, true) := by
  rw [State.bankServe, if_pos (by simpa using hm), if_neg]
  rcases hroom with h | h <;> simp only [h] <;> simp

section
variable (hm : s.reqMisses x = false) (hb : s.behindMiss x = false)
include hm hb

theorem State.bankServe_held (hh : s.reqHeld x choice = true) : s.bankServe x choice = (s, false) := by
  simp [State.bankServe, hm, hb, hh]

theorem State.bankServe_performs (hh : s.reqHeld x choice = false) (hs : x.streamOf x.line = false) :
    s.bankServe x choice = (s.perform x choice true, true) := by
  simp [State.bankServe, hm, hb, hh, hs]

theorem State.bankServe_stream (hh : s.reqHeld x choice = false) (hs : x.streamOf x.line = true) : s.bankServe x choice =
    (((s.countLlc (some x.inst) (x.line * 256)).joinInbound x.line).fillOut x.line (x :: s.streamPeers x) true, true) := by
  simp [State.bankServe, hm, hb, hh, hs]

end

/-- The request of a number, if it goes to the bank of a line. -/
def State.bankReq? (s : State) (line rid : Nat) : Option Req := s.reqs.find? (fun y => y.rid = rid && s.bankId y.line = s.bankId line)

theorem State.bankQueue_append (line k : Nat) :
    ({ s with bankq := s.bankq ++ [k] } : State).bankQueue line = s.bankQueue line ++ (s.bankReq? line k).toList := by
  have hsplit : ({ s with bankq := s.bankq ++ [k] } : State).bankQueue line = (s.bankq ++ [k]).filterMap (s.bankReq? line) := rfl
  rw [hsplit, List.filterMap_append]
  cases hk : s.bankReq? line k <;> simp [hk] <;> rfl

theorem State.bankReq?_of_unique (hmem : x ∈ s.reqs) (huniq : ∀ y ∈ s.reqs, y.rid = x.rid → y = x) : s.bankReq? x.line x.rid = some x := by
  cases hf : s.bankReq? x.line x.rid with
  | none => exact absurd (List.find?_eq_none.mp hf x hmem) (by simp)
  | some y =>
    have hy := List.find?_some hf
    simp only [Bool.and_eq_true, decide_eq_true_eq] at hy
    rw [huniq y (List.mem_of_find?_eq_some hf) hy.1]

/-- The request that arrives is alone in its bank's queue. -/
theorem atBank_bankQueue (h : bankArrives s rid x err) : (atBank s x err).bankQueue x.line = [x] := by
  obtain ⟨⟨hx, -⟩, hmem, huniq, -, hempty, -⟩ := h
  rw [← (State.queued?_eq_some hx).1] at huniq
  rw [State.bankQueue_append, hempty, State.bankReq?_of_unique hmem huniq]
  rfl

/-- The row of a request that arrives at a bank without a queue: the bank serves it first. -/
theorem exec_bankArrives (h : bankArrives s rid x err) (hrow : bankRowOf x.kind = some row)
    (hd : ∀ chk, x.kind = .declare chk → choice = 0 ∧ err = .none) :
    exec (row rid choice err) s = .next (((atBank s x err).bankDrain x.line choice 33).resume) := by
  obtain ⟨⟨hx, hr, hup, -, hp⟩, -, -, hq, hempty, hclear, hi, ho⟩ := h
  rw [← (State.queued?_eq_some hx).1] at hq
  rw [exec_bankRow hx hrow hd, State.bankCome_up hr hup (.inr hp), State.bankArrive_enters hq hclear (by simp [hempty]) hi ho]

theorem exec_bankArrives_served {t : State} (h : bankArrives s rid x err) (hrow : bankRowOf x.kind = some row)
    (hd : ∀ chk, x.kind = .declare chk → choice = 0 ∧ err = .none) (hs : (atBank s x err).bankServe x choice = (t, true)) :
    exec (row rid choice err) s = .next (bankRest t x choice) := by
  rw [exec_bankArrives h hrow hd, State.bankDrain_served (atBank_bankQueue h) hs]

theorem exec_bankArrives_waits {t : State} (h : bankArrives s rid x err) (hrow : bankRowOf x.kind = some row)
    (hd : ∀ chk, x.kind = .declare chk → choice = 0 ∧ err = .none) (hs : (atBank s x err).bankServe x choice = (t, false)) :
    exec (row rid choice err) s = .next (atBank s x err).resume := by
  rw [exec_bankArrives h hrow hd, State.bankDrain_waits (atBank_bankQueue h) hs]

/-- The row of a request that its bank performs alone. -/
theorem exec_bankReady (h : bankReady s rid choice x err) (hrow : bankRowOf x.kind = some row)
    (hd : ∀ chk, x.kind = .declare chk → choice = 0 ∧ err = .none) (hs : x.streamOf x.line = false) :
    exec (row rid choice err) s = .next (bankRest ((atBank s x err).perform x choice true) x choice) := by
  obtain ⟨ha, hm, hb, hh⟩ := h
  exact exec_bankArrives_served ha hrow hd (State.bankServe_performs hm hb hh hs)

/-! ## Performing a request (06 R143, R148, 07 R156, 11 R265) -/

theorem Req.streamOf_of_stream {line : Nat} (h : x.stream = false) : x.streamOf line = false := by simp [Req.streamOf, h]

theorem Req.streamOf_of_fetches {line : Nat} (h : x.fetches = false) : x.streamOf line = false := by simp [Req.streamOf, h]

theorem bankRowOf_read (hk : x.kind = .read ∨ ∃ op, x.kind = .operand op) : bankRowOf x.kind = some .bankAccess := by
  rcases hk with hk | ⟨op, hk⟩ <;> rw [hk] <;> rfl

theorem kind_ne_declare_of_read (hk : x.kind = .read ∨ ∃ op, x.kind = .operand op) {chk : Bool} : x.kind ≠ .declare chk := by
  rcases hk with hk | ⟨op, hk⟩ <;> simp [hk]

/-- The row of a stream read: what waits for its line is served with it. -/
theorem exec_bankAccess_stream (h : bankReady s rid choice x err) (hk : x.kind = .read ∨ ∃ op, x.kind = .operand op) (hs : x.stream = true) :
    exec (.bankAccess rid choice err) s =
      .next (bankRest (((banked s x err).joinInbound x.line).fillOut x.line (x :: (atBank s x err).streamPeers x) true) x choice) := by
  obtain ⟨ha, hm, hb, hh⟩ := h
  have htarget := (State.queued?_eq_some ha.1.1).2.1
  have hstream : x.streamOf x.line = true := by rcases hk with hk | ⟨op, hk⟩ <;> simp [Req.streamOf, Req.fetches, hk, hs, htarget]
  exact exec_bankArrives_served ha (bankRowOf_read hk) (fun _ hc => absurd hc (kind_ne_declare_of_read hk))
    (State.bankServe_stream hm hb hh hstream)

section
variable (h : bankReady s rid choice x err)
include h

theorem exec_bankAccess_read (hk : x.kind = .read ∨ ∃ op, x.kind = .operand op) (hs : x.stream = false) :
    exec (.bankAccess rid choice err) s = .next (bankRest ((banked s x err).fillOut x.line [x] true) x choice) := by
  rw [exec_bankReady h (bankRowOf_read hk) (fun _ hc => absurd hc (kind_ne_declare_of_read hk)) (Req.streamOf_of_stream hs)]
  rcases hk with hk | ⟨op, hk⟩ <;> simp only [State.perform, hk]

theorem exec_bankAccess_write (hk : x.kind = .write) :
    exec (.bankAccess rid choice err) s = .next (bankRest ((banked s x err).performWrite x choice).drainEvents x choice) := by
  rw [exec_bankReady h (by rw [hk]; rfl) (by simp [hk]) (Req.streamOf_of_fetches (by simp [Req.fetches, hk]))]
  simp only [State.perform, hk]

theorem exec_bankAccess_atomic {aop size : Nat} (hk : x.kind = .atomic aop size) :
    exec (.bankAccess rid choice err) s = .next (bankRest ((banked s x err).performAtomic x aop choice) x choice) := by
  rw [exec_bankReady h (by rw [hk]; rfl) (by simp [hk]) (Req.streamOf_of_fetches (by simp [Req.fetches, hk]))]
  simp only [State.perform, hk]

theorem exec_addRequest {lf opf : Nat} (hk : x.kind = .add lf opf) :
    exec (.addRequest rid choice err) s = .next (bankRest ((banked s x err).performAdd x lf opf choice) x choice) := by
  rw [exec_bankReady (row := .addRequest) h (by rw [hk]; rfl) (by simp [hk]) (Req.streamOf_of_fetches (by simp [Req.fetches, hk]))]
  simp only [State.perform, hk]

end

theorem exec_deadDeclaration {chk : Bool} (h : bankReady s rid 0 x .none) (hk : x.kind = .declare chk) :
    exec (.deadDeclaration rid) s = .next (bankRest ((banked s x .none).performDeclare x chk) x 0) := by
  rw [exec_bankReady (row := fun rid _ _ => .deadDeclaration rid) h (by rw [hk]; rfl) (by simp)
    (Req.streamOf_of_fetches (by simp [Req.fetches, hk]))]
  simp only [State.perform, hk]

theorem State.performAtomic_of_fault_none {aop : Nat} (h : x.fault (x.sectors.map (fun sec => (sec, s.ctxReadSector x.ctxRef sec))) = none) :
    s.performAtomic x aop choice =
      (let res := x.lanes.foldl (fun (p : State × List (Nat × Nat)) l =>
          let r := p.1.swapElem x.ctxRef l choice (fun old => atomNew aop l.size old l.data l.cmp)
          (r.1, p.2 ++ [(l.lane, r.2)]))
        ((s.endReq x).countReread x.ctxRef (rereads (x.sectors.map (fun sec => (sec, s.ctxReadSector x.ctxRef sec)))), [])
      (res.1.deliver x res.2).acquireEnd x) := by
  simp only [State.performAtomic, h]

/-- An add whose sectors are neither poisoned nor fatally dead is performed in all its lanes. -/
theorem State.performAdd_of_clean {lf opf : Nat}
    (h : ∀ sec ∈ x.sectors, s.ctxReadSector x.ctxRef sec ≠ .deadFatal ∧ s.ctxReadSector x.ctxRef sec ≠ .poison) :
    s.performAdd x lf opf choice = x.lanes.foldl (fun t l =>
        (t.swapElem x.ctxRef l choice (fun old => lineAdds lf opf (l.size / fmtBytes lf) old l.data)).1)
      ((s.endReq x).countReread x.ctxRef (rereads (x.sectors.map (fun sec => (sec, s.ctxReadSector x.ctxRef sec))))) := by
  have hall : ∀ r ∈ x.sectors.map (fun sec => (sec, s.ctxReadSector x.ctxRef sec)), r.2 ≠ .deadFatal ∧ r.2 ≠ .poison :=
    List.forall_mem_map.mpr h
  unfold State.performAdd
  dsimp only
  generalize x.sectors.map (fun sec => (sec, s.ctxReadSector x.ctxRef sec)) = rs at hall ⊢
  have hdead : x.lanes.find? (fun l => rs.any (fun r => r.1 = l.pa / 32 && r.2 = .deadFatal)) = none := by
    simp only [List.find?_eq_none, List.any_eq_true, Bool.and_eq_true, decide_eq_true_eq]
    rintro l - ⟨r, hr, -, hd⟩
    exact (hall r hr).1 hd
  have hpoison : rs.filter (fun r => r.2 = .poison) = [] := by
    simp only [List.filter_eq_nil_iff, decide_eq_true_eq]
    exact fun r hr => (hall r hr).2
  have hlanes : addLanes x rs = x.lanes := by
    simp only [addLanes, List.filter_eq_self, Bool.not_eq_true', List.any_eq_false, Bool.and_eq_true, decide_eq_true_eq]
    rintro l - r hr ⟨-, hp⟩
    exact (hall r hr).2 hp
  rw [hdead, hpoison, hlanes]
  rfl

/-! ## A read's data leaves the home (06 R143 to R145) -/

theorem State.countReread_reqs (s : State) (c : CtxRef) (n : Nat) : (s.countReread c n).reqs = s.reqs := by
  unfold State.countReread
  split_ifs <;> rfl

theorem State.blockedOf_eq_nil {p : Replay} (h : ∀ k ∈ p.targets, ∀ y ∈ s.reqs, y.rid = k → y.blocked = false) : s.blockedOf p = [] := by
  simp only [State.blockedOf, List.filter_eq_nil_iff, List.any_eq_true, Bool.and_eq_true, decide_eq_true_eq]
  rintro k hk ⟨y, hy, ⟨hyk, hs⟩, hc⟩
  simpa [Req.blocked, hs, hc] using h k hk y hy hyk

/-- A fill without a blocked target leaves at once, and takes no replay slot. -/
theorem State.fillLeaves_of_blockedOf_nil {p : Replay} {c : Bool} {u : State} (h : s.blockedOf p = []) :
    (if (s.blockedOf p).isEmpty || c then s.fillLeaves p else u) = s := by
  simp [State.fillLeaves, h]

/-- A fill for one request that is not blocked takes no replay slot. -/
theorem State.fillOut_single {line : Nat} {hit : Bool} (h : ∀ y ∈ (s.performRead x hit).reqs, y.rid = x.rid → y.blocked = false) :
    s.fillOut line [x] hit = s.performRead x hit := by
  unfold State.fillOut
  dsimp only [List.foldl_cons, List.foldl_nil]
  split
  · rfl
  · refine State.fillLeaves_of_blockedOf_nil (State.blockedOf_eq_nil (fun k hk y hy hyk => h y hy (hyk.trans ?_)))
    obtain ⟨q, hq, rfl⟩ := List.mem_map.mp hk
    obtain ⟨z, hz, hf⟩ := List.mem_filterMap.mp hq
    obtain ⟨w, -, hw⟩ := Option.bind_eq_some_iff.mp hf
    rw [List.mem_singleton.mp hz] at hw
    split at hw <;> cases hw
    rfl

section
variable {hit : Bool} (h : x.fault (x.sectors.map (fun sec => (sec, s.ctxReadSector x.ctxRef sec))) = none)
include h

theorem State.performRead_of_fault_none :
    s.performRead x hit =
      (let rs := x.sectors.map (fun sec => (sec, s.ctxReadSector x.ctxRef sec))
       let data : BitVec 2048 := rs.foldl (fun d r => setLineBytes d (r.1 * 32) 32 (leNat r.2.bytes)) 0
       let mask : BitVec 8 := rs.foldl (fun m r => m ||| (1 <<< secBit r.1)) 0
       let t := (if hit then s.touch x.line else s).countReread x.ctxRef (rereads rs)
       let t := (t.sharers x).foldl (fun t c => t.countReread c (rereads rs)) t
       { t with
         bankq := t.bankq.erase x.rid
         reqs := updWhere (fun (y : Req) => decide (y.rid = x.rid))
           (fun (y : Req) => { y with phase := .served (x.lanes.map (fun l => (l.lane, lineBytes data l.pa l.size))) mask data }) t.reqs }) := by
  simp only [State.performRead, h]

/-- A read that meets no fault changes no request but the phase of its own. -/
theorem State.performRead_reqs :
    ∃ ph, (s.performRead x hit).reqs = updWhere (fun (y : Req) => decide (y.rid = x.rid)) (fun (y : Req) => { y with phase := ph }) s.reqs := by
  rw [State.performRead_of_fault_none h]
  refine ⟨_, congrArg (updWhere _ _) ?_⟩
  refine foldl_keeps (p := fun t : State => t.reqs = s.reqs) (fun t c ht => (t.countReread_reqs c _).trans ht) _ _ ?_
  rw [State.countReread_reqs]
  obtain ⟨g, -, hg⟩ := s.touch_eq x.line
  cases hit <;> simp [hg]

theorem State.fillOut_alone {line : Nat} (huniq : ∀ y ∈ s.reqs, y.rid = x.rid → y = x) (hc : x.stream = false ∨ x.credited = true) :
    s.fillOut line [x] hit = s.performRead x hit := by
  refine State.fillOut_single ?_
  obtain ⟨ph, hreqs⟩ := State.performRead_reqs (hit := hit) h
  rw [hreqs]
  intro y hy hyx
  obtain ⟨z, hz, rfl⟩ := List.mem_map.mp hy
  have hzx : z.rid = x.rid := by
    split_ifs at hyx <;> exact hyx
  rw [huniq z hz hzx]
  rcases hc with hc | hc <;> simp [Req.blocked, hc]

end

end

/-- Settles O42: each row runs its request at the bank, where it waits, is held, or, alone in the queue, is served first. -/
theorem bankRules : Obligations.BankRules := by
  unfold Obligations.BankRules
  refine ⟨fun s rid choice err x row hx hr hrow hd => ?_, ⟨fun s rid choice err x h => ?_, fun s rid x chk h hk => ?_, fun s x hit h => ?_⟩,
    fun s rid choice err x h hk => ?_, fun s rid choice err x row hcome hrow hd hq hi => ?_⟩
  · have hrid := (State.queued?_eq_some hx).1
    have hexec := exec_bankRow hx hrow hd
    subst hrid
    intro u
    refine ⟨fun hup ha => ?_, fun hup ha hq => ?_, fun hcome hq => ?_, fun hq hp => ?_⟩
    · rw [hexec, State.bankCome_down hr hup ha]
    · rw [hexec, State.bankCome_up hr hup (.inl ha), State.bankArrive_queued hq]
    · obtain ⟨-, -, hup, -, hp⟩ := hcome
      rw [hexec, State.bankCome_up hr hup (.inr hp)]
      exact ⟨fun hclear hroom hi ho => by rw [State.bankArrive_enters hq hclear hroom hi ho], fun hheld => by rw [State.bankArrive_held hq hheld]⟩
    · rw [hexec, State.bankCome_behind hq hp]
  · refine ⟨fun hk => ⟨exec_bankAccess_read h hk, exec_bankAccess_stream h hk⟩, exec_bankAccess_write h, fun aop size hk hf => ?_,
      fun lf opf hk hclean => ?_⟩
    · rw [exec_bankAccess_atomic h hk, State.performAtomic_of_fault_none hf]
    · rw [exec_addRequest h hk, State.performAdd_of_clean hclean]
  · exact exec_deadDeclaration h hk
  · exact ⟨State.performRead_of_fault_none h, fun huniq hc => State.fillOut_alone h huniq hc⟩
  · have hrow : bankRowOf x.kind = some .bankAccess := by rcases hk with hk | hk <;> rw [hk] <;> rfl
    have hd : ∀ chk, x.kind = .declare chk → choice = 0 ∧ err = .none := by rcases hk with hk | hk <;> simp [hk]
    exact ⟨fun hm hroom => exec_bankArrives_served h hrow hd (State.bankServe_misses hm hroom),
      fun hm hb hh => exec_bankArrives_waits h hrow hd (State.bankServe_held hm hb hh)⟩
  · obtain ⟨hx, hr, hup, -, hp⟩ := hcome
    rw [← (State.queued?_eq_some hx).1] at hq
    rw [exec_bankRow hx hrow hd, State.bankCome_up hr hup (.inr hp), State.bankArrive_held hq (.inr (.inl hi))]

end Sys2Proof.Machine
end

section
/-! PROOF. Speculation: the three commands past their checks and their list; a write to a shadow line, which changes no line of a home; and a
commit where two epochs of a context have one number. -/
namespace Sys2Proof.Machine

/-! ## A command past its checks and its ranges (01 R24, 09 R217) -/

section
variable {s : State} {c : Cmd}

theorem State.checked_of_pass {checks : List (Nat × Bool)} (h : firstFail checks = none) (go : State) : s.checked c checks go = go := by
  rw [State.checked, h]

/-- Ranges that can all be reached let the command go on. -/
theorem State.withRanges_of_reached {inst : Nat} (go : State) : ∀ {ranges : List (Want × Nat × Nat)},
    (∀ r ∈ ranges, s.rangeBad inst c.since r.1 r.2.1 r.2.2 = none) → s.withRanges c inst ranges go = go
  | [], _ => rfl
  | (want, va, len) :: rest, h => by
    obtain ⟨hfirst, hrest⟩ := List.forall_mem_cons.mp h
    rw [State.withRanges, hfirst]
    exact State.withRanges_of_reached go hrest

theorem State.countReread_zero (x : CtxRef) : s.countReread x 0 = s := if_pos rfl

@[simp] theorem State.ctx?_newChoice (x : CtxRef) : s.newChoice.ctx? x = s.ctx? x := by
  unfold State.newChoice
  split_ifs <;> rfl

/-- A list that can be reached and is read whole, without a dead sector, hands its bytes on. -/
theorem State.withList_of_read {x : CtxRef} {va len : Nat} {bs : List Byte} (hreach : s.rangeBad x.inst c.since .read va len = none)
    (hread : ((splitRange va len).map (fun p => s.listPiece c x p.1 p.2)).foldl ListRead.join (.ok [] 0) = .ok bs 0)
    (go : State → List Byte → State) : s.withList c x va len go = go s.newChoice bs := by
  rw [State.withList, State.withRanges_of_reached _ (by simpa using hreach), hread]
  exact congrArg (go · bs) (State.countReread_zero x)

end

/-- Entries that satisfy a predicate are changed alike by functions that agree on them. -/
theorem updWhere_congr {α : Type} {p : α → Bool} {f g : α → α} {l : List α} (h : ∀ a ∈ l, p a = true → f a = g a) :
    updWhere p f l = updWhere p g l :=
  List.map_congr_left fun a ha => ite_congr rfl (h a ha) fun _ => rfl

/-- Epochs under a number are changed alike by functions that agree on them. -/
theorem State.updEpoch_congr {s : State} {x : CtxRef} {n : Nat} {f g : Epoch → Epoch}
    (h : ∀ i ∈ s.insts, ∀ y ∈ i.ctxs, ∀ d ∈ y.epochs, d.num = n → f d = g d) : s.updEpoch x n f = s.updEpoch x n g := by
  unfold State.updEpoch State.updCtx State.updInst
  congr 1
  refine updWhere_congr fun i hi _ => ?_
  congr 1
  refine updWhere_congr fun y hy _ => ?_
  congr 1
  exact updWhere_congr fun d hd hnum => h i hi y hy d hd (of_decide_eq_true hnum)

/-! ## `SPEC_BEGIN`, `SPEC_COMMIT` and `SPEC_ABORT` (07 R176, R180, R181) -/

section
variable {s : State} {cid : Nat} {c : Cmd} {x : CtxRef}

/-- A list of legal ranges that share no line with each other or with an open epoch, and for which there is room, becomes an epoch. -/
theorem exec_specBegin {y : Ctx} {bs : List Byte} (hbegun : s.begun? cid 0x30 = some c) (hx : s.cmdCtx c = some x) (hy : s.ctx? x = some y)
    (hfields : firstFail [(16, c.pointer 16), (24, 1 ≤ c.field 24 4 && c.field 24 4 ≤ 4096), (28, c.zero 28 64)] = none)
    (hreach : s.rangeBad x.inst c.since .read (c.field 16 8) (16 * c.field 24 4) = none)
    (hread : ((splitRange (c.field 16 8) (16 * c.field 24 4)).map (fun p => s.listPiece c x p.1 p.2)).foldl ListRead.join (.ok [] 0) = .ok bs 0)
    {rs : List (Nat × Nat)} (hrs : rangeList bs (c.field 24 4) = rs) (hlegal : s.newChoice.rangeListBad x.inst c.since rs = none)
    {ls : List (Nat × Nat × Nat)} (hls : s.newChoice.epochLines x.inst c.since rs = ls) (hshare : sharedLine ls = false)
    (hopen : (distinct (ls.map (fun l => l.2.2))).any (fun l => s.newChoice.inOpenEpoch l) = false)
    (hcount : (y.epochs.filter (fun e => e.st != .closed)).length < 4) (hbytes : openBytes y.epochs + (rs.map Prod.snd).sum ≤ 2 ^ 26)
    (hroom : s.newChoice.noShadow x.inst (distinct (ls.map (fun l => l.2.2))) = none) :
    exec (.specBegin cid) s = .next ((s.newChoice.openEpoch x y rs ls).doneCmd cid .success y.epochNumber) := by
  have hspace : (4 ≤ (y.epochs.filter (fun e => e.st != .closed)).length || 2 ^ 26 < openBytes y.epochs + (rs.map Prod.snd).sum) = false := by
    simp only [Bool.or_eq_false_iff, decide_eq_false_iff_not, Nat.not_le, Nat.not_lt]
    exact ⟨hcount, hbytes⟩
  show execSpecBegin cid s = _
  simp only [execSpecBegin, hbegun, hx]
  rw [State.checked_of_pass hfields, State.withList_of_read hreach hread]
  simp only [State.ctx?_newChoice, hy, hrs, hlegal, hls, hshare, hopen, hspace, hroom, Bool.false_eq_true, if_false]

section
variable {e : Epoch} {bs : List Byte} (hbegun : s.begun? cid 0x31 = some c) (hx : s.cmdCtx c = some x) (he : s.openNamed x c = some e)
  (hfields : firstFail [(20, c.zero 20 24), (24, c.pointer 24), (32, c.zero 32 64)] = none)
  (hreach : s.rangeBad x.inst c.since .read (c.field 24 8) (8 * e.ranges.length) = none)
  (hread : ((splitRange (c.field 24 8) (8 * e.ranges.length)).map (fun p => s.listPiece c x p.1 p.2)).foldl ListRead.join (.ok [] 0) = .ok bs 0)
  (hkeep : ((keepList bs e.ranges.length).zip e.ranges).all (fun p => p.1 % 32 = 0 && decide (p.1 ≤ p.2.2)) = true)
include hbegun hx he hfields hreach hread hkeep

/-- What a commit makes of each epoch under the number that it names: the epoch commits with one value for each range of `e`. -/
def committed (e : Epoch) (bs : List Byte) (d : Epoch) : Epoch := { d with st := .committing, keep := keepList bs e.ranges.length }

/-- Values that the ranges can keep are taken, and the epoch commits. -/
theorem exec_specCommit : exec (.specCommit cid) s = .next ((s.newChoice.updEpoch x e.num (committed e bs)).activate cid) := by
  have hok : ((keepList bs e.ranges.length).zip e.ranges).any (fun p => p.1 % 32 != 0 || p.2.2 < p.1) = false := by
    rw [List.any_eq_false]
    intro p hp
    have hp := List.all_eq_true.mp hkeep p hp
    simpa using hp
  show execSpecCommit cid s = _
  simp only [execSpecCommit, hbegun, hx, he, Option.isSome_some]
  rw [State.checked_of_pass ((firstFail_cons_true _ _).trans hfields), State.withList_of_read hreach hread]
  exact congrArg Host.Outcome.next (if_neg (Bool.eq_false_iff.mp hok))

/-- Where one epoch alone has its number, a commit is as O32's clause on it has it: as many values as the changed epoch has ranges. -/
theorem exec_specCommit_alone (halone : ∀ i ∈ s.insts, ∀ y ∈ i.ctxs, ∀ d ∈ y.epochs, d.num = e.num → d = e) :
    exec (.specCommit cid) s = .next ((s.newChoice.updEpoch x e.num (fun d =>
      { d with st := .committing, keep := keepList bs d.ranges.length })).activate cid) := by
  obtain ⟨n, hn⟩ := s.newChoice_eq
  rw [exec_specCommit hbegun hx he hfields hreach hread hkeep, hn]
  refine congrArg (fun t : State => Host.Outcome.next (t.activate cid)) (State.updEpoch_congr fun i hi y hy d hd hnum => ?_)
  rw [halone i hi y hy d hd hnum]
  rfl

end

theorem exec_specAbort {e : Epoch} (hbegun : s.begun? cid 0x32 = some c) (hx : s.cmdCtx c = some x) (he : s.openNamed x c = some e)
    (hzero : c.zero 20 64 = true) :
    exec (.specAbort cid) s = .next ((s.updEpoch x e.num (fun e => { e with st := .aborting })).activate cid) := by
  show execSpecAbort cid s = _
  simp only [execSpecAbort, hbegun, hx, he]
  rw [State.checked_of_pass (by simp [hzero])]

end

/-! ## Shadow lines (07 R179) -/

/-- The homes keep their lines from `s` to `t`: bytes, tags, marks, and where the lines lie. -/
structure State.SameLines (s t : State) : Prop where
  mem : t.mem = s.mem
  back : t.back = s.back
  llc : t.llc = s.llc
  deadMarks : t.deadMarks = s.deadMarks
  poisonMarks : t.poisonMarks = s.poisonMarks
  cf : t.cf = s.cf

section
variable {s t : State} (h : s.SameLines t)
include h

theorem State.SameLines.tag? : t.tag? = s.tag? := by
  unfold State.tag?
  rw [h.llc]

theorem State.SameLines.secMarked : t.secMarked = s.secMarked := by
  unfold State.secMarked
  rw [h.tag?, h.deadMarks]

theorem State.SameLines.secValid : t.secValid = s.secValid := by
  unfold State.secValid
  rw [h.tag?]

theorem State.SameLines.storeAddr : t.storeAddr = s.storeAddr := by
  unfold State.storeAddr
  rw [h.tag?, State.homeRegion_congr h.cf, State.setOf_congr h.cf]

/-- What the ordinary line of a sector holds rests on nothing else. -/
theorem State.SameLines.secBytes (n : Nat) : t.secBytes n = s.secBytes n := by
  unfold State.secBytes
  rw [State.canonSec_congr (congrArg pinsOf h.llc) h.cf, h.secMarked, h.secValid, h.storeAddr, h.mem, h.back]

end

/-- A write to a shadow line is dropped, recorded as an error, or changes its epoch. -/
theorem State.sameLines_shadowWrite (s : State) (c : CtxRef) (e : Epoch) (sec : Nat) (bs : List (Nat × Byte)) :
    s.SameLines (s.shadowWrite c e sec bs) := by
  unfold State.shadowWrite
  dsimp only
  split_ifs
  all_goals exact ⟨rfl, rfl, rfl, rfl, rfl, rfl⟩

/-- What a context writes to a line of its open epoch changes no ordinary line. -/
theorem State.sameLines_ctxWriteSector {s : State} {c : CtxRef} {e : Epoch} {sec : Nat} (h : s.epochOf c (sec / 8) = some e) (choice : Nat)
    (bs : List (Nat × Byte)) : s.SameLines (s.ctxWriteSector c sec choice bs) := by
  rw [State.ctxWriteSector, h]
  exact s.sameLines_shadowWrite c e sec bs

/-! ## Two epochs under one number -/

/-- One table at 0x1000 that is its own next level; its entry 1 maps the second GiB to local address 0. -/
def localTables : Memory := [(0x1000, 0x01), (0x1001, 0x10), (0x1008, 0x0F)]

/-- An open epoch of one range. -/
def openTwin : Epoch :=
  { num := 1, st := .opened, ranges := [(0x40008000, 512)], lines := [(0, 0, 128), (0, 256, 129)], shadow := [], touched := [], poison := []
    keep := [] }

/-- A closed epoch without ranges, under the number of the open one. -/
def closedTwin : Epoch := { openTwin with st := .closed, ranges := [], lines := [] }

/-- `SPEC_COMMIT` of epoch 1, with a keep list at 0x40002000. -/
def twinCommit : Cmd :=
  { cid := 9, q := .tenant 0 0
    pkt := [0x31] ++ List.replicate 15 0 ++ leBytes 1 4 ++ List.replicate 4 0 ++ leBytes 0x40002000 8 ++ List.replicate 32 0
    start := 0, since := 0, wdMs := 2000, capped := false, derated := false, determ := false, peerHeld := false, phase := .begun, ending := none
    heldFrom := none, cores := [], took := [], left := [], stalled := [], mark := 0, herdRan := false, todo := [], out := [], parts := []
    used := 0, hot := 0, unmeasured := 0 }

/-- A module whose one context has the two epochs and runs the commit; tables and keep list lie whole in their halves. -/
def twinEpochs : State :=
  { State.reset with
    mem := localTables
    llc := [0x10, 0x20].map (fun n => { line := n, mru := true, way := 0, valid := 0xFF, dirty := 0, dead := 0, deadChk := 0, poison := 0
                                        under := 0, streamIn := false, pinned := false })
    cmds := [twinCommit]
    insts := [{ id := 0, ptRoot := 0x1000, bwg := 0, tsWeight := 1, exclCh := false, rampUs := 0, privWays := [], hamper := []
                extents := [(0, 0x100000)], queues := [{ Queue.disabled with st := .running }], st := .running, energyMj := 0, energyNj := 0
                stalls := 0, kills := 0, tdi := .unlocked, tdiStream := 0
                ctxs := [{ num := 0, deadchk := false, wdEn := false, wdPeriod := 0, entryDeadchk := false, entryWdEn := false, entryWdPeriod := 0
                           st := 0, stopped := false, cause := 0, fCore := 0, fHerd := 0, fLane := 0, fLaneValid := false, faultPc := 0
                           faultAddr := 0, faultCount := 0, deadReread := 0, epochs := [openTwin, closedTwin], nextEpoch := 2 }] }]
    rs := { Rs.reset with ready := 0xFFFF } }

/-- The context of the two epochs. -/
def twinCtx : CtxRef := { inst := 0, ctx := 0 }

theorem twinEpochs_begun : twinEpochs.begun? 9 0x31 = some twinCommit ∧ twinEpochs.cmdCtx twinCommit = some twinCtx ∧
    twinEpochs.openNamed twinCtx twinCommit = some openTwin := by decide +kernel

/-- The keep list can be reached, and is one value 0. -/
theorem twinEpochs_list : twinEpochs.rangeBad 0 0 .read (twinCommit.field 24 8) 8 = none ∧
    ((splitRange (twinCommit.field 24 8) 8).map (fun p => twinEpochs.listPiece twinCommit twinCtx p.1 p.2)).foldl ListRead.join (.ok [] 0) =
      .ok (List.replicate 8 0) 0 := by decide +kernel

/-- Refutes O32: in a state with two epochs of a context under one number the commit gives both one value for each range of the open one,
where the clause on `SPEC_COMMIT` gives each as many as it has ranges itself; no hypothesis says that a number names one epoch
(`exec_specCommit_alone` is the clause with that hypothesis; `exec_specBegin`, `exec_specAbort`, `State.sameLines_ctxWriteSector` and
`State.SameLines.secBytes` are the other clauses, which hold). -/
theorem not_speculationRules : ¬ Obligations.SpeculationRules := by
  rintro ⟨⟨-, commits, -⟩, -⟩
  obtain ⟨hbegun, hx, he⟩ := twinEpochs_begun
  obtain ⟨hreach, hread⟩ := twinEpochs_list
  have claimed := commits twinEpochs 9 twinCommit twinCtx openTwin (List.replicate 8 0) hbegun hx he (by decide) (by decide) (by decide) hreach
    hread (by decide)
  have reached := exec_specCommit hbegun hx he (by decide) hreach hread (by decide)
  have heq := Host.Outcome.next.inj (claimed.symm.trans reached)
  exact absurd (congrArg (fun s : State => (s.epochsOf twinCtx).map (fun d => d.keep)) heq) (by decide +kernel)

end Sys2Proof.Machine
end

section
/-! PROOF. Collectives: a row that enters, moves on or ends, the completion, the timeout and the resending. -/
namespace Sys2Proof.Machine

/-! ## The rows (07 R160 to R169) -/

/-- The instructions of the collective rows, with their opcodes. -/
def collectiveRows : List ((Nat → Instr) × Nat) :=
  [(Instr.collAllreduce, 0x20), (Instr.collReduceScatter, 0x21), (Instr.collAllgather, 0x22), (Instr.collBroadcast, 0x23),
   (Instr.collBarrier, 0x24)]

/-- Every collective runs one row, with its opcode. -/
theorem exec_collectiveRow {p : (Nat → Instr) × Nat} (hp : p ∈ collectiveRows) (cid : Nat) (s : State) :
    exec (p.1 cid) s = .next (s.collRow cid p.2) := by
  simp only [collectiveRows, List.mem_cons, List.not_mem_nil, or_false] at hp
  rcases hp with rfl | rfl | rfl | rfl | rfl <;> rfl

/-- A collective passes every check before that of the state of its group: its fields, its group, and what its ranges reach. -/
structure State.CollChecked (s : State) (c : Cmd) (x : CtxRef) (g : Group) : Prop where
  ctx : s.cmdCtx c = some x
  group : s.group? (c.field 16 2) = some g
  inst : g.inst = x.inst
  fields : firstFail (c.collChecks (some g)) = none
  src : s.rangeBad x.inst c.since .read (c.field 32 8) (c.srcLen g.rank) = none
  dst : s.rangeBad x.inst c.since .write (c.field 40 8) (c.dstLen g.members.length g.rank) = none
  stage : s.stageBad x.inst c = none
  shard : s.shardOnHost x.inst c g = none

section
variable {s : State} {cid op : Nat} {c : Cmd} (hc : s.cmd? cid = some c) (hop : c.opcode = op) (hr : s.engineRuns c.q = true)
include hc hop hr

theorem State.collRow_down (hp : c.phase = .begun ∨ c.phase = .active) (hd : s.engineDown c = true) :
    s.collRow cid op = s.stopCmd cid .addressFault (failAddr (c.field 32 8)) := by
  simp [State.collRow, hc, hop, hr, hd, hp]

theorem State.collRow_active (hp : c.phase = .active) (hd : s.engineDown c = false) : s.collRow cid op = s.collPump cid := by
  simp [State.collRow, hc, hop, hr, hd, hp]

/-- A collective that has passed every other check enters a group that is whole, idle and reached, and ends on a broken one. -/
theorem State.collRow_checked {x : CtxRef} {g : Group} (hp : c.phase = .begun) (hd : s.engineDown c = false) (hk : s.CollChecked c x g) :
    (g.broken = none → g.coll = none → s.unreachable g = none → s.collRow cid op = s.newChoice.collEnter c g) ∧
    (∀ m, g.broken = some m → s.collRow cid op = s.doneCmd cid .peerAbort m) := by
  refine ⟨fun hwhole hidle hreach => ?_, fun m hbroken => ?_⟩
  all_goals
    simp only [State.collRow, hc, hop, hr, hd, hp, hk.ctx, hk.group, Option.bind_some, hk.inst, if_true]
    rw [State.checked_of_pass hk.fields, State.withRanges_of_reached _ (by simp [hk.src, hk.dst]), hk.stage, hk.shard]
  · simp [hwhole, hidle, hreach]
  · simp [hbroken]

end

/-! ## Completion (07 R166, R167, R209) -/

theorem State.clocked_of_running {s : State} (h : s.running = true) : s.clocked = true := by
  simp only [State.running, Bool.and_eq_true] at h
  obtain ⟨⟨⟨-, hstopped⟩, htripped⟩, -⟩ := h
  rw [State.clocked, hstopped, htripped]
  rfl

theorem State.cid_of_cmd? {s : State} {cid : Nat} {c : Cmd} (h : s.cmd? cid = some c) : c.cid = cid := by
  simpa using List.find?_some h

theorem tenantEngine_collective {op : Nat} (hlow : 0x20 ≤ op) (hhigh : op ≤ 0x24) : tenantEngine op = some .collective := by
  have hkernel : op ≠ 0x10 := by omega
  have hdma : isDmaOp op = false := by
    simp only [isDmaOp, Bool.or_eq_false_iff, Bool.and_eq_false_iff, decide_eq_false_iff_not]
    omega
  simp [tenantEngine, hkernel, hdma, hlow, hhigh]

section
variable {s : State} {cid : Nat} {c : Cmd} {g : Group} {k : Coll}

/-- The completion of a collective whose context is not being killed. -/
theorem exec_commandCompletion_collective (hc : s.cmd? cid = some c) (hs : s.cmdServed c = true) (hp : c.phase = .active)
    (hlow : 0x20 ≤ c.opcode) (hhigh : c.opcode ≤ 0x24) :
    exec (.commandCompletion cid) s = .next (if s.engineRuns c.q then s.finishColl c else s) := by
  have hrun : s.running = true := (Bool.and_eq_true_iff.mp hs).1
  show execCommandCompletion cid s = _
  simp only [execCommandCompletion, hc, hs, hp, State.completeActive, tenantEngine_collective hlow hhigh,
    State.clockRow_clocked (State.clocked_of_running hrun)]
  rfl

theorem State.finishColl_undone (hk : s.collOf c.cid = some (g, k)) (hd : s.collDone c g k = false) : s.finishColl c = s := by
  simp [State.finishColl, hk, hd]

theorem State.finishColl_done (hk : s.collOf c.cid = some (g, k)) (hd : s.collDone c g k = true) :
    s.finishColl c = ((s.updGroup g.id (fun g => { g with coll := none })).updCmd c.cid
      (fun d => { d with peerHeld := k.beacons && decide (k.entered + g.timeoutMs * 1000000 < k.came) })).doneCmd c.cid .success 0 := by
  simp [State.finishColl, hk, hd]

end

/-! ## Timeout and resending (07 R174, 12 R292) -/

section
variable {s : State} {cid : Nat} {c : Cmd} {g : Group} {k : Coll} (hc : s.cmd? cid = some c) (hk : s.collOf cid = some (g, k))
  (hclk : s.clocked = true)
include hc hk hclk

/-- A collective that misses something past its timeout, or past 10 s, fails and breaks its group. -/
theorem exec_collectiveTimeout_missing (hp : c.phase = .active) (hm : c.missing g k = true)
    (hdue : k.restart + g.timeoutMs * 1000000 ≤ s.time ∨ k.entered + 10000000000 ≤ s.time) :
    exec (.collectiveTimeout cid) s =
      .next ((s.failColl g.id s.fx.pkgId.toNat .timeout ((s.time - c.start) / 1000000)).finishCmd cid) := by
  show execCollectiveTimeout cid s = _
  simp only [execCollectiveTimeout, State.clockRow_clocked hclk, hc, hk, hp, hm, min_le_iff, hdue]
  rfl

theorem exec_collectiveTimeout_complete (hm : c.missing g k = false) : exec (.collectiveTimeout cid) s = .next s := by
  show execCollectiveTimeout cid s = _
  simp [execCollectiveTimeout, State.clockRow_clocked hclk, hc, hk, hm]

/-- A refused contribution that is due, and that can be sent, is sent again. -/
theorem exec_heldFullResend_due {port txn due : Nat} {t : Txn} {hdr : CollHdr} {d : List Byte} {v : State}
    (ht : s.fx.txns.find? (fun t => t.port = port && t.num = txn) = some t) (ho : t.owner = .coll cid hdr d) (hr : t.resendAt = some due)
    (hdue : due ≤ s.time)
    (hv : (s.endTxn port txn).collSend c g k ((g.members.zipIdx.find? (fun m => m.1.1 = t.dst)).elim 0 (fun m => m.2)) hdr.offset.toNat d
      = .ok v) :
    exec (.heldFullResend port txn) s = .next v := by
  show execHeldFullResend port txn s = _
  simp only [execHeldFullResend, State.clockRow_clocked hclk, ht, ho, hr, hc, hk, if_pos hdue, hv]

end

/-- Settles O33, clause by clause: each row is followed past the conditions that its clause assumes; the sum is computed as the last one has it. -/
theorem collectiveRules : Obligations.CollectiveRules := by
  unfold Obligations.CollectiveRules
  refine ⟨fun p hp => ⟨?enters, ?underway⟩, ?completes, ⟨?timesOut, ?resends⟩, ?sums⟩
  case enters =>
    intro s cid c x g hc hop hbegun hr hd hx hg hinst hfields hsrc hdst hstage hshard
    rw [exec_collectiveRow hp]
    obtain ⟨henters, hbroken⟩ := State.collRow_checked hc hop hr hbegun hd ⟨hx, hg, hinst, hfields, hsrc, hdst, hstage, hshard⟩
    exact ⟨fun hwhole hidle hreach => by rw [henters hwhole hidle hreach], fun m hm => by rw [hbroken m hm]⟩
  case underway =>
    intro s cid c hc hop hr
    rw [exec_collectiveRow hp]
    exact ⟨fun hactive hd => by rw [State.collRow_active hc hop hr hactive hd],
      fun hphase hd => by rw [State.collRow_down hc hop hr hphase hd]⟩
  case completes =>
    intro s cid c g k hc hs hactive hlow hhigh hk
    rw [exec_commandCompletion_collective hc hs hactive hlow hhigh]
    obtain rfl := State.cid_of_cmd? hc
    refine ⟨fun hdone hr => ?_, fun hdone => ?_⟩
    · rw [if_pos hr, State.finishColl_done hk hdone]
    · rw [State.finishColl_undone hk hdone, ite_self]
  case timesOut =>
    intro s cid c g k hc hk hactive hclk
    exact ⟨exec_collectiveTimeout_missing hc hk hclk hactive, exec_collectiveTimeout_complete hc hk hclk⟩
  case resends =>
    intro s v port txn cid due t hdr d c g k hclk ht ho hr hdue hc hk hv
    exact exec_heldFullResend_due hc hk hclk ht ho hr hdue hv
  case sums =>
    intro f v vs _
    rfl

end Sys2Proof.Machine
end

section
/-! PROOF. A command begins: with nothing before it in its queue, the packet at `SQ_HEAD` is read, entered and begun in one step. -/
namespace Sys2Proof.Machine

/-- An update of the entries that satisfy `p` reaches only the last one where no other satisfies it. -/
theorem updWhere_append_last {α : Type} {p : α → Bool} (f : α → α) {l : List α} {a : α} (hl : ∀ d ∈ l, p d = false) (ha : p a = true) :
    updWhere p f (l ++ [a]) = l ++ [f a] := by
  have hkeep : updWhere p f l = l := (List.map_congr_left fun d hd => if_neg (Bool.eq_false_iff.mp (hl d hd))).trans (List.map_id l)
  rw [updWhere, List.map_append, ← updWhere, hkeep, List.map_singleton, if_pos ha]

/-! ## The command that a packet enters (09 R207, R214) -/

/-- A queue whose first `n` entries have been consumed. -/
def Queue.consumed (n : Nat) (x : Queue) : Queue :=
  { x with sqHead := (x.sqHead + n) % 2 ^ x.sqLog2, fetched := x.fetched.drop (64 * n) }

/-- The command of a packet of a queue, entered now. -/
def State.entered (s : State) (q : QRef) (pkt : List Byte) (phase : CmdPhase) : Cmd :=
  { cid := s.nextId, q := q, pkt := pkt, start := s.time, since := s.histSeq, wdMs := s.mg.wdMs.toNat, capped := s.belowPreq, derated := false,
    determ := false, peerHeld := false, phase := phase, ending := none, heldFrom := none, cores := [], took := [], left := [], stalled := [],
    mark := 0, herdRan := false, todo := [], out := [], parts := [], used := 0, hot := s.hotRegions, unmeasured := 0 }

/-- A command as it begins now. -/
def State.begunNow (s : State) (c : Cmd) : Cmd :=
  { c with phase := .begun, start := s.time, since := s.histSeq, wdMs := s.mg.wdMs.toNat, hot := s.hotRegions }

section
variable {s : State} {q : QRef} {x : Queue} {n : Nat} {pkt : List Byte} {phase : CmdPhase}

/-- A change of a queue leaves what a command records when it enters. -/
theorem State.updQueue_entered (f : Queue → Queue) : (s.updQueue q f).entered q pkt phase = s.entered q pkt phase := by
  cases q <;> rfl

theorem State.updQueue_nextId (f : Queue → Queue) : (s.updQueue q f).nextId = s.nextId := by
  cases q <;> rfl

theorem State.updQueue_cmds (f : Queue → Queue) : (s.updQueue q f).cmds = s.cmds := by
  cases q <;> rfl

/-- A command enters at the end of the list of those read, with a new number. -/
theorem State.enter_eq : s.enter q n pkt phase =
    { s.updQueue q (Queue.consumed n) with nextId := s.nextId + 1, cmds := s.cmds ++ [s.entered q pkt phase] } := by
  rw [← State.updQueue_entered (Queue.consumed n), ← State.updQueue_nextId (q := q) (Queue.consumed n),
    ← State.updQueue_cmds (q := q) (Queue.consumed n)]
  rfl

/-- An entry leaves what a command records when it begins. -/
theorem State.enter_begunNow : (s.enter q n pkt phase).begunNow = s.begunNow := by
  cases q <;> rfl

/-- Where the queue had no command, the one that enters is its only one. -/
theorem State.queueCmds_enter (h : s.queueCmds q = []) : (s.enter q n pkt phase).queueCmds q = [s.entered q pkt phase] := by
  have hcmds : (s.enter q n pkt phase).cmds = s.cmds ++ [s.entered q pkt phase] := by rw [State.enter_eq]
  rw [State.queueCmds, hcmds, List.filter_append, ← State.queueCmds, h, List.nil_append]
  exact List.filter_eq_self.mpr (by simp [State.entered])

/-! ## Reading the packet, and its turn (08 R192, 09 R208) -/

/-- A whole packet at `SQ_HEAD` that the tail covers enters and waits for its turn. -/
theorem State.readPacket_enters {first : List Byte} (hst : x.st = .running) (hempty : s.queueCmds q = []) (htail : x.sqHead ≠ x.sqTail)
    (hfirst : s.readEntries q x 1 = .ok first) (hn : (first.getD 1 0).toNat = n) (hlow : 1 ≤ n) (hhigh : n ≤ 4)
    (hleft : n ≤ 2 ^ x.sqLog2 - x.sqHead) (hcov : n ≤ x.covered) (hpkt : s.readEntries q x n = .ok pkt) :
    s.readPacket q x = s.enter q n pkt .waiting := by
  have hsize : ¬ (n = 0 ∨ 4 < n) := by omega
  rw [State.readPacket, hfirst]
  simp only [hn]
  simp [htail, hempty, hsize, Nat.min_eq_left hleft, Nat.not_lt.mpr hcov, Nat.not_lt.mpr hleft, hst, hpkt]

/-- The first command of a queue waits for nothing. -/
theorem mayBegin_nil (op : Nat) (fenceBefore : Bool) : mayBegin q [] op fenceBefore = true := by
  unfold mayBegin
  split
  · rfl
  · simp only [List.any_nil, Bool.false_eq_true, if_false]
    split <;> rfl

theorem startable_singleton {c : Cmd} (h : c.phase = .waiting) : startable q [] [c] = some c := by
  simp [startable, h, mayBegin_nil]

/-- A command whose header passes begins. -/
theorem State.start_of_headerCheck {c : Cmd} (h : headerCheck q x c.opcode (c.byte 1) c.flags = none) :
    s.start q x c = s.updCmd c.cid s.begunNow := by
  simp only [State.start, h]
  rfl

/-- A command that enters and begins at once, with a header that passes, is entered as one that has begun. -/
theorem State.start_enter (hfresh : ∀ d ∈ s.cmds, d.cid ≠ s.nextId)
    (hhead : headerCheck q x (pkt.getD 0 0).toNat (pkt.getD 1 0).toNat (leNat ((pkt.drop 2).take 2)) = none) :
    (s.enter q n pkt .waiting).start q x (s.entered q pkt .waiting) = s.enter q n pkt .begun := by
  have hlast : updWhere (fun d : Cmd => decide (d.cid = s.nextId)) s.begunNow (s.cmds ++ [s.entered q pkt .waiting]) =
      s.cmds ++ [s.entered q pkt .begun] :=
    updWhere_append_last _ (fun d hd => decide_eq_false (hfresh d hd)) (decide_eq_true rfl)
  rw [State.start_of_headerCheck (c := s.entered q pkt .waiting) hhead, State.enter_begunNow, State.enter_eq, State.enter_eq, ← hlast]
  rfl

/-- A queue without commands whose packet is read begins it. -/
theorem State.beginCmd_first (hempty : s.queueCmds q = []) (hread : s.readPacket q x = s.enter q n pkt .waiting)
    (hfresh : ∀ d ∈ s.cmds, d.cid ≠ s.nextId)
    (hhead : headerCheck q x (pkt.getD 0 0).toNat (pkt.getD 1 0).toNat (leNat ((pkt.drop 2).take 2)) = none) :
    s.beginCmd q x = s.enter q n pkt .begun := by
  have hturn : startable q [] [s.entered q pkt .waiting] = some (s.entered q pkt .waiting) := startable_singleton rfl
  simp only [State.beginCmd, hempty, startable, hread, State.queueCmds_enter hempty, hturn]
  exact State.start_enter hfresh hhead

/-- A running queue with space for its records begins its next command. -/
theorem exec_commandBegin_running (hq : s.queue? q = some x) (hr : s.running = true) (hs : s.served q x = true)
    (hact : q ≠ .admin ∨ s.side.activating = false)
    (hkill : (s.qCtx q).elim false (fun c => (s.ctx? c).elim false (fun y => y.st = 3)) = false)
    (hst : x.st = .running) (hfull : x.full = false) (hheld : x.held = []) : exec (.commandBegin q) s = .next (s.beginCmd q x) := by
  have hside : ¬ (q = .admin ∧ s.side.activating = true) := fun ⟨hadmin, hon⟩ => hact.elim (· hadmin) (by simp [hon])
  show execCommandBegin q s = _
  simp only [execCommandBegin, hq, hkill]
  simp [hside, hr, hs, hst, hfull, hheld]

end

/-- Settles O21: the packet is read and entered, it is the only command of its queue, and so its turn has come. -/
theorem commandBegins : Obligations.CommandBegins := by
  unfold Obligations.CommandBegins
  intro s q x first pkt hq hr hs hact hkill hst hfull hheld hempty hfresh htail hfirst size hlow hhigh hleft hcov hpkt hhead
  have hread : s.readPacket q x = s.enter q size pkt .waiting :=
    State.readPacket_enters hst hempty htail hfirst rfl hlow hhigh hleft hcov hpkt
  rw [exec_commandBegin_running hq hr hs hact hkill hst hfull hheld, State.beginCmd_first hempty hread hfresh hhead, State.enter_eq,
    State.entered]
  rfl

end Sys2Proof.Machine
end

section
/-! PROOF. What reset leaves where the spec gives a value. -/
namespace Sys2Proof.Machine

/-- Settles O2: each field of the reset state is read off its definition. -/
theorem resetValues : Obligations.ResetValues := by
  refine ⟨⟨rfl, rfl, rfl, rfl, rfl, rfl, rfl, rfl, ?ports, rfl, rfl, rfl, rfl, rfl, rfl, rfl, rfl, rfl, rfl⟩, rfl⟩
  case ports => decide

end Sys2Proof.Machine
end

section
/-! PROOF. Doorbells: a write that its queue's party makes while the queue takes doorbells, and one that is discarded. -/
namespace Sys2Proof.Machine

/-! ## Doorbell writes (08 R200, 09 R205 to R207) -/

section
variable {s : State} {p : Party} {q : QRef} {v : Word} {x : Queue} {b : Bell}

/-- A doorbell write that no party may make there, or that goes with the TLPs of an Insecure stream, changes nothing. -/
theorem State.bell_discarded (h : ownsDoorbell p q = false ∨ s.partyDrops p = true) : s.bell p b q v = s := by
  refine if_pos ?_
  rcases h with h | h <;> simp [h]

section
variable (hq : s.queue? q = some x) (hdis : x.st ≠ .disabled) (hres : x.st ≠ .resetting)
include hq hdis hres

section
variable (hr : s.running = true) (hu : s.partyUp p = true) (ho : ownsDoorbell p q = true) (hd : s.partyDrops p = false)
include hr hu ho hd

/-- A doorbell write of the owner waits behind the owner's posted writes. -/
theorem State.bell_waits (hp : s.postedOut (partyFn p) = true) : s.bell p b q v = s.postLater (.bell (partyFn p) b q v) := by
  simp [State.bell, hq, hdis, hres, hr, hu, ho, hd, hp]

/-- A doorbell write of the owner behind which no posted write waits is performed. -/
theorem State.bell_rings (hp : s.postedOut (partyFn p) = false) : s.bell p b q v = s.ringBell b q v := by
  simp [State.bell, hq, hdis, hres, hr, hu, ho, hd, hp]

end

/-! ## What each doorbell does (09 R206, R210, R211) -/

theorem State.ringBell_sqTail : s.ringBell .sqTail q v = if 2 ^ x.sqLog2 ≤ v.toNat % 2 ^ 16 then s.updQueue q (fun x => { x with dbErr := true })
    else s.updQueue q (fun x => { x with sqTail := v.toNat % 2 ^ 16, dbErr := false }) := by
  simp [State.ringBell, hq, hdis, hres, bits]

theorem State.ringBell_cqHead_outside (hi : 2 ^ x.cqLog2 ≤ v.toNat % 2 ^ 16) :
    s.ringBell .cqHead q v = s.updQueue q (fun x => { x with dbErr := true }) := by
  simp [State.ringBell, hq, hdis, hres, bits, hi, -Nat.reducePow]

/-- Where no record waits, `CQ_HEAD` only moves on, and the queue sees whether it is full. -/
theorem State.ringBell_cqHead_inside (hi : v.toNat % 2 ^ 16 < 2 ^ x.cqLog2) (hadmin : q ≠ .admin) (hheld : x.held = []) :
    s.ringBell .cqHead q v = (s.updQueue q (fun x => { x with cqHead := v.toNat % 2 ^ 16, dbErr := false })).updQueue q
      (fun x => Queue.seen { x with held := [] }) := by
  simp [State.ringBell, hq, hdis, hres, bits, Nat.not_le.mpr hi, hadmin, hheld, State.drainHeld, -Nat.reducePow]

end

theorem State.ringBell_resume (hq : s.queue? q = some x) (hst : x.st = .halted) (hv : v.getLsbD 0 = true) :
    s.ringBell .resume q v = s.updQueue q (fun x => { x with st := .running, dbErr := false, fetched := [], asked := none }) := by
  have hbit : bit v.toNat 0 = true := hv
  simp [State.ringBell, hq, hst, hbit]

end

/-- Settles O20: a write that is neither discarded nor waits is performed, doorbell by doorbell. -/
theorem doorbellRules : Obligations.DoorbellRules := by
  unfold Obligations.DoorbellRules
  intro s p q v x hq
  refine ⟨fun hr hu ho hdis hres hd => ?_, fun h => ?_⟩
  · have rings (b : Bell) (hp : s.postedOut (partyFn p) = false) : s.bell p b q v = s.ringBell b q v :=
      State.bell_rings hq hdis hres hr hu ho hd hp
    have waits (b : Bell) (hp : s.postedOut (partyFn p) = true) : s.bell p b q v = s.postLater (.bell (partyFn p) b q v) :=
      State.bell_waits hq hdis hres hr hu ho hd hp
    refine ⟨?later, ?tailIn, ?tailOut, ?headIn, ?headOut, ?resumes⟩
    case later => exact fun hp => ⟨congrArg _ (waits _ hp), congrArg _ (waits _ hp), congrArg _ (waits _ hp)⟩
    case tailIn =>
      exact fun hp hi => congrArg _ ((rings _ hp).trans ((State.ringBell_sqTail hq hdis hres).trans (if_neg (Nat.not_le.mpr hi))))
    case tailOut => exact fun hp hi => congrArg _ ((rings _ hp).trans ((State.ringBell_sqTail hq hdis hres).trans (if_pos hi)))
    case headIn =>
      exact fun hp hi hadmin hheld => congrArg _ ((rings _ hp).trans (State.ringBell_cqHead_inside hq hdis hres hi hadmin hheld))
    case headOut => exact fun hp hi => congrArg _ ((rings _ hp).trans (State.ringBell_cqHead_outside hq hdis hres hi))
    case resumes => exact fun hp hst hv => congrArg _ ((rings _ hp).trans (State.ringBell_resume hq hst hv))
  · exact ⟨congrArg _ (State.bell_discarded h), congrArg _ (State.bell_discarded h), congrArg _ (State.bell_discarded h)⟩

end Sys2Proof.Machine
end

section
/-! PROOF. How a command ends: what an update of a command or a queue leaves, the end and the record of a command, the completion ring. -/
namespace Sys2Proof.Machine

/-! ## Commands and queues after an update -/

/-- Entries changed where they satisfy a predicate, and still do, leave those that do not. -/
theorem filter_not_updWhere {α : Type} {p : α → Bool} {f : α → α} (hp : ∀ a, p a = true → p (f a) = true) (l : List α) :
    (updWhere p f l).filter (fun a => !p a) = l.filter (fun a => !p a) := by
  induction l with
  | nil => rfl
  | cons a l ih =>
    unfold updWhere at ih ⊢
    by_cases ha : p a = true
    · simp [ha, hp a ha, ih]
    · simp [ha, ih]

/-- A change that leaves every entry that satisfies the predicate changes nothing. -/
theorem updWhere_eq_self {α : Type} {p : α → Bool} {f : α → α} {l : List α} (h : ∀ a ∈ l, p a = true → f a = a) : updWhere p f l = l :=
  (updWhere_congr h).trans ((List.map_congr_left fun _ _ => ite_self _).trans (List.map_id l))

section
variable (s : State) (cid : Nat) {f : Cmd → Cmd}

theorem State.cmd?_updCmd (hf : ∀ d, (f d).cid = d.cid) : (s.updCmd cid f).cmd? cid = (s.cmd? cid).map f :=
  find?_updWhere (fun d hd => by simpa [hf] using hd) s.cmds

/-- A change of a command that is forgotten at once changes nothing. -/
theorem State.forget_updCmd (hf : ∀ d, (f d).cid = d.cid) :
    (s.updCmd cid f).cmds.filter (fun d => d.cid != cid) = s.cmds.filter (fun d => d.cid != cid) :=
  filter_not_updWhere (fun d hd => by simpa [hf] using hd) s.cmds

variable {s cid} in
theorem State.updCmd_eq_self (h : ∀ d ∈ s.cmds, d.cid = cid → f d = d) : s.updCmd cid f = s := by
  rw [State.updCmd, updWhere_eq_self fun d hd hcid => h d hd (of_decide_eq_true hcid)]

end

theorem State.inst?_updInst (s : State) (i : Nat) {f : Inst → Inst} (hf : ∀ y, (f y).id = y.id) : (s.updInst i f).inst? i = (s.inst? i).map f :=
  find?_updWhere (fun y hy => by simpa [hf] using hy) s.insts

theorem State.queue?_updQueue (s : State) (q : QRef) {f : Queue → Queue} (hf : ∀ y, (f y).num = y.num) :
    (s.updQueue q f).queue? q = (s.queue? q).map f := by
  cases q with
  | admin => rfl
  | tenant i n =>
    rw [State.updQueue, State.queue?, State.queue?, State.inst?_updInst _ _ (by exact fun _ => rfl)]
    cases s.inst? i with
    | none => rfl
    | some y => exact find?_updWhere (fun z hz => by simpa [hf] using hz) y.queues

/-! ## The end of a command (09 R209, R211) -/

/-- A command with its status and its detail; one that has ended keeps its first ones. -/
def Cmd.endedAs (st : Status) (detail : Nat) (c : Cmd) : Cmd :=
  match c.phase with
  | .ended _ _ => c
  | _ => { c with phase := .ended (BitVec.ofNat 8 st.code) (BitVec.ofNat 64 detail) }

theorem Cmd.endedAs_cid (st : Status) (detail : Nat) (c : Cmd) : (c.endedAs st detail).cid = c.cid := by
  unfold Cmd.endedAs
  split <;> rfl

theorem Cmd.endedAs_of_begun {c : Cmd} (h : c.phase = .begun) (st : Status) (detail : Nat) :
    c.endedAs st detail = { c with phase := .ended (BitVec.ofNat 8 st.code) (BitVec.ofNat 64 detail) } := by
  simp [Cmd.endedAs, h]

section
variable {s : State} {cid : Nat} {c : Cmd}

theorem State.endCmd_eq (st : Status) (detail : Nat) : s.endCmd cid st detail = (s.haltAfter cid st).updCmd cid (Cmd.endedAs st detail) := rfl

/-- Only a `WAIT` that times out halts its queue. -/
theorem State.haltAfter_of_ne {st : Status} (h : st ≠ .timeout) : s.haltAfter cid st = s := by
  unfold State.haltAfter
  split <;> simp [h]

/-- A command outside the DMA engine leaves alone, and waits for no other record. -/
theorem State.finishCmd_notDma (hc : s.cmd? cid = some c) (hop : isDmaOp c.opcode = false) : s.finishCmd cid = s.writeEnd cid := by
  simp [State.finishCmd, State.finishDue, State.recordTurn, hc, hop]

/-- A command of a tenant queue that has succeeded, asks for no record and returns no value leaves its marks to its queue alone. -/
theorem State.writeEnd_unrecorded {i n : Nat} {detail : BitVec 64} {x : Queue} (hc : s.cmd? cid = some c) (hp : c.phase = .ended 0 detail)
    (hq : c.q = .tenant i n) (hx : s.queue? c.q = some x) (hst : x.st = .running) (hrecord : recordsAlways c.opcode = false)
    (hcompletion : c.flags.testBit 1 = false) (hinterrupt : c.flags.testBit 2 = false) :
    s.writeEnd cid = ({ s with cmds := s.cmds.filter (fun d => d.cid != cid) } : State).updQueue c.q
      (fun y => { y with capped := c.capped || x.capped, derated := c.derated || x.derated }) := by
  have hx' : ({ s with cmds := s.cmds.filter (fun d => d.cid != cid) } : State).queue? (.tenant i n) = some x := by rw [← hx, hq]; rfl
  simp [State.writeEnd, hc, hp, hq, hx', hst, hrecord, bit, hcompletion, hinterrupt]

/-- A begun command outside the DMA engine that succeeds, asks for no record and returns no value is forgotten. -/
theorem State.doneCmd_unrecorded {i n : Nat} {x : Queue} (hc : s.cmd? cid = some c) (hp : c.phase = .begun) (hop : isDmaOp c.opcode = false)
    (hq : c.q = .tenant i n) (hx : s.queue? c.q = some x) (hst : x.st = .running) (hrecord : recordsAlways c.opcode = false)
    (hcompletion : c.flags.testBit 1 = false) (hinterrupt : c.flags.testBit 2 = false) :
    s.doneCmd cid .success 0 = ({ s with cmds := s.cmds.filter (fun d => d.cid != cid) } : State).updQueue c.q
      (fun y => { y with capped := c.capped || x.capped, derated := c.derated || x.derated }) := by
  have hend : s.endCmd cid .success 0 = s.updCmd cid (Cmd.endedAs .success 0) := by
    rw [State.endCmd_eq, State.haltAfter_of_ne (by decide)]
  have hc' : (s.updCmd cid (Cmd.endedAs .success 0)).cmd? cid = some { c with phase := .ended 0 0 } := by
    rw [State.cmd?_updCmd _ _ (Cmd.endedAs_cid _ _), hc, Option.map_some, Cmd.endedAs_of_begun hp]
    rfl
  have hx' : (s.updCmd cid (Cmd.endedAs .success 0)).queue? c.q = some x := by rw [← hx, hq]; rfl
  rw [State.doneCmd, hend, State.finishCmd_notDma hc' hop, State.writeEnd_unrecorded hc' rfl hq hx' hst hrecord hcompletion hinterrupt,
    State.forget_updCmd _ _ (Cmd.endedAs_cid _ _)]
  rfl

end

/-! ## The record and the ring (09 R204, R205, R210, R214) -/

theorem leNat_leBytes_of_lt {n k : Nat} (h : n < 256 ^ k) : leNat (leBytes n k) = n := (leNat_leBytes k n).trans (Nat.mod_eq_of_lt h)

/-- The bytes of a record, field by field. -/
theorem recordBytes_layout (r : Record) (p : Bool) : (recordBytes r p).length = 32 ∧
    leNat ((recordBytes r p).take 4) = r.seq.toNat ∧ (recordBytes r p).getD 4 0 = r.status ∧ (recordBytes r p).getD 5 0 = r.opcode ∧
    leNat (((recordBytes r p).drop 6).take 2) = r.cflags.toNat + (if p then 32768 else 0) ∧
    leNat (((recordBytes r p).drop 8).take 8) = r.tag.toNat ∧ leNat (((recordBytes r p).drop 16).take 8) = r.start.toNat ∧
    leNat (((recordBytes r p).drop 24).take 8) = r.detail.toNat := by
  have hflags : (r.cflags.toNat + if p then 32768 else 0) < 256 ^ 2 := by
    have hlow : r.cflags.toNat < 32768 := r.cflags.isLt
    split_ifs <;> omega
  exact ⟨rfl, leNat_leBytes_of_lt (k := 4) r.seq.isLt, rfl, rfl, leNat_leBytes_of_lt (k := 2) hflags,
    leNat_leBytes_of_lt (k := 8) r.tag.isLt, leNat_leBytes_of_lt (k := 8) r.start.isLt, leNat_leBytes_of_lt (k := 8) r.detail.isLt⟩

section
variable (q : Queue)

theorem Queue.wrote_cqWrite : q.wrote.cqWrite = (q.cqWrite + 1) % 2 ^ q.cqLog2 := rfl

theorem Queue.wrote_phase : q.wrote.phase = if (q.cqWrite + 1) % 2 ^ q.cqLog2 = 0 then !q.phase else q.phase := rfl

theorem Queue.full_iff : q.full = true ↔ (q.cqWrite + 1) % 2 ^ q.cqLog2 = q.cqHead := decide_eq_true_iff

theorem Queue.wrote_cqFull : q.wrote.cqFull = true ↔ q.wrote.full = true ∧ q.held ≠ [] := by
  have hseen : q.wrote.cqFull = (q.wrote.full && !q.held.isEmpty) := rfl
  simp [hseen]

end

/-- Settles O22: the bytes field by field; the next index, which is 0 exactly behind the last one; the one end that leaves no record. -/
theorem completionRingRules : Obligations.CompletionRingRules := by
  refine ⟨recordBytes_layout, fun q hlast => ⟨?below, ?wraps, ?goesOn, q.full_iff, q.wrote_cqFull⟩, ?unrecorded⟩
  case below => exact Nat.mod_lt _ (Nat.two_pow_pos _)
  case wraps =>
    intro hwrap
    rw [Queue.wrote_phase, Queue.wrote_cqWrite, hwrap, Nat.mod_self]
    exact ⟨rfl, rfl⟩
  case goesOn =>
    intro hnext
    have hbelow : q.cqWrite + 1 < 2 ^ q.cqLog2 := by omega
    rw [Queue.wrote_phase, Queue.wrote_cqWrite, Nat.mod_eq_of_lt hbelow]
    exact ⟨rfl, rfl⟩
  case unrecorded =>
    intro s c i n x hc hq hx hp hst hop hrecord hcompletion hinterrupt
    exact State.doneCmd_unrecorded hc hp hop hq hx hst hrecord hcompletion hinterrupt

end Sys2Proof.Machine
end

section
/-! PROOF. The queue-control commands: fields that pass, a home that is reached, the read of a `WAIT`, and the halt of its queue. -/
namespace Sys2Proof.Machine

/-! ## Rows of a command, and its fields (09 R217) -/

section
variable {s : State} {cid op : Nat} {c : Cmd}

/-- A `WAIT` waits exactly where it is under way and its engine runs. -/
theorem State.waiting?_eq_some : s.waiting? cid = some c ↔
    s.cmd? cid = some c ∧ c.opcode = 4 ∧ c.phase = .active ∧ s.engineRuns c.q = true := by
  unfold State.waiting?
  cases s.cmd? cid with
  | none => simp
  | some d =>
    simp only [Option.ite_none_right_eq_some, Option.some.injEq, Bool.and_eq_true, decide_eq_true_eq]
    constructor
    · rintro ⟨⟨⟨hop, hp⟩, hr⟩, rfl⟩
      exact ⟨rfl, hop, hp, hr⟩
    · rintro ⟨rfl, hop, hp, hr⟩
      exact ⟨⟨⟨hop, hp⟩, hr⟩, rfl⟩

theorem State.clocked_of_engineRuns {q : QRef} (h : s.engineRuns q = true) : s.clocked = true := (Bool.and_eq_true_iff.mp h).1

/-- A command with one field to check. -/
theorem State.checked_one (o : Nat) (ok : Bool) (go : State) :
    s.checked c [(o, ok)] go = if ok then go else s.doneCmd c.cid .invalidParam o := by
  cases ok <;> rfl

/-! ## `NOP` and `FENCE` (08 R193, 09 R219) -/

theorem exec_nolzinNop (hb : s.begun? cid 1 = some c) :
    exec (.nolzinNop cid) s = .next (if c.zero 16 64 then s.doneCmd cid .success 0 else s.doneCmd c.cid .invalidParam 16) := by
  show execNolzinNop cid s = _
  simp only [execNolzinNop, hb, State.checked_one]

theorem exec_nolzinFence (hb : s.begun? cid 2 = some c) : exec (.nolzinFence cid) s = .next (if s.earlier c = [] then
    (if c.zero 16 64 then s.doneCmd cid .success 0 else s.doneCmd c.cid .invalidParam 16) else s) := by
  show execNolzinFence cid s = _
  simp only [execNolzinFence, hb, State.checked_one, List.isEmpty_iff]

/-! ## `SIGNAL` at a home (09 R219) -/

section
variable {x : CtxRef} {a : Nat}

theorem exec_signal_home (hb : s.begun? cid 3 = some c) (hx : s.cmdCtx c = some x) (he : s.earlier c = []) (hptr : c.pointer 16 = true)
    (hop : c.byte 32 ≤ 2) (halign : c.field 16 8 % sigBytes c = 0) (hzero : c.zero 33 64 = true)
    (hreach : s.rangeBad x.inst c.since .write (c.field 16 8) (sigBytes c) = none)
    (hto : s.cmdTo x.inst c.since .write (c.field 16 8) = .ok (.home a)) :
    exec (.signal cid) s = .next (s.newChoice.signalHome c x a) := by
  show execSignal cid s = _
  simp only [execSignal, hb, hx, he, hto, List.isEmpty_nil, Bool.not_true, Bool.false_eq_true, if_false]
  rw [State.checked_of_pass (by simp [firstFail, hptr, hop, halign, hzero]), State.withRanges_of_reached _ (by simpa using hreach)]

section
variable (hbehind : (s.useRegion c.cid a).cmdBehind c.cid a = false) (hmiss : (s.useRegion c.cid a).ctxMissing x (a / 32) = false)
  (hroom : (s.useRegion c.cid a).allocHeld (some x.inst) (a / 256) 0 = false)
include hbehind hmiss hroom

/-- A store of the low bytes of the value. -/
theorem State.signalHome_store (hop : c.byte 32 ≠ 2) : s.signalHome c x a =
    ((s.useRegion c.cid a).ctxWrite x a (leBytes (c.field 24 8) (sigBytes c))).doneCmd c.cid .success 0 := by
  simp [State.signalHome, hbehind, hmiss, hroom, hop]

/-- An add returns the value before it. -/
theorem State.signalHome_add {bs : List Byte} (hop : c.byte 32 = 2) (hread : (s.useRegion c.cid a).ctxReadSector x (a / 32) = .ok bs) :
    s.signalHome c x a = ((s.useRegion c.cid a).ctxWrite x a (leBytes (leNat ((bs.drop (a % 32)).take 8) + c.field 24 8) 8)).doneCmd c.cid
      .success (leNat ((bs.drop (a % 32)).take 8)) := by
  simp [State.signalHome, hbehind, hmiss, hroom, hop, hread]

end

/-! ## The read of a `WAIT` (09 R220) -/

/-- A `WAIT` whose word lies at a home and waits for nothing reads it. -/
theorem State.waitPoll_home {bs : List Byte} (hto : s.cmdTo x.inst c.since .read (c.field 16 8) = .ok (.home a))
    (hbehind : (s.newChoice.useRegion c.cid a).cmdBehind c.cid a = false)
    (hmiss : (s.newChoice.useRegion c.cid a).ctxMissing x (a / 32) = false)
    (hread : (s.newChoice.useRegion c.cid a).ctxReadSector x (a / 32) = .ok bs) :
    s.waitPoll c x = (s.newChoice.useRegion c.cid a).waitRead c (leNat ((bs.drop (a % 32)).take (waitBytes c))) 1000 := by
  simp [State.waitPoll, hto, hbehind, hmiss, hread]

theorem State.waitRead_polls {word step : Nat} (ht : c.field 44 4 ≠ 0) : s.waitRead c word step =
    if waitHolds c word then s.doneCmd c.cid .success word else s.updCmd c.cid (fun d => { d with phase := .active, mark := s.time + step }) := by
  simp [State.waitRead, ht]

theorem State.waitRead_once {word step : Nat} (ht : c.field 44 4 = 0) (hword : waitHolds c word = false) :
    s.waitRead c word step = s.stopCmd c.cid .timeout ((s.time - c.start) / 1000000) := by
  simp [State.waitRead, ht, hword, State.waitOver, State.elapsedMs]

theorem exec_wait (hb : s.begun? cid 4 = some c) (hx : s.cmdCtx c = some x) (hptr : c.pointer 16 = true) (hcond : c.byte 40 ≤ 3)
    (hsize : c.byte 41 = 2 ∨ c.byte 41 = 3) (halign : c.field 16 8 % waitBytes c = 0) (hzero : c.zero 42 44 = true)
    (hlimit : c.field 44 4 ≤ 60000) (hrest : c.zero 48 64 = true) : exec (.wait cid) s = .next (s.waitPoll c x) := by
  show execWait cid s = _
  simp only [execWait, hb, hx]
  rw [State.checked_of_pass (by simp [firstFail, hptr, hcond, hsize, halign, hzero, hlimit, hrest])]

theorem exec_waitPoll (hw : s.waiting? cid = some c) (hx : s.cmdCtx c = some x) (hdue : c.mark ≤ s.time) (hquiet : s.cmdTxns cid = []) :
    exec (.waitPoll cid) s = .next (s.waitPoll c x) := by
  obtain ⟨-, -, -, hr⟩ := State.waiting?_eq_some.mp hw
  show execWaitPoll cid s = _
  simp [execWaitPoll, State.clockRow_clocked (State.clocked_of_engineRuns hr), hw, hx, hdue, hquiet]

end

/-! ## The timeout of a `WAIT` (09 R211, R220) -/

theorem exec_waitTimeout_due (hw : s.waiting? cid = some c) (hdue : c.start + c.field 44 4 * 1000000 ≤ s.time) (ht : c.field 44 4 ≠ 0) :
    exec (.waitTimeout cid) s = .next (s.stopCmd c.cid .timeout ((s.time - c.start) / 1000000)) := by
  obtain ⟨-, -, -, hr⟩ := State.waiting?_eq_some.mp hw
  show execWaitTimeout cid s = _
  simp [execWaitTimeout, State.clockRow_clocked (State.clocked_of_engineRuns hr), hw, ht, Nat.not_lt.mpr hdue, State.waitOver, State.elapsedMs]

/-- A `WAIT` that has begun, and not read its word yet, does not time out. -/
theorem exec_waitTimeout_begun (hb : s.begun? cid 4 = some c) : exec (.waitTimeout cid) s = .next s := by
  obtain ⟨hc, hp, -, -⟩ := State.begun?_eq_some.mp hb
  have hw : s.waiting? cid = none := by simp [State.waiting?, hc, hp]
  show execWaitTimeout cid s = _
  simp only [execWaitTimeout, hw, State.clockRow, ite_self]

/-- A queue that a `WAIT` halts: what it has read ahead is dropped. -/
def Queue.haltedAfter (y : Queue) : Queue := if y.st = .running then { y with st := .halted, fetched := [], asked := none } else y

theorem Queue.haltedAfter_num (y : Queue) : y.haltedAfter.num = y.num := by
  unfold Queue.haltedAfter
  split_ifs <;> rfl

/-- The end of a `WAIT` with `TIMEOUT` halts its queue. -/
theorem State.queue?_endCmd_timeout {d : Nat} {y : Queue} (hc : s.cmd? cid = some c) (hop : c.opcode = 4) (hy : s.queue? c.q = some y) :
    (s.endCmd cid .timeout d).queue? c.q = some y.haltedAfter := by
  have hhalt : s.haltAfter cid .timeout = s.updQueue c.q Queue.haltedAfter := by
    simp [State.haltAfter, hc, hop]
    rfl
  have hsame : (s.endCmd cid .timeout d).queue? c.q = (s.updQueue c.q Queue.haltedAfter).queue? c.q := by
    rw [State.endCmd_eq, hhalt]
    cases c.q <;> rfl
  rw [hsame, State.queue?_updQueue _ _ Queue.haltedAfter_num, hy]
  rfl

end

/-- Settles O23, clause by clause: each row is followed past the conditions that its clause assumes. -/
theorem queueControlRules : Obligations.QueueControlRules := by
  unfold Obligations.QueueControlRules
  refine ⟨⟨fun s cid c => exec_nolzinNop, ?fence, ?fenceWaits⟩, ?signal, ?reads, fun s cid c => exec_waitTimeout_due, ?once, ?halts⟩
  case fence =>
    intro s cid c hb he
    rw [exec_nolzinFence hb, if_pos he]
  case fenceWaits =>
    intro s cid c hb he
    rw [exec_nolzinFence hb, if_neg he]
  case signal =>
    intro s cid c x a hb hx he hptr hop halign hzero hreach hto u hbehind hmiss hroom
    rw [exec_signal_home hb hx he hptr hop halign hzero hreach hto]
    refine ⟨fun hstore => ?_, fun bs hadd hread => ?_⟩
    · rw [State.signalHome_store hbehind hmiss hroom hstore]
      rfl
    · rw [State.signalHome_add hbehind hmiss hroom hadd hread]
  case reads =>
    intro s cid c x a bs hx hto ht u word hbehind hmiss hread
    have hpoll : s.waitPoll c x = u.waitRead c word 1000 := State.waitPoll_home hto hbehind hmiss hread
    refine ⟨fun hb hptr hcond hsize halign hzero hlimit hrest => ?_, fun hw hdue hquiet => ?_⟩
    · rw [exec_wait hb hx hptr hcond hsize halign hzero hlimit hrest, hpoll, State.waitRead_polls ht]
    · rw [exec_waitPoll hw hx hdue hquiet, hpoll, State.waitRead_polls ht]
  case once =>
    intro s cid c x a bs hb hx hto ht hptr hcond hsize halign hzero hrest u word hbehind hmiss hread hword
    have hpoll : s.waitPoll c x = u.waitRead c word 1000 := State.waitPoll_home hto hbehind hmiss hread
    refine ⟨?_, exec_waitTimeout_begun hb⟩
    rw [exec_wait hb hx hptr hcond hsize halign hzero (by omega) hrest, hpoll, State.waitRead_once ht hword]
  case halts =>
    intro s cid d c y hc hop hy hst
    refine ⟨y.haltedAfter, State.queue?_endCmd_timeout hc hop hy, ?_⟩
    rw [Queue.haltedAfter, if_pos hst]
    exact ⟨rfl, rfl, rfl⟩

end Sys2Proof.Machine
end

section
/-! PROOF. Commands that take time: their completion by engine, a copy or fill with nothing left to move, and the command watchdog. -/
namespace Sys2Proof.Machine

/-! ## The completion of a command (09 R209) -/

section
variable {s : State} {cid : Nat} {c : Cmd}

theorem State.clocked_of_cmdServed (h : s.cmdServed c = true) : s.clocked = true := State.clocked_of_running (Bool.and_eq_true_iff.mp h).1

theorem exec_commandCompletion_ended {st : BitVec 8} {d : BitVec 64} (hc : s.cmd? cid = some c) (hs : s.cmdServed c = true)
    (hp : c.phase = .ended st d) : exec (.commandCompletion cid) s = .next (s.finishCmd cid) := by
  show execCommandCompletion cid s = _
  simp [execCommandCompletion, State.clockRow_clocked (State.clocked_of_cmdServed hs), hc, hs, hp]

theorem exec_commandCompletion_active (hc : s.cmd? cid = some c) (hs : s.cmdServed c = true) (hp : c.phase = .active)
    (hr : s.engineRuns c.q = true) : exec (.commandCompletion cid) s = .next (s.completeActive c) := by
  show execCommandCompletion cid s = _
  simp [execCommandCompletion, State.clockRow_clocked (State.clocked_of_cmdServed hs), hc, hs, hp, hr]

/-- A DMA command that is quiet ends once no earlier DMA command of its queue is left. -/
theorem State.completeDma_quiet (hc : s.cmd? cid = some c) (hp : c.phase = .active) (hq : s.quiet c = true)
    (he : ∀ d ∈ s.earlier c, isDmaOp d.opcode = false) : s.completeDma cid = s.doneCmd cid .success 0 := by
  have hall : (s.earlier c).all (fun d => !isDmaOp d.opcode) = true := by simpa using he
  simp [State.completeDma, hc, hp, hq, hall]

/-! ## The last steps, by engine (08 R192, 09 R230) -/

theorem State.completeActive_copy (hop : c.opcode = 0x18 ∨ c.opcode = 0x19 ∨ c.opcode = 0x1A) :
    s.completeActive c = (s.pump c.cid).completeDma c.cid := by
  rcases hop with hop | hop | hop <;> rw [State.completeActive, hop] <;> rfl

theorem State.completeActive_sectors (hop : c.opcode = 0x2A ∨ c.opcode = 0x2B) : s.completeActive c = s.completeDma c.cid := by
  rcases hop with hop | hop <;> rw [State.completeActive, hop] <;> rfl

theorem State.completeActive_cache (hop : c.opcode = 0x28 ∨ c.opcode = 0x29) :
    s.completeActive c = if s.quiet c then s.doneCmd c.cid .success 0 else s := by
  rcases hop with hop | hop <;> rw [State.completeActive, hop] <;> rfl

theorem State.completeActive_speculation {x : CtxRef} (hop : c.opcode = 0x31 ∨ c.opcode = 0x32) (hx : s.cmdCtx c = some x) :
    s.completeActive c = (s.finishSpec x c).doneCmd c.cid .success 0 := by
  rcases hop with hop | hop <;> rw [State.completeActive, hop, hx] <;> rfl

theorem State.completeActive_quiesce (hop : c.opcode = 0x82) (hi : s.instInFlight (c.field 16 2) = []) :
    s.completeActive c = (s.updInst (c.field 16 2) (fun x => { x with st := .quiesced })).doneCmd c.cid .success 0 := by
  simp [State.completeActive, hop, tenantEngine, isDmaOp, hi]

theorem State.completeActive_reset (hop : c.opcode = 0x83) (hran : c.herdRan = true) (hl : s.ringLines (c.field 16 2) = []) :
    s.completeActive c = ((s.resetEnd (c.field 16 2)).drainEvents).doneCmd c.cid .success 0 := by
  simp [State.completeActive, hop, tenantEngine, isDmaOp, hran, State.withRings, hl]

theorem State.completeActive_destroy (hop : c.opcode = 0x81) (hran : c.herdRan = true) :
    s.completeActive c = ((s.destroyEnd (c.field 16 2)).drainEvents).doneCmd c.cid .success 0 := by
  simp [State.completeActive, hop, tenantEngine, isDmaOp, hran]

/-! ## A copy or fill with nothing left to move (09 R224) -/

/-- A copy or fill that is under way, whose engine is up, and of which nothing is left to read or to send. -/
structure State.Moved (s : State) (c : Cmd) : Prop where
  active : c.phase = .active
  runs : s.engineRuns c.q = true
  up : s.engineDown c = false
  todo : c.todo = []
  out : c.out = []
  ending : c.ending = none
  held : c.heldFrom = none

section
variable (hc : s.cmd? cid = some c) (halone : ∀ d ∈ s.cmds, d.cid = cid → d = c) (hm : s.Moved c)
include halone hm

/-- Clearing what it has to send, when that is nothing, changes nothing. -/
theorem State.updCmd_out_nil : s.updCmd cid (fun d => { d with out := [] }) = s := by
  refine State.updCmd_eq_self fun d hd hcid => ?_
  obtain rfl := halone d hd hcid
  rw [← hm.out]

theorem State.updCmd_todo_nil : s.updCmd cid (fun d => { d with todo := [] }) = s := by
  refine State.updCmd_eq_self fun d hd hcid => ?_
  obtain rfl := halone d hd hcid
  rw [← hm.todo]

theorem State.markHeld_false : s.markHeld cid false = s := by
  refine State.updCmd_eq_self fun d hd hcid => ?_
  obtain rfl := halone d hd hcid
  simp [← hm.held]

include hc

theorem State.flushOut_nil (x : CtxRef) : s.flushOut x cid [] = s := by
  rw [State.flushOut, State.updCmd_out_nil halone hm, State.endPoisoned, hc, Option.bind_some, hm.ending]

theorem State.noteHeld_moved {x : CtxRef} (hx : s.cmdCtx c = some x) : s.noteHeld cid = s := by
  have hheld : s.pieceHeld c x.inst = false := by simp [State.pieceHeld, hm.todo, hm.out]
  simp only [State.noteHeld, hc, hx, hm.active, hheld, if_true]
  exact State.markHeld_false halone hm

/-- The pump of a command that has moved everything changes nothing. -/
theorem State.pump_moved {x : CtxRef} (hx : s.cmdCtx c = some x) : s.pump cid = s := by
  have hgo : (c.phase != .active || !s.engineRuns c.q) = false := by simp [hm.active, hm.runs]
  simp only [State.pump, hc, hx, hgo, hm.up, hm.out, State.flushOut_nil hc halone hm, Option.elim_some, hm.todo, State.pumpPieces,
    State.updCmd_todo_nil halone hm, State.noteHeld_moved hc halone hm hx, Bool.false_eq_true, if_false]

end

/-- A copy or fill that has moved everything succeeds. -/
theorem State.completeActive_moved {x : CtxRef} (hc : s.cmd? cid = some c) (halone : ∀ d ∈ s.cmds, d.cid = cid → d = c) (hm : s.Moved c)
    (hx : s.cmdCtx c = some x) (hop : c.opcode = 0x18 ∨ c.opcode = 0x19 ∨ c.opcode = 0x1A) (htxns : s.cmdTxns cid = [])
    (he : ∀ d ∈ s.earlier c, isDmaOp d.opcode = false) : s.completeActive c = s.doneCmd cid .success 0 := by
  obtain rfl := State.cid_of_cmd? hc
  have hquiet : s.quiet c = true := by simp [State.quiet, hm.todo, hm.out, htxns]
  rw [State.completeActive_copy hop, State.pump_moved hc halone hm hx, State.completeDma_quiet hc hm.active hquiet he]

/-! ## The command watchdog (09 R229, R230) -/

theorem exec_commandWatchdog (hc : s.cmd? cid = some c) (hclk : s.clocked = true) : exec (.commandWatchdog cid) s =
    .next (if s.cmdServed c && watchdogCovers c.opcode && s.overdue c then
      (s.leaveManager c).stopCmd cid .timeout ((s.time - c.start) / 1000000) else s) := by
  show execCommandWatchdog cid s = _
  simp only [execCommandWatchdog, State.clockRow_clocked hclk, hc, State.elapsedMs]

/-- A command that the watchdog does not cover, or whose period has not passed, goes on. -/
theorem exec_commandWatchdog_spares (hc : s.cmd? cid = some c) (h : watchdogCovers c.opcode = false ∨ s.overdue c = false) :
    exec (.commandWatchdog cid) s = .next s := by
  have hspared : (s.cmdServed c && watchdogCovers c.opcode && s.overdue c) = false := by
    rcases h with h | h <;> simp [h]
  show execCommandWatchdog cid s = _
  simp [execCommandWatchdog, hc, hspared, State.clockRow]

theorem State.overdue_of_phase (hp : c.phase = .begun ∨ c.phase = .active)
    (hdue : c.start + c.wdMs * 1000000 + s.descriptorWait c ≤ s.time) : s.overdue c = true := by
  rcases hp with hp | hp <;> simp [State.overdue, hp, hdue]

theorem State.overdue_of_early (h : s.time < c.start + c.wdMs * 1000000) : s.overdue c = false := by
  have hearly : ¬ c.start + c.wdMs * 1000000 + s.descriptorWait c ≤ s.time := by omega
  simp [State.overdue, hearly]

/-- Of a command that is neither the cap's nor the Rambler's the watchdog leaves nothing behind. -/
theorem State.leaveManager_other (hop : c.opcode ≠ 0x98) (hr : ∀ r, s.rambler = some r → r.cid ≠ c.cid) : s.leaveManager c = s := by
  rw [State.leaveManager, if_neg hop]
  cases hs : s.rambler with
  | none => rfl
  | some r => exact if_neg (hr r hs)

theorem watchdogCovers_uncovered {op : Nat} (h : op ∈ [0x10, 4, 0x20, 0x21, 0x22, 0x23, 0x24, 0x81, 0x83]) : watchdogCovers op = false := by
  revert op
  decide

end

/-- Settles O24: the completion engine by engine, the pump of a copy that has moved everything, and what the watchdog covers. -/
theorem commandCompletes : Obligations.CommandCompletes := by
  unfold Obligations.CommandCompletes
  refine ⟨fun s cid c hc hs => ⟨fun st d hp => exec_commandCompletion_ended hc hs hp, fun hp hr => ?active⟩, ?moved, ?watchdog⟩
  case active =>
    have hrow : exec (.commandCompletion cid) s = .next (s.completeActive c) := exec_commandCompletion_active hc hs hp hr
    obtain rfl := State.cid_of_cmd? hc
    refine ⟨fun hop hq he => ?_, fun hop hq => ?_, fun x hop hx => ?_, fun hop hi => ?_, fun hop hran hl => ?_, fun hop hran => ?_⟩
    · rw [hrow, State.completeActive_sectors hop, State.completeDma_quiet hc hp hq he]
    · rw [hrow, State.completeActive_cache hop, if_pos hq]
    · rw [hrow, State.completeActive_speculation hop hx]
    · rw [hrow, State.completeActive_quiesce hop hi]
    · rw [hrow, State.completeActive_reset hop hran hl]
    · rw [hrow, State.completeActive_destroy hop hran]
  case moved =>
    intro s cid c x hc hs hp hr hop hx htodo hout htxns he halone hending hheld hup
    rw [exec_commandCompletion_active hc hs hp hr,
      State.completeActive_moved hc halone ⟨hp, hr, hup, htodo, hout, hending, hheld⟩ hx hop htxns he]
  case watchdog =>
    intro s cid c hc
    refine ⟨fun hs hcov hp hdue => ?_, fun hop => if_pos hop, fun hop hr => ?_, fun h => ?_⟩
    · rw [exec_commandWatchdog hc (State.clocked_of_cmdServed hs), hs, hcov, State.overdue_of_phase hp hdue]
      rfl
    · exact State.leaveManager_other hop (State.cid_of_cmd? hc ▸ hr)
    · exact exec_commandWatchdog_spares hc (h.imp watchdogCovers_uncovered State.overdue_of_early)

end Sys2Proof.Machine
end

section
/-! PROOF. A kernel from its launch to its end: fields and cores that pass, a slot taken, a stall reported, and a kernel that has drained. -/
namespace Sys2Proof.Machine

section
variable {s : State} {cid core : Nat} {c : Cmd} {x : CtxRef}

/-! ## `LAUNCH` (09 R223) -/

theorem exec_launch (hb : s.begun? cid 0x10 = some c) (hx : s.cmdCtx c = some x)
    (hfields : firstFail [(16, c.pointer 16), (16, c.field 16 8 % 8 = 0), (24, c.pointer 24), (36, c.byte 36 != 0), (37, c.byte 37 ≤ 14),
      (38, c.zero 38 40), (40, c.field 32 4 = 0 || c.field 40 8 != 0), (48, c.zero 48 64)] = none)
    (hcores : s.launchBad c x.inst = none) :
    exec (.launch cid) s = .next (if launchCores c = [] then s.doneCmd cid .success 0
      else s.updCmd cid (fun c => { c with phase := .active, cores := launchCores c })) := by
  show execLaunch cid s = _
  simp only [execLaunch, hb, hx]
  rw [State.checked_of_pass hfields, hcores]
  simp only [List.isEmpty_iff]

/-! ## A slot is taken (02 R43, 09 R222) -/

/-- The state in which a launch has a slot: the slot holds the kernel, the command names the slot. -/
def State.tookSlot (s : State) (cid : Nat) (c : Cmd) (x : CtxRef) (r : SlotRef) : State :=
  ((s.invalidateL1 r).updSlot r (fun y => y.take (s.launchKernel c r.core) x.ctx)).updCmd cid (fun c =>
    { c with cores := c.cores.erase r.core, took := c.took ++ [r], left := c.left ++ [r]
             unmeasured := if c.herdRan then s.time - c.mark else 0 })

theorem exec_launchSlotTake {y : Slot} (hl : s.launchOn? cid core = some c) (hx : s.cmdCtx c = some x)
    (hup : s.regionDown (regionOfCore core) = false) (hlive : (s.ctx? x).elim true (fun y => y.st = 3 || y.st = 4) = false)
    (hslot : s.pickSlot c x core = some y) :
    exec (.launchSlotTake cid core) s = .next (s.tookSlot cid c x { core := core, slot := y.num }) := by
  show execLaunchSlotTake cid core s = _
  simp only [execLaunchSlotTake, hl, hx, hup, hlive, hslot, Bool.or_false, Bool.false_eq_true, if_false]
  rfl

/-! ## A wait that is reported (10 R242) -/

/-- The slots of `inst` on a core that hold up a launch. -/
def State.liveSlots (s : State) (inst core : Nat) : List Nat :=
  ((s.slotsOf inst core).filter (fun y => y.st = .running || y.st = .draining)).map (fun y => y.num)

theorem exec_residencyStall (hl : s.launchOn? cid core = some c) (hx : s.cmdCtx c = some x) (hnew : c.stalled.contains core = false)
    (hwait : s.pickSlot c x core = none) (hlong : c.start + (s.region (regionOfCore core)).stallMs * 1000000 < s.time) :
    exec (.residencyStall cid core) s = .next ((stallDetails core (s.liveSlots x.inst core)).foldl (fun t d => t.event 0x02 d)
      ((s.updCmd cid (fun c => { c with stalled := core :: c.stalled })).updInst x.inst (fun i => { i with stalls := satInc i.stalls 1 }))) := by
  have hreport : (c.stalled.contains core || (s.pickSlot c x core).isSome
      || decide (s.time ≤ c.start + (s.region (regionOfCore core)).stallMs * 1000000)) = false := by
    simp only [hnew, hwait, Option.isSome_none, Bool.false_or, decide_eq_false_iff_not, Nat.not_le, hlong]
  show execResidencyStall cid core s = _
  simp only [execResidencyStall, hl, hx, hreport, Bool.false_eq_true, if_false]
  rfl

end

/-! ## The end of a kernel (02 R52) -/

section
variable {s : State} {sl : SlotRef} {x : Slot} {k : Kernel} {c : Cmd}

/-- The state in which a kernel has left its slot: the slot stays bound, and its launch waits for one slot less. -/
def State.leftSlot (s : State) (sl : SlotRef) (cid : Nat) : State :=
  (s.updSlot sl (fun x => { x with st := .bound, kernel := none })).updCmd cid (fun c => { c with left := c.left.erase sl })

theorem State.cmd?_leftSlot (s : State) (sl : SlotRef) (cid : Nat) :
    (s.leftSlot sl cid).cmd? cid = (s.cmd? cid).map (fun c => { c with left := c.left.erase sl }) :=
  State.cmd?_updCmd _ _ (by exact fun _ => rfl)

theorem exec_kernelComplete (hclk : s.clocked = true) (hs : s.slot? sl = some x) (hk : x.kernel = some k) (hst : x.st = .draining)
    (hout : s.storesOut sl = false) (hmxq : x.mxq = []) (hlive : s.slotFaulted x = false) (hc : s.cmd? k.cid = some c) :
    exec (.kernelComplete sl) s = .next (if c.cores = [] ∧ c.left.erase sl = [] ∧ c.phase = .active
      then (s.leftSlot sl k.cid).doneCmd k.cid .success 0 else s.leftSlot sl k.cid) := by
  have hquiet : (x.st != .draining || s.storesOut sl || !x.mxq.isEmpty || s.slotFaulted x) = false := by simp [hst, hout, hmxq, hlive]
  have hleft := s.cmd?_leftSlot sl k.cid
  rw [hc, Option.map_some] at hleft
  unfold State.leftSlot at hleft ⊢
  show execKernelComplete sl s = _
  simp only [execKernelComplete, State.clockRow_clocked hclk, hs, hk, hquiet, Bool.false_eq_true, if_false, hleft, Bool.and_eq_true,
    List.isEmpty_iff, decide_eq_true_eq, and_assoc]

end

/-- Settles O25, row by row of a kernel's life. -/
theorem launchRules : Obligations.LaunchRules := by
  unfold Obligations.LaunchRules
  refine ⟨?launches, fun s cid core c x y => exec_launchSlotTake, fun s cid core c x => exec_residencyStall,
    fun s sl x k c => exec_kernelComplete⟩
  case launches =>
    intro s cid c x hb hx hcode halign hargs hnreg hways hlow hmask hhigh hcores
    refine exec_launch hb hx ?_ hcores
    simp [firstFail, hcode, halign, hargs, hnreg, hways, hlow, hmask, hhigh]

end Sys2Proof.Machine
end

section
/-! PROOF. The pieces of a copy and of a fill: the boundaries at which a range is split, what lies between them, and that they cover it. -/
namespace Sys2Proof.Machine

/-! ## A range split at sector boundaries (08 R198) -/

/-- Boundary `i` of a range: its first address, the sector boundaries inside it, and its end. -/
def sectorCut (va len i : Nat) : Nat := min (va + len) (max va ((va / 32 + i) * 32))

/-- Sectors that a range touches. -/
def sectorCount (va len : Nat) : Nat := if len = 0 then 0 else (va + len - 1) / 32 - va / 32 + 1

section
variable (va len : Nat)

theorem sectorCut_zero : sectorCut va len 0 = va := by
  unfold sectorCut
  omega

theorem sectorCut_count : sectorCut va len (sectorCount va len) = va + len := by
  unfold sectorCut sectorCount
  split_ifs <;> omega

theorem sectorCut_mono : Monotone (sectorCut va len) := by
  refine monotone_nat_of_le_succ fun i => ?_
  unfold sectorCut
  omega

/-- The pieces of a split range lie between its boundaries. -/
theorem splitRange_eq : splitRange va len =
    (List.range (sectorCount va len)).map (fun i => (sectorCut va len i, sectorCut va len (i + 1) - sectorCut va len i)) := by
  unfold splitRange sectorCount
  split_ifs with hlen
  · rfl
  · refine List.map_congr_left fun i hi => ?_
    have hi := List.mem_range.mp hi
    simp only [sectorCut, Prod.mk.injEq]
    omega

/-- A piece is not empty, lies in the range, and stays within one sector. -/
theorem splitRange_piece {p : Nat × Nat} (hp : p ∈ splitRange va len) :
    0 < p.2 ∧ p.1 / 32 = (p.1 + p.2 - 1) / 32 ∧ va ≤ p.1 ∧ p.1 + p.2 ≤ va + len := by
  rw [splitRange_eq] at hp
  obtain ⟨i, hi, rfl⟩ := List.mem_map.mp hp
  have hi := List.mem_range.mp hi
  unfold sectorCount at hi
  split_ifs at hi with hlen
  · omega
  · simp only [sectorCut]
    omega

/-- The pieces of a range are together as long as it. -/
theorem splitRange_sum : ((splitRange va len).map Prod.snd).sum = len := by
  rw [splitRange_eq, List.map_map]
  have hsum := Finset.sum_range_tsub (sectorCut_mono va len) (sectorCount va len)
  rw [sectorCut_count, sectorCut_zero, Nat.add_sub_cancel_left] at hsum
  exact hsum

end

/-- The bytes between two successive boundaries of rising ones, joined, are those up to the last boundary. -/
theorem flatMap_between {α : Type} {cut : Nat → Nat} (hmono : Monotone cut) (bs : List α) (n : Nat) :
    (List.range n).flatMap (fun i => (bs.drop (cut i - cut 0)).take (cut (i + 1) - cut i)) = bs.take (cut n - cut 0) := by
  induction n with
  | zero => simp
  | succ n ih =>
    have hlow : cut 0 ≤ cut n := hmono (Nat.zero_le n)
    have hstep : cut n ≤ cut (n + 1) := hmono (Nat.le_succ n)
    have hlen : cut (n + 1) - cut 0 = (cut n - cut 0) + (cut (n + 1) - cut n) := by omega
    rw [List.range_succ, List.flatMap_append, ih, List.flatMap_singleton, hlen, List.take_add]

/-- Splitting bytes at sector boundaries keeps them, in order. -/
theorem splitSectors_flatMap (va : Nat) (bs : List Byte) : (splitSectors va bs).flatMap Prod.snd = bs := by
  have hjoin := flatMap_between (sectorCut_mono va bs.length) bs (sectorCount va bs.length)
  rw [sectorCut_count, sectorCut_zero, Nat.add_sub_cancel_left, List.take_length] at hjoin
  rw [splitSectors, splitRange_eq, List.flatMap_map, List.flatMap_map]
  exact hjoin

/-- A piece of bytes that are split at sector boundaries has the length of its part of the range. -/
theorem splitSectors_piece {va : Nat} {bs : List Byte} {p : Nat × List Byte} (hp : p ∈ splitSectors va bs) :
    (p.1, p.2.length) ∈ splitRange va bs.length := by
  obtain ⟨r, hr, rfl⟩ := List.mem_map.mp hp
  obtain ⟨-, -, hlow, hhigh⟩ := splitRange_piece va bs.length hr
  have hlen : ((bs.drop (r.1 - va)).take r.2).length = r.2 := by
    rw [List.length_take, List.length_drop]
    omega
  rw [hlen]
  exact hr

/-- A byte of a fill is the byte of its pattern. -/
theorem fillBytes_getD (c : Cmd) {len o : Nat} (ho : o < len) : (fillBytes c len).getD o 0 = c.pkt.getD (32 + o % patBytes c) 0 := by
  rw [fillBytes, List.getD_eq_getElem _ _ (by simpa using ho), List.getElem_map, List.getElem_range]

/-- Settles O28: the pieces lie between the boundaries of the range, which rise from its first address to its end. -/
theorem copyPiecesCover : Obligations.CopyPiecesCover := by
  refine ⟨fun src dst len => ⟨?sum, ?pieces⟩, fun c len o ho => fillBytes_getD c ho, fun va bs => ⟨splitSectors_flatMap va bs, ?split⟩⟩
  case sum =>
    rw [copyPieces, List.map_map]
    exact splitRange_sum src len
  case pieces =>
    intro p hp
    obtain ⟨r, hr, rfl⟩ := List.mem_map.mp hp
    obtain ⟨hpos, hsector, hlow, hhigh⟩ := splitRange_piece src len hr
    refine ⟨hpos, hsector, hlow, hhigh, ?_⟩
    show r.1 + dst = dst + (r.1 - src) + src
    omega
  case split =>
    intro p hp
    obtain ⟨hpos, hsector, -, -⟩ := splitRange_piece va bs.length (splitSectors_piece hp)
    exact ⟨List.ne_nil_of_length_pos hpos, hsector⟩

end Sys2Proof.Machine
end

section
/-! PROOF. The copies and the fill as they begin: their turn at their engine, their fields and ranges, and the pieces that they start with. -/
namespace Sys2Proof.Machine

/-! ## The row of a DMA command (08 R192, 14 R322) -/

section
variable {s : State} {cid op : Nat} {c : Cmd} {x : CtxRef}

section
variable (hc : s.cmd? cid = some c) (hop : c.opcode = op) (hr : s.engineRuns c.q = true) (hp : c.phase = .begun)
include hc hop hr hp

/-- A DMA command that has begun ends where its engine is held in reset. -/
theorem State.dmaRow_down (hd : s.engineDown c = true) (go : Cmd → CtxRef → State) :
    s.dmaRow cid op go = s.stopCmd c.cid .addressFault (failAddr (c.field 16 8)) := by
  simp [State.dmaRow, State.engineGone, hc, hop, hr, hd, hp]

/-- A DMA command that has begun, and whose turn has come, is checked and starts. -/
theorem State.dmaRow_turn (hd : s.engineDown c = false) (hx : s.cmdCtx c = some x) (ht : s.dmaTurn c = true) (go : Cmd → CtxRef → State) :
    s.dmaRow cid op go = go c x := by
  simp [State.dmaRow, State.engineGone, hc, hop, hr, hd, hp, hx, ht]

end

/-! ## What each command starts with (09 R224) -/

/-- A DMA command has begun at an engine that is up, and its turn has come. -/
structure State.DmaReady (s : State) (cid op : Nat) (c : Cmd) (x : CtxRef) : Prop where
  cmd : s.cmd? cid = some c
  opcode : c.opcode = op
  runs : s.engineRuns c.q = true
  begun : c.phase = .begun
  up : s.engineDown c = false
  ctx : s.cmdCtx c = some x
  turn : s.dmaTurn c = true

theorem State.DmaReady.row (h : s.DmaReady cid op c x) (go : Cmd → CtxRef → State) : s.dmaRow cid op go = go c x :=
  State.dmaRow_turn h.cmd h.opcode h.runs h.begun h.up h.ctx h.turn go

theorem exec_dmaCopy_badSrc (h : s.DmaReady cid 0x18 c x) (hsrc : c.pointer 16 = false) :
    exec (.dmaCopy cid) s = .next (s.badParam c.cid 16) := by
  show Host.Outcome.next (s.dmaRow cid 0x18 _) = _
  rw [h.row]
  simp only [State.checked, firstFail, hsrc, Bool.false_eq_true, if_false]

/-- A copy with legal fields, whose ranges can be reached and share no byte, starts with a piece for each source sector. -/
theorem exec_dmaCopy (h : s.DmaReady cid 0x18 c x)
    (hfields : firstFail [(16, c.pointer 16), (24, c.pointer 24), (40, c.byte 40 ≤ 1), (41, c.zero 41 64)] = none)
    (hsrc : ∀ w ∈ s.srcWants c x.inst (c.field 16 8) (c.field 32 8), s.rangeBad x.inst c.since w.1 w.2.1 w.2.2 = none)
    (hdst : s.rangeBad x.inst c.since .write (c.field 24 8) (c.field 32 8) = none)
    (hapart : (s.rangeTo x.inst c.since (c.field 16 8) (c.field 32 8)).any (fun a =>
      (s.rangeTo x.inst c.since (c.field 24 8) (c.field 32 8)).any (fun b => pieceMeets a b)) = false) :
    exec (.dmaCopy cid) s = .next (s.startPieces cid (copyPieces (c.field 16 8) (c.field 24 8) (c.field 32 8)) []) := by
  have hreach : ∀ w ∈ s.srcWants c x.inst (c.field 16 8) (c.field 32 8) ++ [(.write, c.field 24 8, c.field 32 8)],
      s.rangeBad x.inst c.since w.1 w.2.1 w.2.2 = none := by
    intro w hw
    rcases List.mem_append.mp hw with hw | hw
    · exact hsrc w hw
    · rwa [List.mem_singleton.mp hw]
  show Host.Outcome.next (s.dmaRow cid 0x18 _) = _
  rw [h.row]
  simp only [hapart]
  rw [State.checked_of_pass hfields, State.withRanges_of_reached _ hreach]
  simp only [Bool.false_eq_true, if_false]

/-- A fill with legal fields starts with its pattern, split at sector boundaries. -/
theorem exec_dmaFill (h : s.DmaReady cid 0x19 c x)
    (hfields : firstFail [(16, c.pointer 16), (40, c.byte 40 ≤ 3), (40, c.field 16 8 % patBytes c = 0 && c.field 24 8 % patBytes c = 0),
      (40, c.zero (32 + patBytes c) 40), (41, c.zero 41 64)] = none)
    (hdst : s.rangeBad x.inst c.since .write (c.field 16 8) (c.field 24 8) = none) :
    exec (.dmaFill cid) s = .next (s.startPieces cid [] (splitSectors (c.field 16 8) (fillBytes c (c.field 24 8)))) := by
  show Host.Outcome.next (s.dmaRow cid 0x19 _) = _
  rw [h.row]
  exact congrArg _ ((State.checked_of_pass hfields _).trans (State.withRanges_of_reached _ (by simpa using hdst)))

/-- A strided copy with legal fields starts with the pieces of its rows, each row with its end. -/
theorem exec_dmaCopyStrided (h : s.DmaReady cid 0x1A c x)
    (hfields : firstFail [(16, c.pointer 16), (24, c.pointer 24), (80, c.zero 80 128)] = none)
    (hrows : ∀ r ∈ stridedRows c, s.rangeBad x.inst c.since .read r.1 (c.field 32 8) = none ∧
      s.rangeBad x.inst c.since .write r.2 (c.field 32 8) = none) :
    exec (.dmaCopyStrided cid) s =
      .next (s.startPieces cid ((stridedRows c).flatMap (fun r => copyPieces r.1 r.2 (c.field 32 8) ++ [(0, 0, 0)])) []) := by
  have hreach : ∀ w ∈ (stridedRows c).map (fun r => (Want.read, r.1, c.field 32 8)) ++
      (stridedRows c).map (fun r => (Want.write, r.2, c.field 32 8)), s.rangeBad x.inst c.since w.1 w.2.1 w.2.2 = none := by
    intro w hw
    rcases List.mem_append.mp hw with hw | hw <;> obtain ⟨r, hr, rfl⟩ := List.mem_map.mp hw
    · exact (hrows r hr).1
    · exact (hrows r hr).2
  show Host.Outcome.next (s.dmaRow cid 0x1A _) = _
  rw [h.row]
  exact congrArg _ ((State.checked_of_pass hfields _).trans (State.withRanges_of_reached _ hreach))

end

/-- Settles O27: each row runs its own effect at a turn, and its checks and ranges let it start. -/
theorem copyAndFillStart : Obligations.CopyAndFillStart := by
  unfold Obligations.CopyAndFillStart
  intro s cid c x hc hx ht hp hr
  refine ⟨fun hd => ⟨fun hop => ?_, fun hop => ?_, fun hop => ?_⟩, fun hd => ⟨?badSrc, ?copy, ?fill, ?strided⟩⟩
  · exact congrArg _ (State.dmaRow_down hc hop hr hp hd _)
  · exact congrArg _ (State.dmaRow_down hc hop hr hp hd _)
  · exact congrArg _ (State.dmaRow_down hc hop hr hp hd _)
  case badSrc => exact fun hop hsrc => exec_dmaCopy_badSrc ⟨hc, hop, hr, hp, hd, hx, ht⟩ hsrc
  case copy =>
    intro hop hsrc hdst hflags hzero hreadable hwritable hapart
    exact exec_dmaCopy ⟨hc, hop, hr, hp, hd, hx, ht⟩ (by simp [firstFail, hsrc, hdst, hflags, hzero]) hreadable hwritable hapart
  case fill =>
    intro hop hdst hwidth hstart hlen hpattern hzero hwritable
    exact exec_dmaFill ⟨hc, hop, hr, hp, hd, hx, ht⟩ (by simp [firstFail, hdst, hwidth, hstart, hlen, hpattern, hzero]) hwritable
  case strided =>
    intro hop hsrc hdst hzero hrows
    exact exec_dmaCopyStrided ⟨hc, hop, hr, hp, hd, hx, ht⟩ (by simp [firstFail, hsrc, hdst, hzero]) hrows

end Sys2Proof.Machine
end

section
/-! PROOF. The manager commands about instances and configuration, and the queries: fields that pass, ranges that may be used, and what each
row then does. -/
namespace Sys2Proof.Machine
open Sys2Proof.Claims

/-! ## A manager command whose fields pass (09 R217, R227) -/

section
variable {s : State} {cid op : Nat} {c : Cmd}

theorem mgrAddr_of_lt {a : Nat} (h : a < 2 ^ 42) : mgrAddr a = true := decide_eq_true h

/-- A begun command whose fields pass goes on to its effect. -/
theorem State.mgrRow_of_pass (hb : mgrBegun s cid op c) {checks : Cmd → List (Nat × Bool)} (hpass : firstFail (checks c) = none)
    (go : Cmd → State) : s.mgrRow cid op (fun c => s.checked c (checks c) (go c)) = go c :=
  (State.mgrRow_begun hb _).trans (State.checked_of_pass hpass _)

/-- A begun command whose fields pass, and that may use its range, goes on; the HBM of a range that it reads is then in use. -/
theorem State.mgrRow_of_usable (hb : mgrBegun s cid op c) {checks : Cmd → List (Nat × Bool)} (hpass : firstFail (checks c) = none)
    {reads : Bool} {a len : Cmd → Nat} (hu : mgrUsable s reads (a c) (len c)) (go : Cmd → State → State) :
    s.mgrRow cid op (fun c => s.checked c (checks c) (s.withMgr c reads (a c) (len c) (go c))) =
      go c (if reads then s.useRange c.cid (a c) (len c) else s) :=
  (State.mgrRow_of_pass hb hpass _).trans (State.withMgr_usable hu _)

/-- Completion rings that need no page table from HBM are zeroed at once. -/
theorem State.withRings_of_near {t : State} {i : Nat} (h : t.ringLines i = []) (go : State → State) : s.withRings t i go = go t := by
  simp [State.withRings, h]

end

/-! ## `INSTANCE_CREATE` (10 R237, R238) -/

section
variable {s : State} {cid : Nat} {c : Cmd}

/-- The number of a new instance is the first that none holds, where one is left. -/
theorem State.find_freeInst (h : ∃ n, n < 4096 ∧ ∀ i ∈ s.insts, i.id ≠ n) :
    (List.range 4096).find? (fun n => !s.insts.any (fun i => i.id = n)) = some s.freeInst := by
  obtain ⟨n, hn, hfree⟩ := h
  have hsome : ((List.range 4096).find? (fun n => !s.insts.any (fun i => i.id = n))).isSome = true :=
    List.find?_isSome.mpr ⟨n, List.mem_range.mpr hn, by simpa using hfree⟩
  obtain ⟨k, hk⟩ := Option.isSome_iff_exists.mp hsome
  rw [State.freeInst, hk, Option.getD_some]

theorem State.freeInst_lowest (h : ∃ n, n < 4096 ∧ ∀ i ∈ s.insts, i.id ≠ n) :
    s.freeInst < 4096 ∧ (∀ i ∈ s.insts, i.id ≠ s.freeInst) ∧ (∀ n, n < s.freeInst → ∃ i ∈ s.insts, i.id = n) := by
  obtain ⟨hfree, hrange, hlower⟩ := List.find?_range_eq_some.mp (State.find_freeInst h)
  exact ⟨List.mem_range.mp hrange, by simpa using hfree, fun n hn => by simpa using hlower n hn⟩

/-- A legal record that the pools can serve, and whose rings need no page table from HBM, makes its instance. -/
theorem exec_instanceCreate (hb : mgrBegun s cid 0x80 c) (hpass : firstFail [(16, mgrAddr (c.field 16 8)), (28, c.zero 28 64)] = none)
    (hlen : 64 ≤ c.field 24 4) (hu : mgrUsable s true (c.field 16 8) (c.field 24 4)) {t : State} {bs : List Byte}
    (ht : s.useRange c.cid (c.field 16 8) (c.field 24 4) = t)
    (hbs : t.homeBytes (c.field 16 8) (min (c.field 24 4) (recLen (t.homeBytes (c.field 16 8) 64))) = bs)
    (hok : t.recordOk bs (c.field 24 4) = true) (hpool : t.poolBad bs = none) (hrings : (t.makeInst bs).ringLines t.freeInst = []) :
    exec (.instanceCreate cid) s =
      .next ((((t.makeInst bs).zeroRings t.freeInst).drainEvents).doneCmd cid .success (t.freeInst + (t.freeInst + 1) * 2 ^ 16)) := by
  refine congrArg Host.Outcome.next ((State.mgrRow_of_usable hb hpass hu _).trans ?_)
  simp only [if_true, ht, hbs, hok, hpool, Nat.not_lt.mpr hlen, decide_false, Bool.not_true, Bool.or_self, Bool.false_eq_true, if_false]
  exact State.withRings_of_near hrings _

end

/-- Settles O34: past its checks the command makes the instance, under the first number of the range that no instance holds. -/
theorem instanceCreates : Obligations.InstanceCreates := by
  unfold Obligations.InstanceCreates
  refine ⟨?creates, fun s h => State.freeInst_lowest h⟩
  case creates =>
    intro s cid c hb haddr hzero hlen hu t bs hok hpool hrings
    exact exec_instanceCreate hb (by simp [mgrAddr_of_lt haddr, hzero]) hlen hu rfl rfl hok hpool hrings

/-! ## `INSTANCE_QUIESCE` (10 R248) -/

section
variable {s : State} {cid : Nat} {c : Cmd}

theorem exec_instanceQuiesce (hb : mgrBegun s cid 0x82 c) (hi : (s.inst? (c.field 16 2)).isSome = true) (hzero : c.zero 18 64 = true) :
    exec (.instanceQuiesce cid) s = .next (((s.tdiError (c.field 16 2)).updInst (c.field 16 2)
      (fun x => { x.quiesceQueues with st := .quiescing })).activate cid) :=
  congrArg Host.Outcome.next (State.mgrRow_of_pass hb (by simp [State.instNamed, hi, hzero]) _)

theorem exec_quiesceTimeout (hc : s.cmd? cid = some c) (hop : c.opcode = 0x82) (hp : c.phase = .active) (hclk : s.clocked = true)
    (hdue : c.start + oneSec ≤ s.time) (hleft : s.instInFlight (c.field 16 2) ≠ []) :
    exec (.quiesceTimeout cid) s =
      .next ((s.updInst (c.field 16 2) (fun x => { x with st := .quiesced })).doneCmd cid .timeout (s.elapsedMs c)) := by
  show execQuiesceTimeout cid s = _
  simp [execQuiesceTimeout, State.clockRow_clocked hclk, hc, hop, hp, hdue, hleft]

/-! ## Reset and destroy (10 R241, R249, R251) -/

theorem exec_instanceReset (hb : mgrBegun s cid 0x83 c) (hi : (s.inst? (c.field 16 2)).isSome = true) (hwhole : c.byte 18 = 0)
    (hzero : c.zero 20 64 = true) :
    exec (.instanceReset cid) s = .next (if s.resetBusy (c.field 16 2) then s.doneCmd cid .busy 0 else s.resetCmd c .resetting) := by
  refine congrArg Host.Outcome.next ((State.mgrRow_begun hb _).trans ?_)
  rw [if_neg (by simp [hwhole]), State.checked_of_pass (by simp [State.instNamed, hi, hwhole, hzero])]

theorem exec_instanceDestroy (hb : mgrBegun s cid 0x81 c) (hi : (s.inst? (c.field 16 2)).isSome = true) (hzero : c.zero 18 64 = true) :
    exec (.instanceDestroy cid) s = .next (if s.configBusy then s.doneCmd cid .configPending 0
      else if s.resetBusy (c.field 16 2) then s.doneCmd cid .busy 0 else s.resetCmd c .destroying) :=
  congrArg Host.Outcome.next (State.mgrRow_of_pass hb (by simp [State.instNamed, hi, hzero]) _)

theorem exec_instanceResetDrainEnd (hc : s.cmd? cid = some c) (hop : c.opcode = 0x83 ∨ c.opcode = 0x81) (hp : c.phase = .active)
    (hran : c.herdRan = false) (hclk : s.clocked = true) (hdue : c.mark + 150000 ≤ s.time) :
    exec (.instanceResetDrainEnd cid) s =
      .next ((s.resetSquash (c.field 16 2)).updCmd cid (fun c => { c with herdRan := true })) := by
  show execInstanceResetDrainEnd cid s = _
  simp [execInstanceResetDrainEnd, State.clockRow_clocked hclk, hc, hop, hp, hran, hdue]

theorem exec_instanceResetContext (hb : mgrBegun s cid 0x83 c) (hi : (s.inst? (c.field 16 2)).isSome = true) (hone : c.byte 18 = 1)
    (hx : (s.ctx? { inst := c.field 16 2, ctx := c.byte 19 }).isSome = true) (hzero : c.zero 20 64 = true)
    (hrings : s.ringLines (c.field 16 2) = []) :
    exec (.instanceResetContext cid) s = .next ((((s.tdiError (c.field 16 2)).resetCtx
      { inst := c.field 16 2, ctx := c.byte 19 }).drainEvents).doneCmd cid .success 0) := by
  refine congrArg Host.Outcome.next ((State.mgrRow_begun hb _).trans ?_)
  rw [if_neg (by simp [hone]), State.checked_of_pass (by simp [State.instNamed, hi, hx, hzero])]
  exact State.withRings_of_near hrings _

end

/-- Settles O35: a quiesce, reset or destroy past its checks begins or is refused, and its timeout and the end of its drain act by the
clock. -/
theorem instanceEndRules : Obligations.InstanceEndRules := by
  unfold Obligations.InstanceEndRules
  refine ⟨⟨?quiesce, ?timeout⟩, ?reset, ?destroy, ?drainEnd, ?context⟩
  case quiesce => exact fun _ _ _ => exec_instanceQuiesce
  case timeout => exact fun _ _ _ => exec_quiesceTimeout
  case reset => exact fun _ _ _ => exec_instanceReset
  case destroy => exact fun _ _ _ => exec_instanceDestroy
  case drainEnd => exact fun _ _ _ => exec_instanceResetDrainEnd
  case context => exact fun _ _ _ => exec_instanceResetContext

/-! ## Queries (10 R257, 14 R337, 15 R367, 16 R379) -/

section
variable {s : State} {cid : Nat} {c : Cmd}

theorem exec_instanceQuery {i : Inst} (hb : mgrBegun s cid 0x84 c) (hi : s.inst? (c.field 16 2) = some i) (hzero : c.zero 18 24 = true)
    (haddr : c.field 24 8 < 2 ^ 42) (hrest : c.zero 32 64 = true) (hu : mgrUsable s false (c.field 24 8) 256) :
    exec (.instanceQuery cid) s = .next (s.mgrAnswer c (c.field 24 8) (s.instRecord i)) := by
  have hpass : firstFail [(16, s.instNamed c), (18, c.zero 18 24), (24, mgrAddr (c.field 24 8)), (32, c.zero 32 64)] = none := by
    simp [State.instNamed, hi, hzero, mgrAddr_of_lt haddr, hrest]
  refine congrArg Host.Outcome.next ((State.mgrRow_of_pass hb hpass _).trans ?_)
  simp only [hi]
  exact State.withMgr_usable hu _

section
variable (hzero : c.zero 16 24 = true) (haddr : c.field 24 8 < 2 ^ 42) (hrest : c.zero 32 64 = true)
include hzero haddr hrest

/-- The fields of a query that names nothing but the place of its answer. -/
theorem firstFail_answer : firstFail [(16, c.zero 16 24), (24, mgrAddr (c.field 24 8)), (32, c.zero 32 64)] = none := by
  simp [hzero, mgrAddr_of_lt haddr, hrest]

theorem exec_powerQuery (hb : mgrBegun s cid 0x99 c) (hu : mgrUsable s false (c.field 24 8) 64) :
    exec (.powerQuery cid) s = .next (s.mgrAnswer c (c.field 24 8) s.powerRecord) :=
  congrArg Host.Outcome.next (State.mgrRow_of_usable hb (firstFail_answer hzero haddr hrest) hu _)

theorem exec_resetCountersRead (hb : mgrBegun s cid 0xA1 c) (hu : mgrUsable s false (c.field 24 8) 64) :
    exec (.resetCountersRead cid) s = .next (s.mgrAnswer c (c.field 24 8) (s.rs.counts.flatMap (fun n => leBytes n.toNat 4))) :=
  congrArg Host.Outcome.next (State.mgrRow_of_usable hb (firstFail_answer hzero haddr hrest) hu _)

end

theorem exec_coreDiagnose {res : BitVec 8} {u : BitVec 19} {rf : BitVec 4} {l1 : BitVec 16} {us : Word} (hb : mgrBegun s cid 0x91 c)
    (hpass : firstFail [(16, c.byte 16 < 64), (17, c.zero 17 24), (24, mgrAddr (c.field 24 8)), (32, c.zero 32 64)] = none)
    (hfenced : s.coreFenced (c.byte 16) = true) (hu : mgrUsable s false (c.field 24 8) 64) (hd : diagnosable res u rf l1 us = true) :
    exec (.coreDiagnose cid res u rf l1 us) s = .next ((s.countReset 11).mgrAnswer c (c.field 24 8)
      (leBytes (res.toNat + s.fenceCause (c.byte 16) * 2 ^ 8) 4 ++ leBytes u.toNat 4 ++ leBytes (rf.toNat + l1.toNat * 2 ^ 4) 4
        ++ leBytes us.toNat 4 ++ List.replicate 48 0)) := by
  refine congrArg Host.Outcome.next ((State.mgrRow_begun hb _).trans ?_)
  simp only [hd, hfenced, Bool.not_true, Bool.false_eq_true, if_false]
  exact (State.checked_of_pass hpass _).trans (State.withMgr_usable hu _)

/-! ## `RESET_COUNTERS_CLEAR` (14 R337) -/

/-- The counters that a mask leaves: those that it names are 0. -/
def clearedCounts (mask : Nat) (counts : List Word) : List Word := counts.zipIdx.map (fun p => if bit mask p.2 then 0 else p.1)

@[simp] theorem clearedCounts_length (mask : Nat) (counts : List Word) : (clearedCounts mask counts).length = counts.length := by
  simp [clearedCounts]

theorem clearedCounts_getElem? {mask i : Nat} {counts : List Word} (h : i < counts.length) :
    (clearedCounts mask counts)[i]? = if mask.testBit i then some 0#32 else counts[i]? := by
  simp only [clearedCounts, List.getElem?_map, List.getElem?_zipIdx, List.getElem?_eq_getElem h, Option.map_some, Nat.zero_add, bit]
  exact apply_ite some _ _ _

theorem exec_resetCountersClear (hb : mgrBegun s cid 0xA2 c) (hzero : c.zero 18 64 = true) :
    exec (.resetCountersClear cid) s = .next (if s.lc.st = 2 || s.lc.st = 4 then s.doneCmd cid .notPermitted 0
      else ({ s with rs := { s.rs with counts := clearedCounts (c.field 16 2) s.rs.counts } } : State).doneCmd cid .success 0) :=
  congrArg Host.Outcome.next (State.mgrRow_of_pass hb (by simp [hzero]) _)

end

/-- Settles O36: each query answers in memory that it may use, and the clearing leaves `clearedCounts`. -/
theorem queriesAnswer : Obligations.QueriesAnswer := by
  unfold Obligations.QueriesAnswer
  refine ⟨⟨?inst, ?power, ?counters, ?core⟩, ?clear⟩
  case inst => exact fun _ _ _ _ => exec_instanceQuery
  case power => exact fun _ _ _ hb hzero haddr hrest hu => exec_powerQuery hzero haddr hrest hb hu
  case counters => exact fun _ _ _ hb hzero haddr hrest hu => exec_resetCountersRead hzero haddr hrest hb hu
  case core =>
    intro s cid c res u rf l1 us hb hcore hzero haddr hrest hfenced hu hd
    exact exec_coreDiagnose hb (by simp [hcore, hzero, mgrAddr_of_lt haddr, hrest]) hfenced hu hd
  case clear =>
    intro s cid c hb hzero
    rw [exec_resetCountersClear hb hzero]
    refine ⟨fun hdeployed hreturned => ⟨clearedCounts (c.field 16 2) s.rs.counts, ?_, clearedCounts_length _ _, fun i hi =>
      clearedCounts_getElem? hi⟩, fun hheld => ?_⟩
    · rw [if_neg (by simp [hdeployed, hreturned])]
    · rw [if_pos (by simpa using hheld)]

/-! ## Configuration (10 R254, R255) -/

section
variable {s : State} {cid : Nat} {c : Cmd} {ch : Change}

/-- A legal record for which there is room is held under the next token. -/
theorem exec_configStage {ps : List Place} (hb : mgrBegun s cid 0x88 c)
    (hpass : firstFail [(16, mgrAddr (c.field 16 8)), (28, c.zero 28 64)] = none) (hlen : 16 ≤ c.field 24 4)
    (hu : mgrUsable s true (c.field 16 8) (c.field 24 4)) {t : State} {bs : List Byte}
    (ht : s.useRange c.cid (c.field 16 8) (c.field 24 4) = t)
    (hbs : t.homeBytes (c.field 16 8) (min (c.field 24 4) (cfgLen (t.homeBytes (c.field 16 8) 16))) = bs)
    (hok : t.cfgOk bs (c.field 24 4) = true)
    (hfree : t.changeBusy (changeOf bs t.cf.nextToken) ((cfgPlaces bs).map (fun p => p.1)) = false) (hps : t.placed bs = .ok ps) :
    exec (.configStage cid) s = .next (({ t with cf := { t.cf with
      staged := some { changeOf bs t.cf.nextToken with places := ps }, nextToken := nextTok t.cf.nextToken } } : State).doneCmd cid .success
        t.cf.nextToken) := by
  refine congrArg Host.Outcome.next ((State.mgrRow_of_pass hb hpass _).trans ?_)
  rw [if_neg (Nat.not_lt.mpr hlen), State.withMgr_usable hu]
  simp only [if_true, ht, hbs, hok, hfree, hps, Bool.not_true, Bool.false_eq_true, if_false]

theorem exec_configApply (hb : mgrBegun s cid 0x89 c) (hst : s.cf.staged = some ch) (htok : ch.token = c.field 16 4)
    (hzero : c.zero 20 64 = true) (hidle : s.cf.applying = none) (hfree : s.changeBusy ch (ch.places.map (fun p => p.block)) = false) :
    exec (.configApply cid) s = .next (({ s with cf := { s.cf with
      staged := none, applying := some { ch with begun := s.time }, pendingRegions := BitVec.allOnes 16 } } : State).activate cid) := by
  refine congrArg Host.Outcome.next ((State.mgrRow_of_pass hb (by simp [hst, htok, hzero]) _).trans ?_)
  simp only [hst, State.configBusy, hidle, hfree, Option.isSome_none, Bool.false_eq_true, if_false]

/-- The change at a region's boundary: the region adopts it, and with the last region it is in force everywhere. -/
def State.adopt (s : State) (region : Nat) (ch : Change) : State :=
  let t := ({ s with cf := { s.cf with
    regions := updAt s.cf.regions region (fun _ => (s.region region).after region ch),
    pendingRegions := s.cf.pendingRegions &&& ~~~((1 : BitVec 16) <<< region) } } : State).carve region (s.region region).h
      ((s.region region).after region ch).h
  if t.cf.pendingRegions == 0#16 then t.applied ch else t

theorem exec_configEpochBoundary {region : Nat} (ha : s.cf.applying = some ch) (hr : region < 16) (hrun : s.running = true)
    (hpend : s.cf.pendingRegions.getLsbD region = true) :
    exec (.configEpochBoundary region) s = .next ((((s.adopt region ch).cmds.filter (fun c => c.opcode = 0x89 && c.phase = .active)).map
      (fun c => c.cid)).foldl (fun t k => t.doneCmd k .success 0) (s.adopt region ch)) := by
  have hturn : ¬(16 ≤ region || !s.running || !s.cf.pendingRegions.getLsbD region) = true := by simp [hr, hrun, hpend]
  refine congrArg Host.Outcome.next ?_
  split
  next hnone => cases ha.symm.trans hnone
  next held hheld =>
    cases ha.symm.trans hheld
    exact if_neg hturn

theorem exec_configStatus_waits (hb : mgrBegun s cid 0x8A c) (hzero : c.zero 20 64 = true)
    (hw : s.cf.applying.elim false (fun ch => ch.token = c.field 16 4) = true) :
    exec (.configStatus cid) s = .next (s.doneCmd cid .configPending 0) := by
  refine congrArg Host.Outcome.next ((State.mgrRow_of_pass hb (by simp [hw, hzero]) _).trans ?_)
  rw [hw, Bool.true_or, if_pos rfl]

theorem exec_configStatus_current (hb : mgrBegun s cid 0x8A c) (hzero : c.zero 20 64 = true) (ha : s.cf.applying = none)
    (hst : s.cf.staged = none) (h0 : c.field 16 4 ≠ 0) (htok : s.cf.token.toNat = c.field 16 4) :
    exec (.configStatus cid) s = .next (s.doneCmd cid .success 0) := by
  refine congrArg Host.Outcome.next ((State.mgrRow_of_pass hb (firstFail_eq_none.mpr (by simp [ha, hst, h0, htok, hzero])) _).trans ?_)
  simp [ha, hst]

end

/-- Settles O37: a change is held, handed over, adopted region by region, and told from the current one. -/
theorem configurationRules : Obligations.ConfigurationRules := by
  unfold Obligations.ConfigurationRules
  refine ⟨?stage, ?apply, ?boundary, ?status⟩
  case stage =>
    intro s cid c ps hb haddr hzero hlen hu t bs hok hfree hps
    exact exec_configStage hb (by simp [mgrAddr_of_lt haddr, hzero]) hlen hu rfl rfl hok hfree hps
  case apply => exact fun _ _ _ _ => exec_configApply
  case boundary => exact fun _ _ _ => exec_configEpochBoundary
  case status => exact fun _ _ _ hb hzero => ⟨exec_configStatus_waits hb hzero, exec_configStatus_current hb hzero⟩

end Sys2Proof.Machine
end

section
/-! PROOF. The commands of the Ramblers and of the firmware: what a run starts with and ends in, what an image that is staged is answered. -/
namespace Sys2Proof.Machine
open Sys2Proof.Claims

/-! ## `RAMBLER_RUN` and its end (11 R274 to R276) -/

section
variable {s : State} {cid : Nat} {c : Cmd}

/-- The Ramblers as a record starts them. -/
def State.ramblerOf (s : State) (cid : Nat) (bs : List Byte) : Rambler :=
  let w := fld bs 0x40 4
  { cid := cid, channels := BitVec.ofNat 512 (fld bs 0 64), op := bits w 5 4, pattern := bits w 3 0, seed := BitVec.ofNat 32 (fld bs 0x44 4)
    passes := bits w 31 16, raw := bit w 15, started := s.time, lasts := s.ramblePasses bs
    inOrder := decide (bits w 7 6 = 2), stopped := 0, found := [] }

/-- What a legal record does whose channels hold neither itself nor its result table. -/
def State.startRun (s : State) (cid : Nat) (bs : List Byte) : State :=
  if fld bs 0 64 = 0 || bits (fld bs 0x40 4) 31 16 = 0 then s.doneCmd cid .success 0
  else if s.channelBusy (fld bs 0 64) || s.stackHot (fld bs 0 64) then s.doneCmd cid .busy 0
  else ({ s with rambler := some (s.ramblerOf cid bs) } : State).activate cid

theorem State.startRun_nothing {bs : List Byte} (h : fld bs 0 64 = 0 ∨ bits (fld bs 0x40 4) 31 16 = 0) :
    s.startRun cid bs = s.doneCmd cid .success 0 := if_pos (by simpa using h)

theorem State.startRun_runs {bs : List Byte} (hmask : fld bs 0 64 ≠ 0) (hpasses : bits (fld bs 0x40 4) 31 16 ≠ 0)
    (hfree : s.channelBusy (fld bs 0 64) = false) (hcool : s.stackHot (fld bs 0 64) = false) :
    s.startRun cid bs = ({ s with rambler := some (s.ramblerOf cid bs) } : State).activate cid :=
  (if_neg (by simp [hmask, hpasses])).trans (if_neg (by simp [hfree, hcool]))

/-- A legal record in memory off the tested channels, with its table off them too, starts a run or has nothing to run. -/
theorem exec_ramblerRun (hb : mgrBegun s cid 0xA8 c)
    (hpass : firstFail [(16, mgrAddr (c.field 16 8)), (24, mgrAddr (c.field 24 8)), (32, c.zero 32 64)] = none)
    (hrec : mgrUsable s true (c.field 16 8) 128) {t : State} (ht : s.useRange c.cid (c.field 16 8) 128 = t)
    {bs : List Byte} (hbs : t.homeBytes (c.field 16 8) 128 = bs) (hout : mgrUsable t false (c.field 24 8) 16384)
    (hok : rambleOk bs = true) (htime : t.rambleTime bs ≤ 9000)
    (hoff : (mgrSectors (c.field 16 8) 128 ++ mgrSectors (c.field 24 8) 16384).any (fun sec => t.onChannels (fld bs 0 64) (sec * 32)) = false) :
    exec (.ramblerRun cid) s = .next (t.startRun cid bs) := by
  subst ht hbs
  rw [List.any_append, Bool.or_eq_false_iff] at hoff
  obtain ⟨hrecOff, houtOff⟩ := hoff
  refine congrArg Host.Outcome.next ((State.mgrRow_of_usable hb hpass hrec _).trans ?_)
  refine (if_neg ?legal).trans ((State.withMgr_usable hout _).trans (if_neg ?off))
  case legal => simp [hok, hrecOff, htime]
  case off => simp [houtOff]

theorem State.rambleOver_iff {r : Rambler} :
    s.rambleOver r = true ↔ r.started + r.lasts * 100000 ≤ s.time ∨ r.channels &&& ~~~r.stopped = 0#512 := by
  rw [State.rambleOver, Bool.or_eq_true, decide_eq_true_eq, decide_eq_true_eq]
  rfl

/-- The end of a run waits until the run is over; it then wipes what was not stopped, and answers with the result table. -/
theorem exec_ramblerRunEnd {r : Rambler} (hr : s.rambler = some r) (hc : s.cmd? r.cid = some c) (hclk : s.clocked = true)
    (res : List (List Nat)) : exec (.ramblerRunEnd res) s = .next (if s.rambleOver r then
      (({ s with rambler := none } : State).wipeChannels (r.channels &&& ~~~r.stopped).toNat).mgrAnswer c (c.field 24 8) (s.rambleTable r res)
      else s) := by
  show execRamblerRunEnd res s = _
  simp only [execRamblerRunEnd, State.clockRow_clocked hclk, hr, hc]
  cases s.rambleOver r <;> rfl

/-! ## `FW_STAGE` and `FW_ACTIVATE` (14 R343 to R345) -/

section
variable {bs : List Byte} {len : Nat}

theorem State.stageImage_malformed (h : imageOk bs len = false) : s.stageImage bs len = (s, .invalidParam) := by
  simp [State.stageImage, h]

theorem State.stageImage_barred (h : imageOk bs len = true) (hallow : s.imageAllowed bs = false) :
    s.stageImage bs len = (s, .notPermitted) := by
  simp [State.stageImage, h, hallow]

theorem State.stageImage_allowed (h : imageOk bs len = true) (hallow : s.imageAllowed bs = true) :
    s.stageImage bs len = if s.imageSigned bs then (s.hold bs, .success) else (s, .notPermitted) := by
  cases hs : s.imageSigned bs <;> simp [State.stageImage, h, hallow, hs]

end

/-- An image in memory that the command may use is answered as its checks say; one that is malformed is named as the record, 0xFF. -/
theorem exec_fwStage (hb : mgrBegun s cid 0xB0 c)
    (hpass : firstFail [(16, mgrAddr (c.field 16 8)), (24, c.field 24 4 != 0), (28, c.zero 28 64)] = none)
    (hu : mgrUsable s true (c.field 16 8) (c.field 24 4)) {t u : State} (ht : s.useRange c.cid (c.field 16 8) (c.field 24 4) = t)
    {st : Status} (hst : t.stageImage (t.homeBytes (c.field 16 8) (min (c.field 24 4) 8388768)) (c.field 24 4) = (u, st)) :
    exec (.fwStage cid) s = .next (u.doneCmd cid st (if st = .invalidParam then 0xFF else 0)) := by
  refine congrArg Host.Outcome.next ((State.mgrRow_of_usable hb hpass hu _).trans ?_)
  simp only [if_true, ht, hst]

theorem exec_fwActivate (hb : mgrBegun s cid 0xB1 c) (hzero : c.zero 16 64 = true) :
    exec (.fwActivate cid) s = .next (if s.lc.heldType = 0#2 then s.doneCmd cid .invalidParam 0
      else if s.configBusy then s.doneCmd cid .configPending 0
      else s.activateImage.1.drainEvents.doneCmd cid (if s.activateImage.2 then .success else .invalidParam) 0) :=
  congrArg Host.Outcome.next (State.mgrRow_of_pass hb (by simp [hzero]) _)

end

/-- Settles O40: each command past its checks starts, ends, holds or activates as its own function says. -/
theorem ramblerAndFirmwareRules : Obligations.RamblerAndFirmwareRules := by
  unfold Obligations.RamblerAndFirmwareRules
  refine ⟨⟨?run, ?runEnd⟩, ?stage, ?activate⟩
  case run =>
    intro s cid c hb haddr hout hzero hrec t bs mask w huout hok htime hoff
    have hrun : exec (.ramblerRun cid) s = .next (t.startRun cid bs) :=
      exec_ramblerRun hb (by simp [mgrAddr_of_lt haddr, mgrAddr_of_lt hout, hzero]) hrec rfl rfl huout hok htime hoff
    rw [hrun]
    exact ⟨fun h => congrArg _ (State.startRun_nothing h), fun hmask hpasses hfree hcool =>
      congrArg _ (State.startRun_runs hmask hpasses hfree hcool)⟩
  case runEnd =>
    intro s r c res hr hc hclk
    rw [exec_ramblerRunEnd hr hc hclk]
    exact ⟨fun hover => congrArg _ (if_pos (State.rambleOver_iff.mpr hover)), fun hearly hleft =>
      congrArg _ (if_neg fun hover => (State.rambleOver_iff.mp hover).elim (Nat.not_le.mpr hearly) hleft)⟩
  case stage =>
    intro s cid c hb haddr hlen hzero hu t bs
    have staged : ∀ {u st}, t.stageImage bs (c.field 24 4) = (u, st) →
        exec (.fwStage cid) s = .next (u.doneCmd cid st (if st = .invalidParam then 0xFF else 0)) :=
      exec_fwStage hb (firstFail_eq_none.mpr (by simp [mgrAddr_of_lt haddr, hlen, hzero])) hu rfl
    refine ⟨fun hbad => staged (State.stageImage_malformed hbad), fun hok hbar => staged (State.stageImage_barred hok hbar),
      fun hok hallow => ?_⟩
    have hstage := State.stageImage_allowed hok hallow
    cases hsig : t.imageSigned bs <;> simp only [hsig, Bool.false_eq_true, if_true, if_false] at hstage ⊢ <;> exact staged hstage
  case activate =>
    intro s cid c hb hzero
    rw [exec_fwActivate hb hzero]
    refine ⟨fun hnone => congrArg _ (if_pos hnone), fun hheld hidle => congrArg _ ((if_neg hheld).trans (if_neg ?_))⟩
    simp [State.configBusy, hidle]

end Sys2Proof.Machine
end

section
/-! PROOF. Reads of HBM and the fills that follow: what the scheduler may issue, what a line that comes in serves, what a fill and a landing line
that frees leave. -/
namespace Sys2Proof.Machine

/-! ## The scheduler (11 R261, R262) -/

section
variable {s : State}

/-- A read of the window may be issued where its stack is not held and none in the window goes before it: none of a lower class, and within its
class either its row is open, or no row of them is and none is older. -/
theorem State.canIssue_iff {r : HbmRead} : s.canIssue r = true ↔ r.entered.isSome = true ∧ (s.stack (s.homeRegion (r.sec * 32))).step ≠ 3#3 ∧
    (∀ y ∈ (s.readsOf (r.sec * 32)).filter (fun y => y.entered.isSome), s.issueClass r ≤ s.issueClass y) ∧
    (s.rowOpen (r.sec * 32) = true ∨
      ((∀ y ∈ (s.readsOf (r.sec * 32)).filter (fun y => y.entered.isSome), s.issueClass y = s.issueClass r → s.rowOpen (y.sec * 32) = false) ∧
        ∀ y ∈ (s.readsOf (r.sec * 32)).filter (fun y => y.entered.isSome), s.issueClass y = s.issueClass r → r.since ≤ y.since)) := by
  simp only [State.canIssue, Bool.and_eq_true, Bool.or_eq_true, Bool.not_eq_true', bne_iff_ne, List.all_eq_true, List.any_eq_false,
    Bool.not_eq_true, decide_eq_true_eq, and_assoc, List.mem_filter, and_imp]
  rfl

/-- The address of an entry's read is that of its line. -/
theorem HbmEntry.read_addr (e : HbmEntry) : e.read.sec * 32 = e.line * 256 := by
  show e.line * 8 * 32 = e.line * 256
  omega

theorem State.canIssue_held {e : HbmEntry} (h : (s.stack (s.homeRegion (e.line * 256))).step = 3#3) : s.canIssue e.read = false := by
  rw [← Bool.not_eq_true, State.canIssue_iff, HbmEntry.read_addr]
  exact fun ⟨_, hrun, _⟩ => hrun h

theorem State.canIssue_outside {e : HbmEntry} (h : e.entered = none) : s.canIssue e.read = false := by
  rw [← Bool.not_eq_true, State.canIssue_iff]
  rintro ⟨hin, -⟩
  exact absurd hin (by simp [HbmEntry.read, h])

/-! ## A line that comes in (06 R142, 11 R262) -/

/-- Where no stream read waits for a line, what waits is performed one after the other. -/
theorem State.serveWaiters_plain {line choice : Nat} {xs : List Req} (h : ∀ x ∈ xs, x.streamOf line = false) :
    s.serveWaiters line choice [] xs = xs.foldl (fun u x => u.perform x choice false) s := by
  induction xs generalizing s with
  | nil => rfl
  | cons x xs ih =>
    obtain ⟨hx, hxs⟩ := List.forall_mem_cons.mp h
    simp only [State.serveWaiters, List.contains_nil, hx, Bool.false_eq_true, if_false, List.foldl_cons, ih hxs]

section
variable {line choice : Nat} {ecc : List Ecc} {e : HbmEntry}

theorem exec_hbmReadComplete_waits (he : s.hbmEntries.find? (fun e => e.line = line) = some e)
    (h : s.canIssue e.read = false ∨ s.allocHeld e.inst line choice = true) : exec (.hbmReadComplete line choice ecc) s = .next s := by
  show execHbmReadComplete line choice ecc s = _
  rcases h with h | h <;> simp [execHbmReadComplete, he, h]

/-- The state in which the line of an entry has come in: its row is open, its sectors have been read, and the entry is free. -/
def State.lineIn (s : State) (e : HbmEntry) (line choice : Nat) (ecc : List Ecc) : State :=
  let t := (List.range 8).foldl (fun t i => t.hbmSector (line * 8 + i) (ecc.getD i .clean)) (s.openRow (line * 256))
  let t := t.fillLine e.inst line choice e.stream
  ({ t with hbmEntries := t.hbmEntries.filter (fun e => e.line != line) } : State).countEvent e.inst 6 (80 + t.homeRegion (line * 256)) 256

theorem exec_hbmReadComplete (he : s.hbmEntries.find? (fun e => e.line = line) = some e) (hrun : s.running = true)
    (hissue : s.canIssue e.read = true) (hway : s.allocHeld e.inst line choice = false) :
    exec (.hbmReadComplete line choice ecc) s =
      .next ((((s.lineIn e line choice ecc).serveWaiters line choice [] (s.waitersOf e)).fillWindows.resume).drainRecords) := by
  show execHbmReadComplete line choice ecc s = _
  simp only [execHbmReadComplete, he, hrun, hissue, hway, Bool.not_true, Bool.or_self, Bool.false_eq_true, if_false, State.lineIn]

end

theorem exec_hbmRequestAging (hclk : s.clocked = true) (line : Nat) : exec (.hbmRequestAging line) s =
    .next { s with hbmEntries := s.hbmEntries.map (fun e =>
      if e.line = line && e.entered.elim false (fun t => decide (t + 4000 ≤ s.time)) then { e with cls := 0 } else e) } :=
  congrArg Host.Outcome.next (State.clockRow_clocked hclk _)

/-! ## Fills and landing lines (06 R141, R144, 08 R187) -/

/-- The requests of a core whose data has left the home of a line, and that its fill serves. -/
def State.arrivals (s : State) (core line : Nat) : List Req :=
  s.reqs.filter (fun y => y.core = core && y.line = line && y.fetches && (!y.blocked || y.target != .home) && !s.fillHeld y.rid
    && (match y.phase with
      | .served _ _ _ => true
      | _ => false))

theorem exec_fillArrival (hclk : s.clocked = true) (core line choice : Nat) :
    exec (.fillArrival core line choice) s = .next ((s.arrivals core line).foldl (fun t x => t.arriveFill choice x) s) :=
  congrArg Host.Outcome.next (State.clockRow_clocked hclk _)

/-- A load of a line of this module that no other load joined reaches its herd and its slot's L1. -/
theorem State.arriveFill_load {x : Req} {choice : Nat} {res : List (Nat × Nat)} {mask : BitVec 8} {data : BitVec 2048}
    (hp : x.phase = .served res mask data) (hk : x.kind = .read) (ht : x.target = .home) (hj : s.joinedTo x.rid = []) :
    s.arriveFill choice x = ((((s.endReq x).deliver x res).fillL1 { core := x.core, slot := x.slot } x.line choice (mask &&& ~~~x.drop) data
      (decide (x.scope ≤ 1) && !x.stream))).acquireEnd x := by
  simp only [State.arriveFill, State.arriveLoad, hp, hk, ht, hj, List.foldl_nil, if_true]

theorem exec_landingCreditReturn {core : Nat} {x : Req} (hclk : s.clocked = true)
    (hx : s.reqs.find? (fun y => y.core = core && y.owesCredit) = some x) (hfree : (s.core core).landing ≠ 0) :
    exec (.landingCreditReturn core) s = .next (
      let t := s.updCore core (fun c => { c with landing := c.landing - 1 })
      ({ t with reqs := updWhere (fun (y : Req) => decide (y.rid = x.rid)) (fun (y : Req) => { y with credited := true }) t.reqs }).trimReplay) := by
  show execLandingCreditReturn core s = _
  simp only [execLandingCreditReturn, State.clockRow_clocked hclk, hx, hfree, if_false]

end

/-- Settles O43: `State.canIssue_iff` says what the scheduler may issue, and each row runs its own effect where it may. -/
theorem hbmReadServes : Obligations.HbmReadServes := by
  unfold Obligations.HbmReadServes
  refine ⟨fun s line choice ecc e he hrun => ⟨?waits, ?serves, ?ages⟩, fun s r => State.canIssue_iff, ?fill, ?credit⟩
  case waits =>
    have hline : e.line = line := by simpa using List.find?_some he
    rintro (hheld | houtside | hturn | hway)
    · exact exec_hbmReadComplete_waits he (.inl (State.canIssue_held (hline ▸ hheld)))
    · exact exec_hbmReadComplete_waits he (.inl (State.canIssue_outside houtside))
    · exact exec_hbmReadComplete_waits he (.inl hturn)
    · exact exec_hbmReadComplete_waits he (.inr hway)
  case serves =>
    intro hissue hway hplain
    rw [exec_hbmReadComplete he hrun hissue hway, State.serveWaiters_plain hplain]
    rfl
  case ages => exact exec_hbmRequestAging (State.clocked_of_running hrun) line
  case fill =>
    intro s core line choice x res mask data hone hp hk ht hj hclk
    have harrive : s.arrivals core line = [x] := hone
    rw [exec_fillArrival hclk, harrive]
    exact congrArg _ (State.arriveFill_load hp hk ht hj)
  case credit => exact fun s core x hx hfree hclk => exec_landingCreditReturn hclk hx hfree

end Sys2Proof.Machine
end

section
/-! PROOF. Refresh, scrub, training and wipe of a stack, and the poison marker in a backing memory that is not canonical. -/
namespace Sys2Proof.Machine

/-! ## Refresh and scrub (11 R264 to R268) -/

section
variable {s : State} {k sec : Nat}

theorem exec_perBankRefresh {pc bank : Nat} (hpc : pc < 64) (hbank : bank < 64) (ho : s.outOfCold = true)
    (ht : (s.stack k).trained = true) (hstep : (s.stack k).step ≠ 3#3) : exec (.perBankRefresh k pc bank) s =
      .next (s.updStack k (fun x => { x with refreshed := s.time, rows := x.rows.filter (fun p => p.1 != 64 * pc + bank) })) :=
  congrArg Host.Outcome.next (if_pos (by simp [hpc, hbank, ho, ht, hstep]))

/-- The state in which a scrub read that is asked for has been issued. -/
def State.scrubRead (s : State) (k sec : Nat) : State :=
  (s.openRow (sec * 32)).updStack k (fun x => { x with scrubs := x.scrubs.filter (fun r => r.sec != sec), scrubbed := s.time })

/-- A scrub read is asked for, and made once the controller may issue it. -/
theorem exec_patrolScrub {r : HbmRead} (hen : s.scrubEn = true) (ho : s.outOfCold = true) (ht : (s.stack k).trained = true)
    (hstep : (s.stack k).step ≠ 3#3) (hhome : s.homedHbm k (sec * 32) = true)
    (hr : ((s.askScrub k sec).stack k).scrubs.find? (fun r => r.sec = sec) = some r) (ecc : Ecc) :
    exec (.patrolScrub k sec ecc) s = .next (if (s.askScrub k sec).canIssue r
      then (((s.askScrub k sec).scrubRead k sec).scrubSector sec ecc).fillWindows else s.askScrub k sec) := by
  have hmay : (s.scrubEn && s.outOfCold && (s.stack k).trained && (s.stack k).step != 3 && s.homedHbm k (sec * 32)) = true := by
    simp [hen, ho, ht, hstep, hhome]
  refine congrArg Host.Outcome.next ((if_pos hmay).trans ?_)
  simp only [hr, State.scrubRead]

section
variable {ecc : Ecc}

theorem State.scrubSector_failed (h : s.pcFailed (sec * 32) = true) : s.scrubSector sec ecc = s.uncorrectable sec := if_pos h

section
variable (hpc : s.pcFailed (sec * 32) = false)
include hpc

theorem State.scrubSector_clean (h : ecc = .clean ∨ s.inWq sec = true) :
    s.scrubSector sec ecc = if s.poisonMarks.contains sec then s.uncorrectable sec else s := by
  have hfound : (if s.inWq sec then Ecc.clean else ecc) = .clean := by
    rcases h with h | h <;> simp [h]
  simp [State.scrubSector, hpc, hfound]

theorem State.scrubSector_lost (hq : s.inWq sec = false) (h : ecc = .uncorrectable ∨ ecc = .parityFailed) :
    s.scrubSector sec ecc = ((s.uncorrectable sec).putPoisonMark sec).queueWrite sec := by
  rcases h with h | h <;> simp [State.scrubSector, hpc, hq, h]

theorem State.scrubSector_corrected (hq : s.inWq sec = false) (h : (s.corrected sec).poisonMarks.contains sec = false) :
    s.scrubSector sec .corrected = s.corrected sec := by
  have hmark : sec ∉ (s.corrected sec).poisonMarks := by simpa using h
  simp [State.scrubSector, hpc, hq, hmark]

end
end

/-- The counts of a stack after a read of it. -/
theorem State.stack_hbmCount (h : k < s.hbm.length) (c u : Nat) :
    (s.hbmCount k c u).stack k = { s.stack k with ce := satInc (s.stack k).ce c, ue := satInc (s.stack k).ue u } :=
  stack_updStack_same h _

theorem mem_insertNat (n : Nat) (l : List Nat) : n ∈ insertNat l n := by
  induction l with
  | nil => simp [insertNat]
  | cons k l ih =>
    unfold insertNat
    split_ifs with hlt heq
    · exact List.mem_cons_self
    · exact heq ▸ List.mem_cons_self
    · exact List.mem_cons_of_mem _ ih

theorem State.putPoisonMark_marks (s : State) (sec : Nat) : (s.putPoisonMark sec).poisonMarks.contains sec = true :=
  List.contains_iff_mem.mpr (mem_insertNat sec s.poisonMarks)

/-- Zeros written to a canonical memory read 0. -/
theorem spGet_writeBytes_zeros {n o : Nat} (ho : o < n) : ∀ {m : Memory} (a : Nat), m.wf = true →
    spGet (writeBytes m a (List.replicate n 0)) (a + o) = 0 := by
  induction n generalizing o with
  | zero => exact absurd ho (Nat.not_lt_zero o)
  | succ n ih =>
    intro m a hwf
    rw [List.replicate_succ, writeBytes]
    cases o with
    | zero => exact (spGet_writeBytes_other _ _ _ (.inl (Nat.lt_succ_self a))).trans (spGet_spSet_same a 0 hwf)
    | succ o =>
      rw [← Nat.add_assoc, Nat.add_right_comm]
      exact ih (Nat.lt_of_succ_lt_succ ho) (a + 1) (spSet_wf a 0 hwf)

/-- In a canonical backing memory a sector under a poison marker reads 0. -/
theorem State.putPoisonMark_back (hwf : s.back.wf = true) {o : Nat} (ho : o < 32) : spGet (s.putPoisonMark sec).back (sec * 32 + o) = 0#8 := by
  simp only [State.putPoisonMark]
  exact spGet_writeBytes_zeros ho (sec * 32) hwf

/-! ## Training and the wipe (11 R271 to R273) -/

section
variable {pcFail : Word64} {dq ca : BitVec 8}
variable (hk : k < 16) (ho : s.outOfCold = true) (hw : s.rs.warm = false) (hh : s.regionHold k = false) (ht : (s.stack k).trained = false)
include hk ho hw hh ht

theorem exec_hbmReady_trained : exec (.hbmReady k false 0 dq ca) s =
    .next ((s.updStack k (fun x => { x with trained := true, sticky := true, pcFail := 0, dq := dq, ca := ca })).wipeHbm k) :=
  congrArg Host.Outcome.next (if_neg (by simp [Nat.not_le.mpr hk, ho, hw, hh, ht]))

theorem exec_hbmReady_reused (hs : (s.stack k).sticky = true) : exec (.hbmReady k true pcFail dq ca) s =
    .next ((s.updStack k (fun x => { x with trained := true })).wipeHbm k) :=
  congrArg Host.Outcome.next (if_neg (by simp [Nat.not_le.mpr hk, ho, hw, hh, ht, hs]))

end

theorem State.wipeHbm_back (s : State) (k a : Nat) : spGet (s.wipeHbm k).back a = if s.homedHbm k a = true then 0 else spGet s.back a :=
  spGet_spWipe _ _ _

theorem State.wipeHbm_marks (h : sec ∈ (s.wipeHbm k).deadMarks ++ (s.wipeHbm k).poisonMarks) : s.homedHbm k (sec * 32) = false := by
  rcases List.mem_append.mp h with h | h <;> simpa using (List.mem_filter.mp h).2

end

/-! ## A backing memory that lists an address twice -/

/-- A module whose backing memory lists address 0 twice, so that a write of 0 there uncovers the second value. -/
def twiceListed : State := { State.reset with back := [(0, 1), (0, 1)] }

/-- Refutes O44: in a backing memory that lists an address twice the zeros of a poison marker take away only the first entry, and the byte then
reads as the second, where the clause on the marker has it read 0; no hypothesis says that the memory is canonical, as every step keeps it
(`State.putPoisonMark_back` is the clause with that hypothesis; `exec_perBankRefresh`, `exec_patrolScrub` with the `State.scrubSector_` lemmas,
`State.stack_hbmCount`, `State.putPoisonMark_marks`, `exec_hbmReady_trained`, `exec_hbmReady_reused`, `State.wipeHbm_back` and
`State.wipeHbm_marks` are the other clauses, which hold). -/
theorem not_stackRules : ¬ Obligations.StackRules := by
  rintro ⟨-, hreads, -⟩
  obtain ⟨-, -, -, -, hzero⟩ := hreads twiceListed 0
  exact absurd (hzero 0 (by decide)) (by decide +kernel)

end Sys2Proof.Machine
end

section
/-! PROOF. The thermal steps of a stack, its readings, and the commands that wait for a held stack. -/
namespace Sys2Proof.Machine

/-! ## The step that a reading takes (11 R269) -/

section
variable {step t : Nat}

/-- The step that a reading enters from any lower one. -/
def hbmEntered (t : Nat) : Nat := if 105 < t then 3 else if 95 < t then 2 else if 85 < t then 1 else 0

theorem hbmStep_up (h : step < hbmEntered t) : hbmStep step t = hbmEntered t := if_pos h

theorem hbmStep_three (t : Nat) : hbmStep 3 t = if t ≤ 100 then 2 else 3 := by
  have h : ¬ 3 < hbmEntered t := by unfold hbmEntered; split_ifs <;> omega
  exact (if_neg h).trans (if_pos rfl)

theorem hbmStep_down (h : hbmEntered t ≤ step) (h3 : step ≠ 3) :
    hbmStep step t = if t ≤ 80 then 0 else if t ≤ 90 then min step 1 else step :=
  (if_neg (Nat.not_lt.mpr h)).trans (if_neg h3)

theorem hbmStep_hottest (h : 105 < t) : hbmStep step t = max step 3 := by
  have h3 : hbmEntered t = 3 := if_pos h
  rcases Nat.lt_trichotomy step 3 with hlt | rfl | hgt
  · rw [hbmStep_up (h3 ▸ hlt), h3, max_eq_right hlt.le]
  · rw [hbmStep_three, if_neg (by omega), max_self]
  · rw [hbmStep_down (h3 ▸ hgt.le) hgt.ne', if_neg (by omega), if_neg (by omega), max_eq_left hgt.le]

theorem two_le_hbmStep_three (t : Nat) : 2 ≤ hbmStep 3 t ∧ hbmStep 3 t ≤ 3 := by
  rw [hbmStep_three]
  split_ifs <;> decide

end

/-! ## Records leave the power state -/

theorem State.msix_pw (s : State) (fn v : Nat) : (s.msix fn v).pw = s.pw := by
  unfold State.msix
  dsimp only
  split_ifs <;> rfl

theorem State.updQueue_admin_pw (s : State) (f : Queue → Queue) : (s.updQueue .admin f).pw = s.pw := rfl

/-- The admin ring lies in host memory: an access to it fails, is held, or reaches that. -/
theorem State.ringAt_admin (s : State) (host : Bool) (base : Word64) (off : Nat) (want : Want) :
    s.ringAt .admin host base off want = .failed ∨ s.ringAt .admin host base off want = .held ∨
      ∃ a, s.ringAt .admin host base off want = .host a := by
  unfold State.ringAt
  dsimp only
  split_ifs <;> simp

theorem State.putRecord_admin_pw (s : State) (x : Queue) (r : Record) : (s.putRecord .admin x r).1.pw = s.pw := by
  rcases s.ringAt_admin x.cqHost x.cqAddr (x.cqWrite * 32) .write with h | h | ⟨a, h⟩ <;> simp only [State.putRecord, h]
  · rfl
  · rw [apply_ite State.pw, State.msix_pw, ite_self]
    exact State.updQueue_admin_pw _ _

theorem State.drainEvents_go_pw (s : State) (rs : List Record) : (State.drainEvents.go s rs).pw = s.pw := by
  induction rs generalizing s with
  | nil => rfl
  | cons r rs ih =>
    unfold State.drainEvents.go
    have hput := s.putRecord_admin_pw s.mg.queue r
    split_ifs
    · rfl
    · split <;> rename_i heq <;> rw [heq] at hput
      · exact hput
      · exact (ih _).trans hput

theorem State.drainEvents_pw (s : State) : s.drainEvents.pw = s.pw := by
  have hgo := s.drainEvents_go_pw s.events.pend
  unfold State.drainEvents
  dsimp only
  generalize State.drainEvents.go s s.events.pend = t at hgo ⊢
  have hput := fun u x r => State.putRecord_admin_pw u x r
  have hfull : (t.updQueue .admin (fun x => { x with cqFull := true })).pw = s.pw := (State.updQueue_admin_pw _ _).trans hgo
  split_ifs
  · split <;> rename_i heq <;> exact (congrArg (fun p => p.1.pw) heq).symm.trans ((hput _ _ _).trans hgo)
  · exact hgo
  · split <;> rename_i heq <;> exact (congrArg (fun p => p.1.pw) heq).symm.trans ((hput _ _ _).trans hfull)
  · exact hfull

theorem State.event_pw (s : State) (code detail : Nat) : (s.event code detail).pw = s.pw := State.drainEvents_pw _

/-! ## A reading (11 R269, R270, 15 R365) -/

section
variable {s : State} {k old new t : Nat}

theorem State.noteHot_pw (s : State) (k : Nat) : (s.noteHot k).pw = s.pw := rfl

theorem State.stopRambler_pw (s : State) (k : Nat) : (s.stopRambler k).pw = s.pw := by
  unfold State.stopRambler
  split <;> rfl

theorem State.noteHolds_pw (s : State) : s.noteHolds.pw = s.pw := by
  refine foldl_keeps (p := fun t : State => t.pw = s.pw) (fun t c ht => ?_) _ _ rfl
  split
  · exact ht
  · split
    · exact ht
    · split <;> exact ht

/-- What follows a reading that takes a stack from one step to another, or leaves it there. -/
def State.moveStep (s : State) (k old new t : Nat) : State :=
  let s := if new = old then s else s.event 0x05 (k + new * 2 ^ 8 + (if old < new then 2 ^ 12 else 0) + t * 2 ^ 16)
  let s := if 2 ≤ new then s.noteHot k else s
  let s := if 2 ≤ new && old < 2 then s.stopRambler k else s
  let s := if new = 3 && old != 3 || old = 3 && new != 3 then s.noteHolds else s
  if old = 3 && new != 3 then s.leaveHold k else s

theorem State.moveStep_steady (hcool : old < 2) : s.moveStep k old old t = s := by
  have h3 : old ≠ 3 := by omega
  simp [State.moveStep, Nat.not_le.mpr hcool, h3]

theorem State.moveStep_hot (hhot : 2 ≤ old) : s.moveStep k old old t = s.noteHot k := by
  by_cases h3 : old = 3 <;> simp [State.moveStep, hhot, Nat.not_lt.mpr hhot, h3]

theorem State.moveStep_leaves (hold : old = 3) (hnew : new = 2) : s.moveStep k old new t =
    (((s.event 0x05 (k + new * 2 ^ 8 + t * 2 ^ 16)).noteHot k).noteHolds).leaveHold k := by
  simp [State.moveStep, hold, hnew]

theorem State.moveStep_rises (hup : old < new) (hhot : 2 ≤ new) (h3 : old ≠ 3) : s.moveStep k old new t = (
    let u := (s.event 0x05 (k + new * 2 ^ 8 + 2 ^ 12 + t * 2 ^ 16)).noteHot k
    let u := if old < 2 then u.stopRambler k else u
    if new = 3 then u.noteHolds else u) := by
  simp [State.moveStep, hup, hup.ne', hhot, h3]

theorem State.moveStep_cool (hne : new ≠ old) (hcool : new < 2) (h3 : old ≠ 3) :
    s.moveStep k old new t = s.event 0x05 (k + new * 2 ^ 8 + (if old < new then 2 ^ 12 else 0) + t * 2 ^ 16) := by
  have hnew : new ≠ 3 := by omega
  simp [State.moveStep, hne, Nat.not_le.mpr hcool, h3, hnew]

/-- Only a stack that leaves step 3 serves what waited; everything else leaves the power state. -/
theorem State.moveStep_pw (h : old = 3 → new = 3) : (s.moveStep k old new t).pw = s.pw := by
  have hstays : ¬ (old = 3 && new != 3) = true := by simpa using h
  simp only [State.moveStep, hstays, Bool.or_false, if_false, Bool.false_eq_true, apply_ite State.pw, State.noteHolds_pw, State.stopRambler_pw,
    State.noteHot_pw, State.event_pw, ite_self]

/-- A stack that keeps a reading and the step that it takes; as it enters step 3 its rows are closed. -/
def State.keepReading (s : State) (k old new : Nat) (t : BitVec 8) : State :=
  s.updStack k (fun x => { x with
    tempC := t, step := BitVec.ofNat 3 new, heldSince := if new = 3 && old != 3 then s.time else x.heldSince
    rows := if new = 3 && old != 3 then [] else x.rows })

/-- What a reading leaves before it trips. -/
def State.afterReading (s : State) (k : Nat) (t : BitVec 8) : State :=
  let old := (s.stack k).step.toNat
  let new := hbmStep old t.toNat
  (s.keepReading k old new t).moveStep k old new t.toNat

section
variable {t : BitVec 8} (hk : k < 16) (ho : s.outOfCold = true)
include hk ho

theorem exec_hbmTempRead : exec (.hbmTempRead k t) s =
    .next (if 110 < t.toNat then (s.afterReading k t).thermTrip else s.afterReading k t) :=
  congrArg Host.Outcome.next (if_neg (by simp [Nat.not_le.mpr hk, ho]))

theorem exec_hbmTempRead_below (h : t.toNat ≤ 110) : exec (.hbmTempRead k t) s = .next (s.afterReading k t) :=
  (exec_hbmTempRead hk ho).trans (congrArg _ (if_neg (Nat.not_lt.mpr h)))

end

theorem State.not_tripped_of_outOfCold (h : s.outOfCold = true) : s.pw.tripped = false := by
  simp only [State.outOfCold, Bool.and_eq_true, Bool.not_eq_true'] at h
  exact h.2

theorem State.thermTrip_stops (h : s.pw.tripped = false) : s.thermTrip.pw.tripped = true ∧ s.thermTrip.clk.stopped = true ∧
    s.thermTrip.pins.thermtripN = false ∧ s.thermTrip.pins.modPwrgd = false := by
  simp [State.thermTrip, h]

/-- A reading that trips leaves the power state until it does, since no stack leaves step 3 on it. -/
theorem State.afterReading_pw {t : BitVec 8} (h : 110 < t.toNat) : (s.afterReading k t).pw = s.pw :=
  State.moveStep_pw fun hold => by rw [hbmStep_hottest (by omega), hold, max_self]

end

/-! ## Commands that wait for a held stack (11 R270) -/

section
variable {s : State} {cid : Nat} {c : Cmd}

theorem Cmd.endsOnHold_of_opcode (h : c.opcode ∈ [0x18, 0x19, 0x1A, 0x2A, 0x2B, 0x28, 0x29, 0x20, 0x21, 0x22, 0x23, 0x24]) :
    c.endsOnHold = true := by
  have hall : ∀ op ∈ [0x18, 0x19, 0x1A, 0x2A, 0x2B, 0x28, 0x29, 0x20, 0x21, 0x22, 0x23, 0x24],
      (isDmaOp op || op = 0x28 || op = 0x29 || (0x20 ≤ op && op ≤ 0x24)) = true := by decide
  exact hall _ h

theorem exec_thermalHoldExpiry (hc : s.cmd? cid = some c) (hrun : s.running = true) : exec (.thermalHoldExpiry cid) s =
    .next (if c.endsOnHold && c.heldFrom.elim false (fun t => decide (t + tenSec ≤ s.time)) then s.stopCmd cid .memThermal 0 else s) := by
  show execThermalHoldExpiry cid s = _
  simp only [execThermalHoldExpiry, hc, hrun, Bool.true_and]

theorem exec_thermalHoldExpiry_due {t : Nat} (hc : s.cmd? cid = some c) (hrun : s.running = true) (hop : c.endsOnHold = true)
    (ht : c.heldFrom = some t) (hdue : t + tenSec ≤ s.time) : exec (.thermalHoldExpiry cid) s = .next (s.stopCmd cid .memThermal 0) :=
  by
  have hover : c.heldFrom.elim false (fun t => decide (t + tenSec ≤ s.time)) = true := by
    rw [ht, Option.elim_some, decide_eq_true hdue]
  rw [exec_thermalHoldExpiry hc hrun, hop, hover, Bool.and_true, if_pos rfl]

theorem exec_thermalHoldExpiry_waits (hc : s.cmd? cid = some c) (hrun : s.running = true)
    (h : c.heldFrom = none ∨ ∃ t, c.heldFrom = some t ∧ s.time < t + tenSec) : exec (.thermalHoldExpiry cid) s = .next s := by
  have hearly : c.heldFrom.elim false (fun t => decide (t + tenSec ≤ s.time)) = false := by
    rcases h with h | ⟨t, h, ht⟩
    · rw [h, Option.elim_none]
    · rw [h, Option.elim_some, decide_eq_false (Nat.not_le.mpr ht)]
  rw [exec_thermalHoldExpiry hc hrun, hearly, Bool.and_false, if_neg Bool.false_ne_true]

theorem State.cmd?_markHeld (hc : s.cmd? cid = some c) (held : Bool) :
    (s.markHeld cid held).cmd? cid = some { c with heldFrom := if held then some (c.heldFrom.getD s.time) else none } := by
  rw [State.markHeld, State.cmd?_updCmd _ _ (by exact fun _ => rfl), hc, Option.map_some]

end

/-- Settles O45: `hbmStep` by its three branches, a reading by the steps that it moves between, and the hold by its time. -/
theorem thermalRules : Obligations.ThermalRules := by
  unfold Obligations.ThermalRules
  refine ⟨?steps, fun s k t hk ho => ?reading, fun s cid t c hc hrun => ⟨?due, exec_thermalHoldExpiry_waits hc hrun⟩, ?marks⟩
  case steps =>
    intro step t hstep
    rcases Nat.lt_or_ge step (hbmEntered t) with hup | hdown
    · rw [hbmStep_up hup]
      unfold hbmEntered at hup ⊢
      split_ifs at hup ⊢ <;> omega
    · by_cases h3 : step = 3
      · subst h3
        rw [hbmStep_three]
        split_ifs <;> omega
      · rw [hbmStep_down hdown h3]
        unfold hbmEntered at hdown
        split_ifs at hdown ⊢ <;> omega
  case reading =>
    intro old new kept
    have hfrom : old = 3 → 2 ≤ new ∧ new ≤ 3 := fun h => by
      show 2 ≤ hbmStep old t.toNat ∧ hbmStep old t.toNat ≤ 3
      rw [h]
      exact two_le_hbmStep_three _
    have hbelow : t.toNat ≤ 110 → exec (.hbmTempRead k t) s = .next ((s.updStack k kept).moveStep k old new t.toNat) :=
      exec_hbmTempRead_below hk ho
    refine ⟨fun hsame hcool ht => ?_, fun hdown hold ht => ?_, fun hup hhot ht => ?_, fun hmove hcool ht => ?_, fun hsame hhot ht => ?_,
      fun ht => ?_⟩
    · rw [hbelow ht, hsame, State.moveStep_steady (hsame ▸ hcool)]
    · rw [hbelow ht, State.moveStep_leaves hold (by have := hfrom hold; omega)]
    · rw [hbelow ht, State.moveStep_rises hup hhot fun hold => by have := hfrom hold; omega]
    · rw [hbelow ht, State.moveStep_cool (by omega) hcool fun hold => by have := hfrom hold; omega]
    · rw [hbelow ht, hsame, State.moveStep_hot (hsame ▸ hhot)]
    · rw [exec_hbmTempRead hk ho, if_pos ht]
      have hcold : (s.afterReading k t).pw.tripped = false := by
        rw [State.afterReading_pw ht]
        exact State.not_tripped_of_outOfCold ho
      exact ⟨_, rfl, State.thermTrip_stops hcold⟩
  case due => exact fun hop ht hdue => exec_thermalHoldExpiry_due hc hrun (Cmd.endsOnHold_of_opcode hop) ht hdue
  case marks => exact fun s cid c hc => ⟨State.cmd?_markHeld hc true, State.cmd?_markHeld hc false⟩

end Sys2Proof.Machine
end

section
/-! PROOF. The life of a port: what an update of a port leaves, training and its modes, heartbeats, the registers of a port, the package ID. -/
namespace Sys2Proof.Machine

/-! ## An update of a port -/

section
variable {s : State} {p : Nat} {f : Port → Port}

theorem State.port_updPort_same (s : State) (p : Nat) (f : Port → Port) :
    (s.updPort p f).port p = if p < s.fx.ports.length then f (s.port p) else Port.reset := by
  simp only [State.port, State.updPort, List.getD_eq_getElem?_getD, updAt_getElem?, if_pos]
  split_ifs with hp <;> simp [hp]

/-- An update that keeps the state of every port keeps that of this one. -/
theorem State.port_updPort_st (hf : ∀ x, (f x).st = x.st) : ((s.updPort p f).port p).st = (s.port p).st := by
  rw [State.port_updPort_same]
  split_ifs with hp
  · exact hf _
  · rw [State.port, List.getD_eq_default _ _ (Nat.not_lt.mp hp)]

/-- An update that the port itself does not notice changes nothing. -/
theorem State.updPort_eq_self (hf : f (s.port p) = s.port p) : s.updPort p f = s := by
  have hports : updAt s.fx.ports p f = s.fx.ports := by
    refine List.ext_getElem? fun j => ?_
    rw [updAt_getElem?]
    split_ifs with hj
    · subst hj
      cases hx : s.fx.ports[j]? with
      | none => rfl
      | some x => simpa [State.port, List.getD_eq_getElem?_getD, hx] using hf
    · rfl
  rw [State.updPort, hports]

end

theorem State.clocked_of_outOfCold {s : State} (h : s.outOfCold = true) : s.clocked = true := by
  simp only [State.outOfCold, Bool.and_eq_true] at h
  simp only [State.clocked, h.1.2, h.2, Bool.and_self]

theorem State.clocked_of_portUp {s : State} {p : Nat} (h : s.portUp p = true) : s.clocked = true := by
  refine State.clocked_of_outOfCold ?_
  simp only [State.portUp, Bool.and_eq_true] at h
  exact h.1.1.1.2

/-! ## Training (12 R279, R283, R284) -/

section
variable {s : State} {port : Nat} (hup : s.portUp port = true)
include hup

theorem exec_portSignalDetect {lanes : Nat} (hen : (s.port port).en = true) (hst : (s.port port).st = .down)
    (htr : (s.port port).training = false) (hl : 2 ≤ lanes) :
    exec (.portSignalDetect port lanes) s = .next (s.updPort port (fun x => { x with training := true, trainSince := s.time })) := by
  show execPortSignalDetect port lanes s = _
  simp [execPortSignalDetect, State.clockRow_clocked (State.clocked_of_portUp hup), hup, hen, hst, htr, hl]

section
variable {full half : BitVec 5} (htr : (s.port port).training = true)
include htr

theorem exec_portTrainingComplete_none (hen : (s.port port).en = true) (hm : portMode (s.port port).rateCap full half = none) :
    exec (.portTrainingComplete port full half) s = .next s := by
  show execPortTrainingComplete port full half s = _
  simp only [execPortTrainingComplete, State.clockRow_clocked (State.clocked_of_portUp hup), hup, hen, htr, hm]
  rfl

theorem exec_portTrainingComplete_some (hen : (s.port port).en = true) {w h : Bool} {k : BitVec 3}
    (hm : portMode (s.port port).rateCap full half = some (w, h, k)) :
    exec (.portTrainingComplete port full half) s = .next (((s.updPort port (fun x => { x.cleared with
      st := .up, training := false, width2 := w, half := h, spareFor := k, lastBeat := s.time })).newInc port).linkEvent port 1) := by
  show execPortTrainingComplete port full half s = _
  simp only [execPortTrainingComplete, State.clockRow_clocked (State.clocked_of_portUp hup), hup, hen, htr, hm]
  rfl

theorem exec_portTrainingRestart (hdue : (s.port port).trainSince + 100000000 ≤ s.time) :
    exec (.portTrainingRestart port) s = .next (s.updPort port (fun x => { x with training := false })) := by
  show execPortTrainingRestart port s = _
  simp [execPortTrainingRestart, State.clockRow_clocked (State.clocked_of_portUp hup), hup, htr, hdue]

end
end

/-- Four lanes that meet the limit need no spare. -/
theorem fourLanes_good : ∀ {good : BitVec 5}, good &&& 0xF#5 = 0xF#5 → fourLanes good = some 0 := by decide

theorem portMode_full {full : BitVec 5} (h : full &&& 0xF#5 = 0xF#5) (half : BitVec 5) : portMode false full half = some (false, false, 0) := by
  simp [portMode, fourLanes_good h]

theorem portMode_capped {half : BitVec 5} (h : half &&& 0xF#5 = 0xF#5) (full : BitVec 5) : portMode true full half = some (false, true, 0) := by
  simp [portMode, fourLanes_good h]

/-! ## Heartbeats (12 R285, R295, R296) -/

/-- What a port keeps of a heartbeat that it receives. -/
def State.keepBeat (s : State) (port : Nat) (b : Beat) : State :=
  s.updPort port (fun x => { x with
    peerPkg := b.pkg, peerValid := b.valid, peerReady := b.ready, peerPort := b.port, peerInc := b.inc, lastBeat := s.time, heard := true })

section
variable {s : State} {port : Nat} {b : Beat} (hup : s.portUp port = true)
include hup

section
variable (hrt : (s.port port).retraining = false)
include hrt

theorem exec_heartbeat_changed (hst : (s.port port).st ≠ .down) (hh : (s.port port).heard = true) (hi : (s.port port).peerInc ≠ b.inc) :
    exec (.heartbeat port b) s = .next ((s.keepBeat port b).linkLost port 5) := by
  show execHeartbeat port b s = _
  simp [execHeartbeat, State.clockRow_clocked (State.clocked_of_portUp hup), hup, hst, hrt, hh, hi, State.keepBeat]

theorem exec_heartbeat_duplicate (hh : (s.port port).heard = false) (hv : s.fx.valid = true) (hb : b.valid = true) (hp : b.pkg = s.fx.pkgId)
    (hu : (s.port port).st = .up) : exec (.heartbeat port b) s =
      .next ((((s.keepBeat port b).updPort port (fun x => { x with st := .duplicate })).linkEvent port 7).error 0x0E 3 (0x60 + port) 1) := by
  show execHeartbeat port b s = _
  simp [execHeartbeat, State.clockRow_clocked (State.clocked_of_portUp hup), hup, hrt, hh, hv, hb, hp, hu, State.keepBeat]

/-- A port that is `LIVE` only keeps a heartbeat of the peer that it knows. -/
theorem exec_heartbeat_kept (hi : (s.port port).peerInc = b.inc) (hp : b.pkg ≠ s.fx.pkgId) (hl : (s.port port).st = .live) :
    exec (.heartbeat port b) s = .next (s.keepBeat port b) := by
  have hlive : ((s.keepBeat port b).port port).st = .live := (State.port_updPort_st (by exact fun _ => rfl)).trans hl
  have hsame : (s.keepBeat port b).updPort port (fun x => if x.st = .duplicate then { x with st := .up } else x) = s.keepBeat port b :=
    State.updPort_eq_self (if_neg (by simp [hlive]))
  have hstays : (s.keepBeat port b).tryLive port = s.keepBeat port b := if_neg (by simp [hlive])
  show execHeartbeat port b s = _
  simp only [State.keepBeat] at hsame hstays ⊢
  simp [execHeartbeat, State.clockRow_clocked (State.clocked_of_portUp hup), hup, hrt, hi, hp, hl, hsame, hstays]

theorem exec_heartbeatSend (hst : (s.port port).st ≠ .down) (hroom : (s.port port).unacked < 4096) :
    exec (.heartbeatSend port) s = .next (
      ((s.updPort port (fun x => { x.sent 1 with sentBeat := s.time, sentInc := x.inc })).emit (.beat port ((s.port port).link 0 0 [])
        (Beat.mk s.fx.pkgId s.fx.valid (s.portReady port) (BitVec.ofNat 4 port) (s.port port).inc))).tryLive port) := by
  show execHeartbeatSend port s = _
  simp [execHeartbeatSend, State.clockRow_clocked (State.clocked_of_portUp hup), hup, hst, hrt, hroom]

end

theorem exec_heartbeatLoss (hst : (s.port port).st ≠ .down) : exec (.heartbeatLoss port) s =
    .next (if (s.port port).lastBeat + 300000 ≤ s.time then s.linkLost port 3 else s) := by
  show execHeartbeatLoss port s = _
  simp [execHeartbeatLoss, State.clockRow_clocked (State.clocked_of_portUp hup), hup, hst]

end

/-! ## The registers of a port and the package ID (12 R302) -/

section
variable {s : State} {port : Nat}

theorem State.managerWrites_manager (hrun : s.running = true) : s.managerWrites .manager = true := by
  simp [State.managerWrites, hrun]

theorem State.managerWrites_tenant (vf : Nat) : s.managerWrites (.tenant vf) = false := by
  simp [State.managerWrites]

theorem exec_portEnable_manager (hrun : s.running = true) :
    exec (.portEnable .manager port) s = .next (s.updPort port (fun x => { x with en := true })) :=
  congrArg Host.Outcome.next (if_pos (State.managerWrites_manager hrun))

theorem exec_portDisable_down (hrun : s.running = true) (hen : (s.port port).en = true) (hst : (s.port port).st = .down) :
    exec (.portDisable .manager port) s = .next (s.updPort port (fun x => { x with en := false, training := false })) := by
  have hdown := (State.port_updPort_st (p := port) (f := fun x => { x with en := false, training := false }) (by exact fun _ => rfl)).trans hst
  refine congrArg Host.Outcome.next ((if_neg ?_).trans (if_pos hdown))
  simp [State.managerWrites_manager hrun, hen]

theorem exec_portRegisters_tenant (vf : Nat) :
    exec (.portEnable (.tenant vf) port) s = .next s ∧ exec (.portDisable (.tenant vf) port) s = .next s :=
  ⟨congrArg Host.Outcome.next (if_neg (by simp [State.managerWrites_tenant])),
    congrArg Host.Outcome.next (if_pos (by simp [State.managerWrites_tenant]))⟩

theorem exec_pkgIdSet_manager (hrun : s.running = true) (id : BitVec 12) : exec (.pkgIdSet .manager id) s =
    .next (if s.fx.valid then s else { s with fx := { s.fx with pkgId := id, valid := true } }) := by
  show execPkgIdSet .manager id s = _
  cases hv : s.fx.valid <;> simp [execPkgIdSet, State.managerWrites_manager hrun, hv]

end

/-- Settles O50, one row of a port at a time, in the order of a port's life; at `LIVE` a heartbeat that is kept changes nothing else. -/
theorem portRules : Obligations.PortRules := by
  unfold Obligations.PortRules
  refine ⟨fun s port lanes hup => exec_portSignalDetect hup, fun s port full half hup hen htr => ?training, fun full half h => portMode_full h half,
    fun full half h => portMode_capped h full, fun s port b hup hst hrt => ?beats, fun s port hrun => ?registers, fun s id hrun => ?id⟩
  case training =>
    exact ⟨exec_portTrainingComplete_none hup htr hen, fun w h k => exec_portTrainingComplete_some hup htr hen,
      exec_portTrainingRestart hup htr⟩
  case beats =>
    refine ⟨exec_heartbeat_changed hup hrt hst, exec_heartbeat_duplicate hup hrt, exec_heartbeat_kept hup hrt,
      exec_heartbeatSend hup hrt hst, fun hdue => ?_, fun hearly => ?_⟩
    · rw [exec_heartbeatLoss hup hst, if_pos hdue]
    · rw [exec_heartbeatLoss hup hst, if_neg (Nat.not_le.mpr hearly)]
  case registers =>
    exact ⟨exec_portEnable_manager hrun, exec_portDisable_down hrun, exec_portRegisters_tenant⟩
  case id =>
    refine ⟨fun hv => ?_, fun hv => ?_⟩ <;> rw [exec_pkgIdSet_manager hrun, hv] <;> rfl

end Sys2Proof.Machine
end

section
/-! PROOF. The link layer: flits in and out of sequence, fast retrains, acknowledgements, and the `CRC` of the flits that a port sends. -/
namespace Sys2Proof.Machine

/-! ## Receiving a flit (12 R280 to R282) -/

/-- A port with an intact flit taken in sequence. -/
def Port.took (x : Port) (f : Flit) : Port := (({ x with rxNext := x.rxNext + 1 }.acked f.ack).credited f).buffered f

/-- What a port does after a flit that it has taken: it resends where the flit asks for it, and sends what can leave now. -/
def State.afterFlit (s : State) (port : Nat) (f : Flit) : State := (if f.nak then s.replayPort port else s).drainOut port

section
variable {s : State} {port : Nat} {f : Flit} (hup : s.portUp port = true) (hst : (s.port port).st ≠ .down)
  (hrt : (s.port port).retraining = false)
include hup hst hrt

theorem exec_flitReceive_discarded (h : flitIntact f = false ∨ f.fseq ≠ (s.port port).rxNext) :
    exec (.flitReceive port f) s = .next (s.discardFlit port) := by
  show execFlitReceive port f s = _
  rcases h with h | h <;>
    simp [execFlitReceive, State.clockRow_clocked (State.clocked_of_portUp hup), hup, hst, hrt, h]

theorem exec_flitReceive_taken (hi : flitIntact f = true) (hseq : f.fseq = (s.port port).rxNext) :
    exec (.flitReceive port f) s = .next ((if flitLegal f then s.updPort port (fun x => x.took f)
      else ((s.updPort port (fun x => x.took f)).discardMsg port).freeRx port f.pool.toNat (if f.ftype = 1 || f.ftype = 2 then 1 else 0)).afterFlit
        port f) := by
  show execFlitReceive port f s = _
  simp [execFlitReceive, State.clockRow_clocked (State.clocked_of_portUp hup), hup, hst, hrt, hi, hseq, State.afterFlit, Port.took]

/-! ## Fast retrains (12 R281, R283) -/

theorem exec_fastRetrain
    (h : 8 ≤ (s.port port).resends.length ∨ 1000 < ((s.port port).discards.filter (fun t => decide (s.time < t + oneSec))).length) :
    exec (.fastRetrain port) s = .next (s.updPort port (fun x => { x with retraining := true, discards := [] })) := by
  show execFastRetrain port s = _
  simp [execFastRetrain, State.clockRow_clocked (State.clocked_of_portUp hup), hup, hst, hrt, h]

end

section
variable {s : State} {port : Nat} (hup : s.portUp port = true) (hrt : (s.port port).retraining = true) (spare : BitVec 3)
include hup hrt

theorem exec_fastRetrainComplete_failed : exec (.fastRetrainComplete port false spare) s = .next (s.linkLost port 4) := by
  show execFastRetrainComplete port false spare s = _
  simp [execFastRetrainComplete, State.clockRow_clocked (State.clocked_of_portUp hup), hup, hrt]

theorem exec_fastRetrainComplete_ok : exec (.fastRetrainComplete port true spare) s =
    .next (((s.updPort port (fun x => { x with
      retraining := false, resends := []
      spareFor := if x.spareFor = 0 && !x.width2 && spare.toNat ≤ 4 then spare else x.spareFor })).replayPort port).drainOut port) := by
  show execFastRetrainComplete port true spare s = _
  simp [execFastRetrainComplete, State.clockRow_clocked (State.clocked_of_portUp hup), hup, hrt]

end

/-! ## Acknowledgements (12 R281) -/

theorem Port.acked_txNext (x : Port) (ack : BitVec 16) : (x.acked ack).txNext = x.txNext := by
  unfold Port.acked
  dsimp only
  split_ifs <;> rfl

/-- Flits that are acknowledged are outstanding no more, so that what is outstanding never grows. -/
theorem Port.unacked_acked_le (x : Port) (ack : BitVec 16) : (x.acked ack).unacked ≤ x.unacked := by
  unfold Port.acked
  dsimp only
  split_ifs with h
  · exact Nat.le_refl _
  · have hout : ack + 1 - x.lastAck ≤ x.txNext - x.lastAck := by
      simp only [Bool.or_eq_true, decide_eq_true_eq, not_or, Nat.not_lt] at h
      exact h.2
    have hleft : x.txNext - (ack + 1) = x.txNext - x.lastAck - (ack + 1 - x.lastAck) := by abel
    rw [Port.unacked, Port.unacked, hleft, BitVec.toNat_sub_of_le hout]
    exact Nat.sub_le _ _

/-! ## The `CRC` of what a port sends (12 R280, log 72) -/

/-- The `CRC` does not cover itself, so a flit that carries the computed value is intact. -/
theorem flitIntact_crc64 (f : Flit) : flitIntact { f with crc := crc64 (flitBytes f) } = true := decide_eq_true rfl

theorem Port.link_intact (x : Port) (ftype pool : Nat) (payload : List Byte) : flitIntact (x.link ftype pool payload) = true :=
  flitIntact_crc64 _

theorem Port.nakFlit_intact (x : Port) : flitIntact x.nakFlit = true := flitIntact_crc64 _

/-- Settles O49: a flit by whether it is the next one intact, a retrain by its outcome; what is outstanding shrinks by what is acknowledged. -/
theorem linkLayer : Obligations.LinkLayer := by
  unfold Obligations.LinkLayer
  refine ⟨fun s port f hup hst hrt => ⟨fun hbad => ?discarded, fun hi hseq => ?taken, exec_fastRetrain hup hst hrt⟩,
    fun s port spare hup hrt => ⟨exec_fastRetrainComplete_failed hup hrt spare, exec_fastRetrainComplete_ok hup hrt spare⟩,
    fun x ack => ⟨x.unacked_acked_le ack, x.acked_txNext ack⟩,
    fun x ftype pool payload => ⟨x.link_intact ftype pool payload, x.nakFlit_intact, rfl, rfl⟩⟩
  case discarded => exact ⟨_, rfl, exec_flitReceive_discarded hup hst hrt hbad⟩
  case taken =>
    have htaken := exec_flitReceive_taken hup hst hrt hi hseq
    refine ⟨_, rfl, fun hlegal => htaken.trans ?_, fun hillegal => htaken.trans ?_⟩
    · rw [if_pos hlegal]
      rfl
    · rw [if_neg (by simp [hillegal])]
      rfl

end Sys2Proof.Machine
end

section
/-! PROOF. The fabric tables that the manager writes: the routing entries of a range, and a group by its descriptor. -/
namespace Sys2Proof.Machine
open Sys2Proof.Claims

/-! ## A field of what is read at a home (09 R228) -/

section
variable {s : State}

theorem State.homeBytes_drop (s : State) : ∀ (k a n : Nat), (s.homeBytes a n).drop k = s.homeBytes (a + k) (n - k)
  | 0, a, n => by simp
  | k + 1, a, 0 => by simp [State.homeBytes]
  | k + 1, a, n + 1 => by
    rw [State.homeBytes, List.drop_succ_cons, State.homeBytes_drop s k, Nat.add_sub_add_right, Nat.add_assoc, Nat.add_comm 1 k]

theorem State.homeBytes_take (s : State) : ∀ (k a n : Nat), (s.homeBytes a n).take k = s.homeBytes a (min k n)
  | 0, a, n => by simp [State.homeBytes]
  | k + 1, a, 0 => by simp [State.homeBytes]
  | k + 1, a, n + 1 => by
    rw [Nat.add_min_add_right, State.homeBytes, State.homeBytes, List.take_succ_cons, State.homeBytes_take s k]

/-- A field of a record that is read whole is what its bytes hold. -/
theorem fld_homeBytes {a len o n : Nat} (h : o + n ≤ len) : fld (s.homeBytes a len) o n = leNat (s.homeBytes (a + o) n) := by
  rw [fld, State.homeBytes_drop, State.homeBytes_take, min_eq_left (by omega)]

/-! ## `FABRIC_ROUTE_SET` (12 R287) -/

/-- The routing entries of a list are written. -/
def State.putRoutes (s : State) (es : List (Nat × Nat)) : State :=
  { s with fx := { s.fx with routes := es.foldl (fun (m : List (Nat × Word64)) e => spSet m e.1 (BitVec.ofNat 64 e.2)) s.fx.routes } }

variable {cid : Nat} {c : Cmd} {t : State} {a : Nat}

theorem exec_fabricRouteSet {p n : Nat} {es : List (Nat × Nat)} (hb : mgrBegun s cid 0xC0 c) (ha : c.field 16 8 = a) (hp : c.field 24 2 = p)
    (hn : c.field 26 2 = n)
    (hpass : firstFail [(16, mgrAddr a), (24, n = 0 || p < 4096), (26, n = 0 || p + n ≤ 4096), (28, c.zero 28 64)] = none)
    (hu : mgrUsable s true a (8 * n)) (ht : s.useRange c.cid a (8 * n) = t)
    (hes : (List.range n).map (fun k => (p + k, leNat (t.homeBytes (a + 8 * k) 8))) = es) (hok : es.all (fun e => t.routeOk e.1 e.2) = true) :
    exec (.fabricRouteSet cid) s = .next (((t.putRoutes es).failUnreachable.drainEvents).doneCmd cid .success 0) := by
  subst ha hp hn
  refine congrArg Host.Outcome.next ((State.mgrRow_of_usable hb hpass hu _).trans ?_)
  simp only [if_true, ht, hes, hok, Bool.not_true, Bool.false_eq_true, if_false, State.putRoutes]

/-! ## `FABRIC_GROUP_SET` (07 R163) -/

/-- A valid descriptor lies within the bytes that the command names. -/
theorem State.descOk_fits {bs : List Byte} {len : Nat} (h : t.descOk bs len = true) : 64 + 4 * bits (fld bs 4 4) 12 0 ≤ len := by
  simp only [State.descOk, Bool.and_eq_true, decide_eq_true_eq, and_assoc] at h
  exact h.1

theorem exec_fabricGroupSet {len n : Nat} {bs : List Byte} (hb : mgrBegun s cid 0xC1 c) (ha : c.field 16 8 = a) (hl : c.field 24 4 = len)
    (hpass : firstFail [(16, mgrAddr a), (24, 64 ≤ len), (28, c.zero 28 64)] = none) (hu : mgrUsable s true a len)
    (ht : s.useRange c.cid a len = t) (hn : bits (leNat (t.homeBytes (a + 4) 4)) 12 0 = n) (hbs : t.homeBytes a (min len (64 + 4 * n)) = bs)
    (hfits : 64 + 4 * n ≤ len) (hok : t.descOk bs len = true)
    (hidle : (t.group? (descGroup bs).id).elim false (fun x => x.coll.isSome) = false) :
    exec (.fabricGroupSet cid) s = .next (({ t with fx := { t.fx with
      groups := t.fx.groups.filter (fun (x : Group) => x.id != (descGroup bs).id) ++ [descGroup bs] } } : State).doneCmd cid .success 0) := by
  subst ha hl
  refine congrArg Host.Outcome.next ((State.mgrRow_of_usable hb hpass hu _).trans ?_)
  simp only [if_true, ht, hn, hbs, hok, hidle, Nat.not_lt.mpr hfits, decide_false, Bool.and_false, Bool.not_true, Bool.false_eq_true, if_false]

end

/-- Settles O41: past its fields and its range each command writes its table; a descriptor that is valid is read whole, so its own count of members
is the one that the command has read it by. -/
theorem fabricTableRules : Obligations.FabricTableRules := by
  unfold Obligations.FabricTableRules
  refine ⟨?routes, ?group⟩
  case routes =>
    intro s cid c hb haddr hp hpn hzero hu t es hok
    exact exec_fabricRouteSet hb rfl rfl rfl (by simp [mgrAddr_of_lt haddr, hp, hpn, hzero]) hu rfl rfl hok
  case group =>
    intro s cid c hb haddr hzero hlen hu t bs hok hidle
    have hcount : fld bs 4 4 = leNat (t.homeBytes (c.field 16 8 + 4) 4) := fld_homeBytes (by omega)
    have hfits := hcount ▸ State.descOk_fits hok
    exact exec_fabricGroupSet hb rfl rfl (by simp [mgrAddr_of_lt haddr, hlen, hzero]) hu rfl rfl rfl hfits hok hidle

end Sys2Proof.Machine
end

section
/-! PROOF. Requests of other modules: what a port does with one by its state, and what the home does with one that may be performed, that has to
wait, or that is refused. -/
namespace Sys2Proof.Machine
open Sys2Proof.Claims

/-! ## The rows, and a port that is not `LIVE` (12 R291, R300) -/

/-- The payload that a request's row brings. -/
def rowData (p : BitVec 8 × (Nat → Msg → List Byte → Instr) × Bool) (data : List Byte) : List Byte := if p.2.2 then data else []

section
variable {p : BitVec 8 × (Nat → Msg → List Byte → Instr) × Bool} {s : State} {port : Nat} {m : Msg} {data : List Byte}

/-- Every request runs one row: it is received, and then checked and performed. -/
theorem exec_fabricRequest (hp : p ∈ fabricRequestRows) : exec (p.2.1 port m data) s =
    .next (s.receive p.1.toNat port m none (rowData p data) (fun s => s.serveChecked port m (rowData p data))) := by
  simp only [fabricRequestRows, List.mem_cons, List.not_mem_nil, or_false] at hp
  rcases hp with rfl | rfl | rfl | rfl | rfl <;> rfl

theorem isRequest_of_row (hp : p ∈ fabricRequestRows) (ht : m.typ = p.1) : isRequest m = true := by
  have hall : ∀ p ∈ fabricRequestRows, p.1.toNat < 0x10 := by decide
  exact decide_eq_true (ht ▸ hall p hp)

/-- Reads and declarations bring no payload. -/
theorem rowData_of_typ (hp : p ∈ fabricRequestRows) (ht : m.typ = p.1) :
    rowData p data = if m.typ = 1#8 ∨ m.typ = 5#8 then [] else data := by
  have hall : ∀ p ∈ fabricRequestRows, p.2.2 = !decide (p.1 = 1#8 ∨ p.1 = 5#8) := by decide
  by_cases h : p.1 = 1#8 ∨ p.1 = 5#8 <;> simp [rowData, hall p hp, ht, h]

theorem State.receive_notLive {typ : Nat} (ho : s.outOfCold = true) (hport : port < 16)
    (hst : (s.port port).st = .up ∨ (s.port port).st = .duplicate) (ht : m.typ.toNat = typ) (hreq : isRequest m = true) (c : Option CollHdr)
    (go : State → State) : s.receive typ port m c data go = taken (s.nackMsg port m 4) port m data := by
  rcases hst with hst | hst <;> simp [State.receive, ho, Nat.not_le.mpr hport, hst, ht, hreq]

theorem State.receive_down {typ : Nat} (hst : (s.port port).st = .down) (c : Option CollHdr) (go : State → State) :
    s.receive typ port m c data go = s := if_pos (by simp [hst])

section
variable (hp : p ∈ fabricRequestRows) (ht : m.typ = p.1)
include hp ht

theorem exec_fabricRequest_heard (hh : heard s port m) : exec (p.2.1 port m data) s =
    .next ((taken s port m (rowData p data)).serveChecked port m (rowData p data)) := by
  rw [exec_fabricRequest hp, State.receive_heard hh (congrArg BitVec.toNat ht)]

theorem exec_fabricRequest_notLive (ho : s.outOfCold = true) (hport : port < 16)
    (hst : (s.port port).st = .up ∨ (s.port port).st = .duplicate) :
    exec (p.2.1 port m data) s = .next (taken (s.nackMsg port m 4) port m (rowData p data)) := by
  rw [exec_fabricRequest hp, State.receive_notLive ho hport hst (congrArg BitVec.toNat ht) (isRequest_of_row hp ht)]

end

theorem exec_fabricRequest_down (hp : p ∈ fabricRequestRows) (hst : (s.port port).st = .down) : exec (p.2.1 port m data) s = .next s := by
  rw [exec_fabricRequest hp, State.receive_down hst]

end

/-! ## The check at the home (12 R292 to R294) -/

section
variable {s : State} {port inst : Nat} {m : Msg} {data : List Byte}

theorem State.serveChecked_performed (hg : s.fabricGrant m = .inl inst) (hw : s.msgWaits inst m = false) (hb : s.behindInbound m = false) :
    s.serveChecked port m data = s.serve port inst m data true := by
  simp [State.serveChecked, hg, hw, hb]

theorem State.serveChecked_kept (hg : s.fabricGrant m = .inl inst) (hw : s.msgWaits inst m = true ∨ s.behindInbound m = true) :
    s.serveChecked port m data = { s.fetchMsg inst m with fx := { (s.fetchMsg inst m).fx with inbound := (s.fetchMsg inst m).fx.inbound ++
      [{ port := port, msg := m, data := data, lastPending := s.time, missed := !(s.msgMissing m).isEmpty }] } } := by
  have hwait : (s.msgWaits inst m || s.behindInbound m) = true := by simpa using hw
  simp only [State.serveChecked, hg, hwait, if_true]

theorem State.serveChecked_refused {reason : Nat} (hg : s.fabricGrant m = .inr reason) :
    s.serveChecked port m data = s.nackMsg port m reason := by
  simp only [State.serveChecked, hg]

/-! ## What is performed, by type (12 R291) -/

theorem State.serve_read (ht : m.typ = 1#8) : s.serve port inst m data true = (s.countLlc (some inst) m.addr.toNat).homeRd port m true := by
  rw [State.serve, ht]
  rfl

theorem State.serve_write (ht : m.typ = 2#8) : s.serve port inst m data true = (s.countLlc (some inst) m.addr.toNat).homeWr port inst m data := by
  rw [State.serve, ht]
  rfl

theorem State.serve_atomic (ht : m.typ = 3#8) : s.serve port inst m data true = (s.countLlc (some inst) m.addr.toNat).homeAtom port inst m data := by
  rw [State.serve, ht]
  rfl

theorem State.serve_add (ht : m.typ = 4#8) : s.serve port inst m data true = (s.countLlc (some inst) m.addr.toNat).homeAddMsg port inst m data := by
  rw [State.serve, ht]
  rfl

theorem State.serve_declare (ht : m.typ = 5#8) : s.serve port inst m data true = (s.countLlc (some inst) m.addr.toNat).homeDead port m := by
  rw [State.serve, ht]
  rfl

end

/-- Settles O46: every request runs one row, whose outcomes are those of its port and of the check at the home; what is performed goes by its
type. -/
theorem fabricRequests : Obligations.FabricRequests := by
  unfold Obligations.FabricRequests
  refine ⟨?performed, fun p hp s t port m data ht hst => ⟨fun hh => ⟨?kept, ?refused⟩, ?notLive, exec_fabricRequest_down hp⟩⟩
  case performed =>
    intro s t port inst m data hh hst hg hw hb a n v
    have hrun : ∀ p ∈ fabricRequestRows, m.typ = p.1 →
        exec (p.2.1 port m data) s = .next (t.serve port inst m (rowData p data) true) := fun p hp ht => by
      rw [exec_fabricRequest_heard hp ht hh, rowData_of_typ hp ht, ← hst, State.serveChecked_performed hg hw hb]
    simp only [fabricRequestRows, List.forall_mem_cons] at hrun
    obtain ⟨hread, hwrite, hatomic, hadd, hdeclare, -⟩ := hrun
    exact ⟨fun ht => (hread ht).trans (congrArg _ (State.serve_read ht)), fun ht => (hwrite ht).trans (congrArg _ (State.serve_write ht)),
      fun ht => (hatomic ht).trans (congrArg _ (State.serve_atomic ht)), fun ht => (hadd ht).trans (congrArg _ (State.serve_add ht)),
      fun ht => (hdeclare ht).trans (congrArg _ (State.serve_declare ht))⟩
  case kept =>
    intro inst hg hw
    subst hst
    exact ⟨_, rfl, (exec_fabricRequest_heard hp ht hh).trans (congrArg _ (State.serveChecked_kept hg hw))⟩
  case refused =>
    intro reason hg
    subst hst
    exact (exec_fabricRequest_heard hp ht hh).trans (congrArg _ (State.serveChecked_refused hg))
  case notLive => exact exec_fabricRequest_notLive hp ht

end Sys2Proof.Machine
end

section
/-! PROOF. Responses to the requests of herds, a contribution that is refused for want of room, timeouts, and `PENDING` of a home that waits. -/
namespace Sys2Proof.Machine
open Sys2Proof.Claims

section
variable {s u : State} {port rid : Nat} {m : Msg} {data : List Byte} {t : Txn} {x : Req}

theorem State.reqOf_endTxn (p n : Nat) : (s.endTxn p n).reqOf rid = s.reqOf rid := rfl

/-- A herd's transaction that ends without success kills the context of its request. -/
theorem State.failTxn_herd (ho : t.owner = .herd rid) (hx : s.reqOf rid = some x) (cause : Cause) (st : Status) (detail : Nat) :
    s.failTxn t cause st detail = (s.endTxn t.port t.num).failReq x cause := by
  simp only [State.failTxn, ho, State.reqOf_endTxn, hx]

/-- A transaction whose timeout or sending again starts now. -/
def State.markTxn (s : State) (t : Txn) (f : Txn → Txn) : State :=
  { s with fx := { s.fx with txns := s.fx.txns.map (fun v => if v.port = t.port && v.num = t.num then f v else v) } }

theorem State.remoteDead_killed (h : s.deadchk x.ctxRef = true) : s.remoteDead x = (s.failReq x .deadRead, true) := if_pos h

theorem State.remoteDead_counted (h : s.deadchk x.ctxRef = false) : s.remoteDead x = (s.countReread x.ctxRef 1, false) :=
  if_neg (by simp [h])

section
variable (hh : heard s port m)
include hh

/-! ## Data (12 R291) -/

section
variable (hu : u = taken s port m data) (ha : u.answered port m = some t) (ho : t.owner = .herd rid) (hx : u.reqOf rid = some x)
  (ht : m.typ = 0x10#8)
include hu ha ho hx ht

theorem exec_rdRsp_poisoned (hp : m.poisonMask.getLsbD 0 = true) :
    exec (.rdRsp port m data) s = .next ((u.endTxn t.port t.num).failReq x .eccUncorrectable) := by
  refine congrArg Host.Outcome.next ((State.receive_heard hh (congrArg BitVec.toNat ht) _ _ _).trans ?_)
  simp only [← hu, ha, ho, State.reqOf_endTxn, hx, hp, if_true]

section
variable (hp : m.poisonMask.getLsbD 0 = false)
include hp

theorem exec_rdRsp_live (hd : m.deadMask.getLsbD 0 = false) :
    exec (.rdRsp port m data) s = .next ((u.endTxn t.port t.num).reqData x (t.dst * 2 ^ 42 + t.addr) data) := by
  refine congrArg Host.Outcome.next ((State.receive_heard hh (congrArg BitVec.toNat ht) _ _ _).trans ?_)
  simp only [← hu, ha, ho, State.reqOf_endTxn, hx, hp, hd, Bool.false_and, Bool.false_eq_true, if_false]

section
variable (hd : m.deadMask.getLsbD 0 = true) (hf : (x.kind != .fetch) = true)
include hd hf

theorem exec_rdRsp_deadKilled (hc : (u.endTxn t.port t.num).deadchk x.ctxRef = true) :
    exec (.rdRsp port m data) s = .next ((u.endTxn t.port t.num).failReq x .deadRead) := by
  refine congrArg Host.Outcome.next ((State.receive_heard hh (congrArg BitVec.toNat ht) _ _ _).trans ?_)
  simp only [← hu, ha, ho, State.reqOf_endTxn, hx, hp, hd, hf, State.remoteDead_killed hc, Bool.and_self, Bool.false_eq_true, if_false, if_true]

theorem exec_rdRsp_deadCounted (hc : (u.endTxn t.port t.num).deadchk x.ctxRef = false) : exec (.rdRsp port m data) s =
    .next (((u.endTxn t.port t.num).countReread x.ctxRef 1).reqData x (t.dst * 2 ^ 42 + t.addr) data) := by
  refine congrArg Host.Outcome.next ((State.receive_heard hh (congrArg BitVec.toNat ht) _ _ _).trans ?_)
  simp only [← hu, ha, ho, State.reqOf_endTxn, hx, hp, hd, hf, State.remoteDead_counted hc, Bool.and_self, Bool.false_eq_true, if_false, if_true]

end
end
end

/-! ## Acknowledgements, refusals and `PENDING` (12 R291, R293, R294) -/

variable (hu : u = taken s port m []) (ha : u.answered port m = some t)
include hu ha

theorem exec_ack_accepted (ht : m.typ = 0x11#8) : exec (.ack port m) s = .next ((u.endTxn t.port t.num).accepted t m.deadMask) := by
  refine congrArg Host.Outcome.next ((State.receive_heard hh (congrArg BitVec.toNat ht) _ _ _).trans ?_)
  simp only [← hu, ha]

theorem exec_nack_full {cid : Nat} {h : CollHdr} {d : List Byte} (ho : t.owner = .coll cid h d) (ht : m.typ = 0x12#8) (hst : m.status = 5#8) :
    exec (.nack port m) s = .next (u.markTxn t (fun v => { v with resendAt := some (u.time + 10000) })) := by
  refine congrArg Host.Outcome.next ((State.receive_heard hh (congrArg BitVec.toNat ht) _ _ _).trans ?_)
  simp only [← hu, ha, ho, hst]
  rfl

variable (ho : t.owner = .herd rid)
include ho

section
variable (hx : u.reqOf rid = some x) (ht : m.typ = 0x12#8)
include hx ht

theorem exec_nack_permission (hst : m.status = 1#8) :
    exec (.nack port m) s = .next ((u.endTxn t.port t.num).failReq x .permission) := by
  refine congrArg Host.Outcome.next ((State.receive_heard hh (congrArg BitVec.toNat ht) _ _ _).trans ?_)
  simp only [← hu, ha, hst]
  exact State.failTxn_herd ho hx _ _ _

theorem exec_nack_addressFault (hst : m.status = 2#8 ∨ m.status = 3#8 ∨ m.status = 4#8) :
    exec (.nack port m) s = .next ((u.endTxn t.port t.num).failReq x .addressFault) := by
  refine congrArg Host.Outcome.next ((State.receive_heard hh (congrArg BitVec.toNat ht) _ _ _).trans ?_)
  rcases hst with hst | hst | hst <;>
  · simp only [← hu, ha, hst]
    exact State.failTxn_herd ho hx _ _ _

end

theorem exec_pending_herd (ht : m.typ = 0x13#8) :
    exec (.pending port m) s = .next (u.markTxn t (fun v => { v with since := u.time })) := by
  refine congrArg Host.Outcome.next ((State.receive_heard hh (congrArg BitVec.toNat ht) _ _ _).trans ?_)
  simp only [← hu, ha, ho]
  rfl

end

/-! ## What serves a request, or ends it -/

/-- The data of a sector serves the request that asked for it, lane by lane. -/
def State.serveReq (s : State) (x : Req) (pa : Nat) (data : List Byte) : State :=
  { s with reqs := s.reqs.map (fun y => if y.rid = x.rid then { y with
      phase := .served (y.lanes.map (fun l => (l.lane, leNat ((data.drop (l.pa - pa)).take l.size)))) 0
        (setLineBytes 0 pa (min data.length 256) (leNat data)) } else y) }

theorem State.reqData_read (hk : x.kind = .read) (pa : Nat) (data : List Byte) : s.reqData x pa data = s.serveReq x pa data := by
  simp only [State.reqData, hk]
  rfl

section
variable (ho : t.owner = .herd rid) (hx : s.reqOf rid = some x) {dead : BitVec 64}
include ho hx

theorem State.accepted_herd (hk : ∀ lf opf, x.kind ≠ .add lf opf) : s.accepted t dead = s.endReq x := by
  simp only [State.accepted, ho, hx]

theorem State.accepted_add {lf opf : Nat} (hk : x.kind = .add lf opf) : s.accepted t dead = s.addAccepted x t dead := by
  simp only [State.accepted, ho, hx, hk]

end

theorem State.addAccepted_counted {dead : BitVec 64} (h : dead = 0 ∨ s.deadchk x.ctxRef = false) :
    s.addAccepted x t dead = (s.endReq x).countReread x.ctxRef (maskBits 64 dead.toNat).length := by
  refine if_neg ?_
  rcases h with h | h <;> simp [h]

theorem State.addAccepted_killed {dead : BitVec 64} (h : dead ≠ 0) (hc : s.deadchk x.ctxRef = true) :
    ∃ ls, s.addAccepted x t dead = s.failReq { x with lanes := ls } .deadRead :=
  ⟨_, if_pos (by simpa [hc] using h)⟩

/-! ## Timers (12 R293) -/

theorem exec_txnTimeout_herd (hport : port < 16) (hf : s.fx.txns.find? (fun t => t.port = port && t.num = rid) = some t)
    (ho : t.owner = .herd x.rid) (hx : s.reqOf x.rid = some x) (hr : t.resendAt = none) (hclk : s.clocked = true)
    (hdue : t.since + s.fx.txnTimeout.toNat * 1000000 ≤ s.time) :
    exec (.txnTimeout port rid) s = .next ((s.endTxn port rid).failReq x .addressFault) := by
  have hname : t.port = port ∧ t.num = rid := by simpa using List.find?_some hf
  show execTxnTimeout port rid s = _
  simp only [execTxnTimeout, State.clockRow_clocked hclk, hf, hport, hr, hdue, State.failTxn_herd ho hx, hname]
  rfl

theorem exec_pendingTimer_due {src : BitVec 12} {txn : BitVec 14} {i : Inbound}
    (hf : s.fx.inbound.find? (fun i => i.port = port && i.msg.srcPkg = src && i.msg.txn = txn) = some i) (hclk : s.clocked = true)
    (hstep : 2#3 ≤ (s.stack (s.homeRegion i.msg.addr.toNat)).step) (hdue : i.lastPending + 1000000 ≤ s.time) :
    ∃ t, t = s.respond port i.msg (Msg.to 0x13 0) [] ∧ exec (.pendingTimer port src txn) s = .next { t with fx := { t.fx with
      inbound := t.fx.inbound.map (fun j => if j = i then { j with lastPending := t.time } else j) } } := by
  refine ⟨_, rfl, ?_⟩
  show execPendingTimer port src txn s = _
  simp [execPendingTimer, State.clockRow_clocked hclk, hf, hstep, hdue]

end

/-- Settles O47: a response finds its transaction and its request, and then goes by its type, its masks and its reason. -/
theorem fabricResponses : Obligations.FabricResponses := by
  unfold Obligations.FabricResponses
  refine ⟨?responses, ?full, ?timeout, ?timer⟩
  case responses =>
    intro s u port rid m data t x hh hu ha ho hx s1 pa served
    have hdata : m.typ = 0x10#8 → u = taken s port m data := fun ht => by rw [hu, if_pos ht]
    have hnone : m.typ ≠ 0x10#8 → u = taken s port m [] := fun ht => by rw [hu, if_neg ht]
    refine ⟨?poisoned, ?live, ?dead, ?ack, ?add, ?permission, ?address, ?pending⟩
    case poisoned => exact fun ht => exec_rdRsp_poisoned hh (hdata ht) ha ho hx ht
    case live =>
      exact fun ht hp hd hk => (exec_rdRsp_live hh (hdata ht) ha ho hx ht hp hd).trans (congrArg _ (State.reqData_read hk _ _))
    case dead =>
      intro ht hp hd hk
      have hf : (x.kind != .fetch) = true := by rw [hk]; rfl
      exact ⟨exec_rdRsp_deadKilled hh (hdata ht) ha ho hx ht hp hd hf, fun hc =>
        (exec_rdRsp_deadCounted hh (hdata ht) ha ho hx ht hp hd hf hc).trans (congrArg _ (State.reqData_read hk _ _))⟩
    case ack =>
      exact fun ht hk => (exec_ack_accepted hh (hnone (by simp [ht])) ha ht).trans (congrArg _ (State.accepted_herd (s := s1) ho hx hk))
    case add =>
      intro lf opf ht hk
      have hrun := (exec_ack_accepted hh (hnone (by simp [ht])) ha ht).trans (congrArg _ (State.accepted_add (s := s1) ho hx hk))
      refine ⟨fun h => hrun.trans (congrArg _ (State.addAccepted_counted h)), fun hd hc => ?_⟩
      obtain ⟨ls, hls⟩ := State.addAccepted_killed (s := s1) (x := x) (t := t) hd hc
      exact ⟨ls, hrun.trans (congrArg _ hls)⟩
    case permission => exact fun ht hst => exec_nack_permission hh (hnone (by simp [ht])) ha ho hx ht hst
    case address => exact fun ht hst => exec_nack_addressFault hh (hnone (by simp [ht])) ha ho hx ht hst
    case pending => exact fun ht => exec_pending_herd hh (hnone (by simp [ht])) ha ho ht
  case full => exact fun s u port m t cid h d hh hu ha ho ht hst => exec_nack_full hh hu ha ho ht hst
  case timeout => exact fun s port rid t x hport hf ho hx hr hclk hdue => exec_txnTimeout_herd hport hf ho hx hr hclk hdue
  case timer => exact fun s port src txn i hf hclk hstep hdue => exec_pendingTimer_due hf hclk hstep hdue

end Sys2Proof.Machine
end

section
/-! PROOF. The messages of collectives: contributions and arrivals by what the group and its collective are at, beacons, and aborts. -/
namespace Sys2Proof.Machine
open Sys2Proof.Claims

/-! ## A contribution or an arrival of a member (07 R161, R168) -/

/-- A message of a collective comes from a member of a group that is whole, whose engine's region is out of reset. -/
structure State.CollReaches (s : State) (m : Msg) (g : Group) : Prop where
  group : s.group? m.groupId.toNat = some g
  member : g.members.any (fun x => x.1 = m.srcPkg.toNat) = true
  up : s.regionDown (g.members.getD g.rank (0, 16)).2 = false
  whole : g.broken = none

/-- What a group holds of a message. -/
def contribution (port : Nat) (m : Msg) (h : CollHdr) (d : List Byte) : Contribution :=
  Contribution.mk port h.rank.toNat h d m.txn m.srcPkg m.srcPort

/-- The group holds a message, and its collective of that `SEQ` has heard of a member now. -/
def State.holdColl (s : State) (g : Group) (port : Nat) (m : Msg) (h : CollHdr) (d : List Byte) : State :=
  s.updGroup g.id (fun g => { g with
    held := g.held ++ [contribution port m h d]
    coll := g.coll.map (fun k => if k.seq = h.seq.toNat then { k with came := s.time } else k) })

section
variable {s : State} {port : Nat} {m : Msg} {h : CollHdr} {data : List Byte} {g : Group}

theorem State.collArrived_down (hg : s.group? m.groupId.toNat = some g) (hm : g.members.any (fun x => x.1 = m.srcPkg.toNat) = true)
    (hd : s.regionDown (g.members.getD g.rank (0, 16)).2 = true) : s.collArrived port m h data = s.nackMsg port m 4 := by
  simp only [State.collArrived, hg, hm, hd, Bool.not_true, Bool.false_eq_true, if_false, if_true]

section
variable (hr : s.CollReaches m g)
include hr

/-! ### Its `SEQ` is that of the collective in progress -/

section
variable {k : Coll} (hk : g.coll = some k) (hseq : k.seq = h.seq.toNat)
include hk hseq

theorem State.collArrived_contradicts (hm : hdrMatches h k.hdr = false) : s.collArrived port m h data = s.mismatch g.id h.seq.toNat := by
  simp [State.collArrived, hr.group, hr.member, hr.up, hr.whole, hk, hseq, hm, -List.getD_eq_getElem?_getD]

theorem State.collArrived_arrives (hm : hdrMatches h k.hdr = true) (ht : m.typ = 9#8) :
    s.collArrived port m h data = ((s.holdColl g port m h []).ackMsg port m).collPump k.cid := by
  simp [State.collArrived, hr.group, hr.member, hr.up, hr.whole, hk, hseq, hm, ht, State.holdColl, contribution, -List.getD_eq_getElem?_getD]

theorem State.collArrived_applies (hm : hdrMatches h k.hdr = true) (ht : m.typ = 8#8) {u : State}
    (hu : (s.holdColl g port m h (data.take (msgBytes m))).collPump k.cid = u) : s.collArrived port m h data =
      if 2 ^ 20 < u.heldBytes (g.members.getD g.rank (0, 16)).2 ∧
        (u.group? g.id).elim false (fun g => g.held.contains (contribution port m h (data.take (msgBytes m)))) = true
      then s.nackMsg port m 5 else u := by
  simp only [State.holdColl, contribution] at hu ⊢
  simp [State.collArrived, hr.group, hr.member, hr.up, hr.whole, hk, hseq, hm, ht, hu, -List.getD_eq_getElem?_getD]

end

/-! ### No collective of its `SEQ` is in progress -/

section
variable (hk : ∀ k, g.coll = some k → k.seq ≠ h.seq.toNat)
include hk

theorem State.collArrived_stale (hseq : g.seq ≠ h.seq.toNat) : s.collArrived port m h data = s.mismatch g.id h.seq.toNat := by
  cases hc : g.coll with
  | none => simp [State.collArrived, hr.group, hr.member, hr.up, hr.whole, hc, hseq.symm, -List.getD_eq_getElem?_getD]
  | some k => simp [State.collArrived, hr.group, hr.member, hr.up, hr.whole, hc, hk k hc, hseq.symm, -List.getD_eq_getElem?_getD]

variable (hseq : g.seq = h.seq.toNat)
include hseq

theorem State.collArrived_arrivesEarly (ht : m.typ = 9#8) : s.collArrived port m h data = (s.holdColl g port m h []).ackMsg port m := by
  simp only [State.holdColl, contribution]
  cases hc : g.coll with
  | none => simp [State.collArrived, hr.group, hr.member, hr.up, hr.whole, hc, hseq, ht, -List.getD_eq_getElem?_getD]
  | some k => simp [State.collArrived, hr.group, hr.member, hr.up, hr.whole, hc, hk k hc, hseq, ht, -List.getD_eq_getElem?_getD]

theorem State.collArrived_keeps (ht : m.typ = 8#8)
    (hroom : (s.holdColl g port m h (data.take (msgBytes m))).heldBytes (g.members.getD g.rank (0, 16)).2 ≤ 2 ^ 20) :
    s.collArrived port m h data = s.holdColl g port m h (data.take (msgBytes m)) := by
  have hfits := Nat.not_lt.mpr hroom
  simp only [State.holdColl, contribution] at hfits ⊢
  cases hc : g.coll with
  | none => simp [State.collArrived, hr.group, hr.member, hr.up, hr.whole, hc, hseq, ht, hfits, -List.getD_eq_getElem?_getD, -Nat.reducePow]
  | some k =>
    simp [State.collArrived, hr.group, hr.member, hr.up, hr.whole, hc, hk k hc, hseq, ht, hfits, -List.getD_eq_getElem?_getD, -Nat.reducePow]

end
end

/-! ### Its rows (12 R291) -/

theorem exec_collData (hh : heard s port m) (ht : m.typ = 8#8) :
    exec (.collData port m h data) s = .next ((taken s port m data).collArrived port m h data) :=
  congrArg Host.Outcome.next (State.receive_heard hh (congrArg BitVec.toNat ht) _ _ _)

theorem exec_collArrive (hh : heard s port m) (ht : m.typ = 9#8) :
    exec (.collArrive port m h) s = .next ((taken s port m []).collArrived port m h []) :=
  congrArg Host.Outcome.next (State.receive_heard hh (congrArg BitVec.toNat ht) _ _ _)

end

/-! ## Beacons and aborts (12 R297, R298) -/

section
variable {s : State} {port : Nat} {m : Msg} {seq : Word} {rank : BitVec 16} {g : Group}

/-- A message is a member's only where its group is the one found by its own number. -/
theorem State.group?_of_fromMember (hg : s.fromMember m = some g) : s.group? g.id = some g := by
  obtain ⟨x, hx, hmem⟩ := Option.bind_eq_some_iff.mp hg
  obtain ⟨-, hsame⟩ := Option.ite_none_right_eq_some.mp hmem
  obtain rfl := Option.some.inj hsame
  have hid : x.id = m.groupId.toNat := by simpa using List.find?_some hx
  rw [hid, hx]

theorem State.dropColl_idle (hg : s.group? g.id = some g) (hk : g.coll = none) (blame detail : Nat) (st : Status) :
    s.dropColl g.id blame st detail = s.breakGroup g.id blame := by
  simp only [State.dropColl, hg, hk]

variable (hh : heard s port m) (hg : (taken s port m []).fromMember m = some g)
include hh hg

theorem exec_progressHold (ht : m.typ = 0x21#8) : exec (.progressHold port m seq rank) s = .next ((taken s port m []).updColl g.id (fun k =>
    if k.seq = seq.toNat then { k with restart := (taken s port m []).time, beacons := true } else k)) := by
  refine congrArg Host.Outcome.next ((State.receive_heard hh (congrArg BitVec.toNat ht) _ _ _).trans ?_)
  simp only [hg]

theorem exec_peerAbort (ht : m.typ = 0x22#8) : exec (.peerAbort port m seq rank) s =
    .next (g.coll.elim ((taken s port m []).dropColl g.id m.srcPkg.toNat .peerAbort m.srcPkg.toNat)
      (fun k => ((taken s port m []).dropColl g.id m.srcPkg.toNat .peerAbort m.srcPkg.toNat).finishCmd k.cid)) := by
  refine congrArg Host.Outcome.next ((State.receive_heard hh (congrArg BitVec.toNat ht) _ _ _).trans ?_)
  simp only [hg]

end

/-- A derated or held region tells, for each group whose collective its engine runs, the other members, once in 500 µs. -/
theorem exec_progressHoldBeacon {s : State} {region : Nat} (hrun : s.running = true) (hstep : 2#3 ≤ (s.stack region).step) :
    exec (.progressHoldBeacon region) s = .next (s.fx.groups.foldl (fun t g => match g.coll with
      | some k => if (g.members.getD g.rank (0, 16)).2 = region && decide (g.beaconAt + 500000 ≤ t.time) then
          (t.toMembers g 0x21 k.seq (t.stack region).step.toNat).updGroup g.id (fun g => { g with beaconAt := t.time }) else t
      | none => t) s) :=
  congrArg Host.Outcome.next (if_pos (by simp [hrun, hstep]))

/-- Settles O48: a message of a collective by whether the engine runs and whether its `SEQ` and header are those of the collective in progress; a
beacon and an abort by the group that they come from. -/
theorem collectiveMessages : Obligations.CollectiveMessages := by
  unfold Obligations.CollectiveMessages
  refine ⟨?messages, ?members, fun s region hrun hstep => exec_progressHoldBeacon hrun hstep⟩
  case messages =>
    intro s t port m h data g hh htake hg hmem hwhole region kept
    have hdata : m.typ = 8#8 → exec (.collData port m h data) s = .next (t.collArrived port m h data) := fun ht => by
      rw [exec_collData hh ht, htake, if_pos ht]
    have harrive : m.typ = 9#8 → exec (.collArrive port m h) s = .next (t.collArrived port m h []) := fun ht => by
      rw [exec_collArrive hh ht, htake, if_neg (by simp [ht])]
    refine ⟨fun hdown => ?down, fun hup => ?up⟩
    case down =>
      exact ⟨fun ht => (hdata ht).trans (congrArg _ (State.collArrived_down hg hmem hdown)),
        fun ht => (harrive ht).trans (congrArg _ (State.collArrived_down hg hmem hdown))⟩
    case up =>
      have hr : t.CollReaches m g := ⟨hg, hmem, hup, hwhole⟩
      refine ⟨fun ht => ⟨fun k hk hseq hm => ?applies, fun hk hseq hroom => ?keeps⟩,
        fun ht => ⟨fun k hk hseq hm => ?arrives, fun hk hseq => ?early⟩,
        fun k hk hseq hm => ⟨fun ht => ?_, fun ht => ?_⟩, fun hk hseq => ⟨fun ht => ?_, fun ht => ?_⟩⟩
      case applies => exact ⟨_, rfl, (hdata ht).trans (congrArg _ (State.collArrived_applies hr hk hseq hm ht rfl))⟩
      case keeps => exact (hdata ht).trans (congrArg _ (State.collArrived_keeps hr hk hseq ht hroom))
      case arrives => exact (harrive ht).trans (congrArg _ (State.collArrived_arrives hr hk hseq hm ht))
      case early => exact (harrive ht).trans (congrArg _ (State.collArrived_arrivesEarly hr hk hseq ht))
      · exact (hdata ht).trans (congrArg _ (State.collArrived_contradicts hr hk hseq hm))
      · exact (harrive ht).trans (congrArg _ (State.collArrived_contradicts hr hk hseq hm))
      · exact (hdata ht).trans (congrArg _ (State.collArrived_stale hr hk hseq))
      · exact (harrive ht).trans (congrArg _ (State.collArrived_stale hr hk hseq))
  case members =>
    intro s t port m seq rank g hh htake hg
    subst htake
    refine ⟨exec_progressHold hh hg, fun ht hk => ?idle, fun k ht hk => ?running⟩
    case idle => rw [exec_peerAbort hh hg ht, hk, Option.elim_none, State.dropColl_idle (State.group?_of_fromMember hg) hk]
    case running => rw [exec_peerAbort hh hg ht, hk, Option.elim_some]

end Sys2Proof.Machine
end

section
/-! PROOF. BAR2: where a request of the host goes once its function takes it, and what it meets at its home. -/
namespace Sys2Proof.Machine

/-! ## A function takes a request (13 R312, R319, R320) -/

theorem State.linkUp_of_hostUp {s : State} (h : s.hostUp = true) : s.host.linkUp = true := (Bool.and_eq_true_iff.mp h).2

/-- The PF, or a VF whose BARs accept the request. -/
def State.fnTakes (s : State) (fn : Nat) (tagged : Bool) : Prop := fn = 0 ∨ s.vfTakes fn tagged = true

theorem State.fnTakes_iff {s : State} {fn : Nat} {tagged : Bool} : s.fnTakes fn tagged ↔ (fn != 0 && !s.vfTakes fn tagged) = false := by
  cases h : s.vfTakes fn tagged <;> simp [State.fnTakes, h]

/-- A request is answered by its function: the firmware is ready, its stream is not Insecure, and the function takes it. -/
structure State.Serves (t : State) (fn : Nat) (tagged : Bool) : Prop where
  up : t.hostUp = true
  kept : t.ideDrops fn tagged = false
  takes : t.fnTakes fn tagged

/-! ## BAR2 at a home (13 R309 to R311) -/

section
variable {t : State} {fn o a len : Nat} {i : Option Nat} {data : List Byte} {reads : Bool}

theorem State.barHome_ready (hw : t.barWaits i a len reads = false) (go : State) : t.barHome i a len reads go = go :=
  if_neg (by simp [hw])

theorem State.barHome_waiting (hw : t.barWaits i a len reads = true) (go : State) : t.barHome i a len reads go = t.barFetch i a len reads :=
  if_pos hw

theorem State.bar2Put_ready (hto : t.bar2To fn .write o data.length = .home i a) (hw : t.barWaits i a data.length false = false) :
    t.bar2Put fn o data = ((t.homeWrite i a 0 data).drainEvents, true) := by
  simp only [State.bar2Put, hto, hw, Bool.false_eq_true, if_false]

theorem State.bar2Put_waiting (hto : t.bar2To fn .write o data.length = .home i a) (hw : t.barWaits i a data.length false = true) :
    t.bar2Put fn o data = (t.barFetch i a data.length false, false) := by
  simp only [State.bar2Put, hto, hw, if_true]

theorem State.bar2Put_lost (hto : t.bar2To fn .write o data.length = .none) : t.bar2Put fn o data = (t.error 0x10 1 0x70 fn, true) := by
  simp only [State.bar2Put, hto, State.bar2Lost]

end

/-! ## `BAR2_READ` -/

section
variable {s : State} {fn : Nat} {addr : Word64} {len : Nat} {tagged : Bool}

theorem exec_bar2Read_dropped (hd : s.drainPosted.ideDrops fn tagged = true) :
    exec (.bar2Read fn addr len tagged) s = .next s.drainPosted :=
  congrArg Host.Outcome.next (if_pos (by simp [hd]))

section
variable (hshape : barShape addr.toNat len = true)
include hshape

theorem exec_bar2Read_unserved (hlink : s.drainPosted.host.linkUp = true) (hd : s.drainPosted.ideDrops fn tagged = false)
    (hno : s.drainPosted.hostUp = false ∨ ¬ s.drainPosted.fnTakes fn tagged) :
    exec (.bar2Read fn addr len tagged) s = .next (s.drainPosted.emit (.pcieUr fn)) := by
  have hur : (!s.drainPosted.hostUp || (fn != 0 && !s.drainPosted.vfTakes fn tagged)) = true := by
    rcases hno with hup | htakes
    · simp [hup]
    · rw [Bool.eq_true_of_not_eq_false (mt State.fnTakes_iff.mpr htakes), Bool.or_true]
  refine congrArg Host.Outcome.next ((if_neg ?_).trans (if_pos hur))
  simp [hlink, hshape, hd]

variable (hs : s.drainPosted.Serves fn tagged)
include hs

theorem exec_bar2Read_behind (hp : s.drainPosted.postedOut fn = true) :
    exec (.bar2Read fn addr len tagged) s = .next s.drainPosted := by
  refine congrArg Host.Outcome.next ((if_neg ?_).trans ((if_neg ?_).trans (if_pos hp)))
  · simp [State.linkUp_of_hostUp hs.up, hshape, hs.kept]
  · simp [hs.up, State.fnTakes_iff.mp hs.takes]

variable (hp : s.drainPosted.postedOut fn = false)
include hp

theorem exec_bar2Read_none (hto : s.drainPosted.bar2To fn .read addr.toNat len = .none) :
    exec (.bar2Read fn addr len tagged) s = .next (s.drainPosted.emit (.pcieUr fn)) := by
  show execBar2Read fn addr len tagged s = _
  simp [execBar2Read, State.linkUp_of_hostUp hs.up, hshape, hs.kept, hs.up, State.fnTakes_iff.mp hs.takes, hp, hto]

theorem exec_bar2Read_home {i : Option Nat} {a : Nat} (hto : s.drainPosted.bar2To fn .read addr.toNat len = .home i a) :
    exec (.bar2Read fn addr len tagged) s = .next (s.drainPosted.barHome i a len true
      (if (mgrSectors a len).any (fun sec => s.drainPosted.secPoisoned sec) then s.drainPosted.emit (.pciePoisoned fn)
        else s.drainPosted.emit (.pcieData fn (s.drainPosted.homeBytes a len)))) := by
  show execBar2Read fn addr len tagged s = _
  simp only [execBar2Read, State.linkUp_of_hostUp hs.up, hshape, hs.kept, hs.up, State.fnTakes_iff.mp hs.takes, hp, hto, Bool.not_true,
    Bool.or_self, Bool.false_eq_true, if_false]

end
end

/-! ## `BAR2_WRITE` -/

section
variable {s u : State} {fn : Nat} {addr : Word64} {data : List Byte} {tagged relaxed : Bool}
variable (hshape : barShape addr.toNat data.length = true) (hs : s.drainPosted.Serves fn tagged)
include hshape hs

theorem exec_bar2Write_behind (hr : relaxed = false) (hp : s.drainPosted.postedOut fn = true) :
    exec (.bar2Write fn addr data tagged relaxed) s = .next (s.drainPosted.postLater (.bar2 fn addr.toNat data)) := by
  refine congrArg Host.Outcome.next ((if_neg ?_).trans (if_pos ?_))
  · simp [hshape, hs.up, hs.kept, State.fnTakes_iff.mp hs.takes]
  · simp [hr, hp]

variable (hp : relaxed = true ∨ s.drainPosted.postedOut fn = false)
include hp

/-- A write that waits behind no other is tried at once, and waits itself where it could not be made. -/
theorem exec_bar2Write_put {made : Bool} (hput : s.drainPosted.bar2Put fn addr.toNat data = (u, made)) :
    exec (.bar2Write fn addr data tagged relaxed) s = .next (if made then u else u.postLater (.bar2 fn addr.toNat data)) := by
  have hnow : (!relaxed && s.drainPosted.postedOut fn) = false := by rcases hp with h | h <;> simp [h]
  refine congrArg Host.Outcome.next ((if_neg ?_).trans ((if_neg (by simp [hnow])).trans ?_))
  · simp [hshape, hs.up, hs.kept, State.fnTakes_iff.mp hs.takes]
  · simp only [hput]
    cases made <;> rfl

end

/-! ## A posted write that waits goes on -/

theorem State.postedTurn_first {s : State} (h : s.fx.txns = []) (fn : Nat) : s.postedTurn [] fn = true := by
  simp [State.postedTurn, h]

theorem State.drainPosted_one {s u : State} {p : Posted} (hrun : s.running = true) (hp : s.host.posted = [p]) (htx : s.fx.txns = [])
    (hnow : s.postNow p = (u, true)) : s.drainPosted = { u with host := { u.host with posted := [] } } := by
  simp [State.drainPosted, hrun, hp, State.postedTurn_first htx, hnow]

/-! ## `BAR2_ATOMICOP` -/

section
variable {s : State} {fn : Nat} {addr : Word64} {kind : AtomKind} {size a : Nat} {op cmp : Word64} {tagged : Bool} {i : Option Nat}

theorem exec_bar2Atomicop_home (hs : s.drainPosted.Serves fn tagged) (hsize : size = 4 ∨ size = 8) (halign : addr.toNat % size = 0)
    (hp : s.drainPosted.postedOut fn = false) (hto : s.drainPosted.bar2To fn .write addr.toNat size = .home i a) :
    exec (.bar2Atomicop fn addr kind size op cmp tagged) s = .next (s.drainPosted.barHome i a size true
      (if s.drainPosted.secPoisoned (a / 32) then s.drainPosted.emit (.pciePoisoned fn)
        else (s.drainPosted.homeWrite i a 0 (leBytes (atomNew (atomAop kind) size (leNat (s.drainPosted.homeBytes a size))
          (op.toNat % 2 ^ (8 * size)) (cmp.toNat % 2 ^ (8 * size))) size)).drainEvents.emit
            (.pcieData fn (s.drainPosted.homeBytes a size)))) := by
  have hlegal : (!s.drainPosted.host.linkUp || !(size = 4 || size = 8) || addr.toNat % size != 0 || s.drainPosted.ideDrops fn tagged) = false := by
    rcases hsize with rfl | rfl <;> simp [State.linkUp_of_hostUp hs.up, halign, hs.kept]
  show execBar2Atomicop fn addr kind size op cmp tagged s = _
  simp only [execBar2Atomicop, hlegal, hs.up, State.fnTakes_iff.mp hs.takes, hp, hto, Bool.not_true, Bool.or_self, Bool.false_eq_true, if_false]

end

/-- Settles O52: a request past the checks of its function goes where its BAR leads; at a home it is performed or asks for its lines. -/
theorem bar2Rules : Obligations.Bar2Rules := by
  unfold Obligations.Bar2Rules
  refine ⟨?read, ?write, ?later, ?atomic⟩
  case read =>
    intro s fn addr len tagged hshape t hlink
    refine ⟨exec_bar2Read_dropped, fun hd hup htakes => ?served, fun hd hno => exec_bar2Read_unserved hshape hlink hd ?_⟩
    case served =>
      have hs : t.Serves fn tagged := ⟨hup, hd, htakes⟩
      refine ⟨fun hp => ⟨fun i a hto => ⟨fun hw => ?_, fun hw => ?_⟩, exec_bar2Read_none hshape hs hp⟩, exec_bar2Read_behind hshape hs⟩
      · rw [exec_bar2Read_home hshape hs hp hto, State.barHome_ready hw]
      · rw [exec_bar2Read_home hshape hs hp hto, State.barHome_waiting hw]
    · exact hno.imp_right fun ⟨hfn, hv⟩ => by simp [State.fnTakes, hfn, t, hv]
  case write =>
    intro s fn addr data tagged relaxed hshape t later hup hd htakes
    have hs : t.Serves fn tagged := ⟨hup, hd, htakes⟩
    refine ⟨fun hp => ⟨fun i a hto => ⟨fun hw => ?_, fun hw => ?_⟩, fun hto => ?_⟩, exec_bar2Write_behind hshape hs⟩
    · exact exec_bar2Write_put hshape hs hp (State.bar2Put_ready hto hw)
    · exact exec_bar2Write_put hshape hs hp (State.bar2Put_waiting hto hw)
    · exact exec_bar2Write_put hshape hs hp (State.bar2Put_lost hto)
  case later =>
    intro s fn o a data i hrun hposted htx hto hw
    exact ⟨_, rfl, State.drainPosted_one hrun hposted htx (State.bar2Put_ready hto hw)⟩
  case atomic =>
    intro s fn addr kind size a op cmp tagged i t hup hd htakes hsize halign hp hto hw
    have hrow := exec_bar2Atomicop_home (kind := kind) (op := op) (cmp := cmp) ⟨hup, hd, htakes⟩ hsize halign hp hto
    rw [State.barHome_ready hw] at hrow
    refine ⟨fun hpois => hrow.trans (congrArg _ (if_pos hpois)), fun hclean => hrow.trans (congrArg _ ((if_neg (by simp [t, hclean])).trans ?_))⟩
    cases kind <;> rfl

end Sys2Proof.Machine
end

section
/-! PROOF. Functions of the endpoint: where configuration space holds what, what configuration requests answer, what functions keep, and what the
host answers to the module's requests. -/
namespace Sys2Proof.Machine

/-! ## Fields of a register -/

theorem extractLsb'_ofNat {w start len : Nat} (h : start + len ≤ w) (n : Nat) :
    (BitVec.ofNat w n).extractLsb' start len = BitVec.ofNat len (n / 2 ^ start) := by
  refine BitVec.eq_of_getLsbD_eq fun i hi => ?_
  have hin : start + i < w := by omega
  rw [BitVec.getLsbD_extractLsb', BitVec.getLsbD_ofNat, BitVec.getLsbD_ofNat, Nat.testBit_div_two_pow, Nat.add_comm i start]
  simp [hi, hin]

/-- The first of packed fields. -/
theorem extractLsb'_packed_first {w len : Nat} (h : len ≤ w) (v : Nat) (fs : List (Nat × Nat)) :
    (BitVec.ofNat w (packBits ((v, len) :: fs))).extractLsb' 0 len = BitVec.ofNat len v := by
  rw [extractLsb'_ofNat (by omega)]
  exact BitVec.eq_of_toNat_eq (by simp [packBits])

/-- The second of packed fields. -/
theorem extractLsb'_packed_second {w len₁ len₂ v₁ : Nat} (h : len₁ + len₂ ≤ w) (hv : v₁ < 2 ^ len₁) (v₂ : Nat) (fs : List (Nat × Nat)) :
    (BitVec.ofNat w (packBits ((v₁, len₁) :: (v₂, len₂) :: fs))).extractLsb' len₁ len₂ = BitVec.ofNat len₂ v₂ := by
  have hrest : packBits ((v₁, len₁) :: (v₂, len₂) :: fs) / 2 ^ len₁ = packBits ((v₂, len₂) :: fs) := by
    show (v₁ + 2 ^ len₁ * packBits ((v₂, len₂) :: fs)) / 2 ^ len₁ = _
    rw [Nat.add_mul_div_left _ _ (Nat.two_pow_pos len₁), Nat.div_eq_of_lt hv, Nat.zero_add]
  rw [extractLsb'_ofNat h, hrest]
  exact BitVec.eq_of_toNat_eq (by simp [packBits])

/-! ## Where the capabilities lie (13 R303) -/

/-- Where the `n`-th capability of a list begins. -/
def capStart (fn : Nat) (ext : Bool) (n : Nat) : Nat :=
  (if ext then 0x100 else 0x40) + ((List.range n).map (fun k => 0x40 + 4 * (Config.capGap fn (if ext then k else k + 16) % 16))).sum

theorem capPlace_eq (fn id : Nat) (ext : Bool) : capPlace fn id ext = capStart fn ext ((if ext then extCapsOf fn else capsOf).idxOf id) := rfl

theorem capStart_zero (fn : Nat) (ext : Bool) : capStart fn ext 0 = if ext then 0x100 else 0x40 := rfl

/-- From a capability to the next are 64 to 124 bytes. -/
theorem capStart_succ (fn : Nat) (ext : Bool) (n : Nat) :
    capStart fn ext n + 0x40 ≤ capStart fn ext (n + 1) ∧ capStart fn ext (n + 1) ≤ capStart fn ext n + 0x7C := by
  simp only [capStart, List.range_succ, List.map_append, List.map_singleton, List.sum_append, List.sum_singleton]
  omega

/-- Capabilities lie apart, in the order of their list. -/
theorem capStart_add (fn : Nat) (ext : Bool) (n k : Nat) : capStart fn ext n + 0x40 * k ≤ capStart fn ext (n + k) := by
  induction k with
  | zero => exact Nat.le_refl _
  | succ k ih =>
    have hnext := (capStart_succ fn ext (n + k)).1
    rw [← Nat.add_assoc]
    omega

theorem capStart_base (fn : Nat) (ext : Bool) (n : Nat) : (if ext then 0x100 else 0x40) ≤ capStart fn ext n := Nat.le_add_right _ _

/-- The capabilities that the pointer at 0x34 begins end below 0x100. -/
theorem capPlace_lt {fn k : Nat} (hk : k ∈ capsOf) : capPlace fn k false < 0x100 := by
  have h0 : capStart fn false 0 = 0x40 := rfl
  have h1 : capStart fn false 1 ≤ capStart fn false 0 + 0x7C := (capStart_succ fn false 0).2
  rcases List.mem_pair.mp hk with rfl | rfl
  · exact (show capStart fn false 0 < 0x100 by omega)
  · exact (show capStart fn false 1 < 0x100 by omega)

theorem find?_capsOf_of_ge {fn off : Nat} (h : 0x100 ≤ off) : capsOf.find? (fun k => off = capPlace fn k false) = none := by
  refine List.find?_eq_none.mpr fun k hk heq => ?_
  have hlt := capPlace_lt (fn := fn) hk
  have hoff : off = capPlace fn k false := of_decide_eq_true heq
  omega

/-- No extended capability begins within another. -/
theorem find?_extCaps_within {fn n d : Nat} (h0 : 0 < d) (hd : d < 0x40) :
    (extCapsOf fn).find? (fun k => capStart fn true n + d = capPlace fn k true) = none := by
  refine List.find?_eq_none.mpr fun k _ heq => ?_
  have hoff : capStart fn true n + d = capStart fn true ((extCapsOf fn).idxOf k) := of_decide_eq_true heq
  generalize (extCapsOf fn).idxOf k = m at hoff
  rcases Nat.lt_or_ge n m with hlt | hge
  · have hapart := capStart_add fn true n (m - n)
    rw [Nat.add_sub_cancel' hlt.le] at hapart
    omega
  · have hapart := capStart_add fn true m (n - m)
    rw [Nat.add_sub_cancel' hge] at hapart
    omega

/-- No capability begins below 0x40. -/
theorem find?_caps_of_low {fn off : Nat} (h : off < 0x40) :
    capsOf.find? (fun k => off = capPlace fn k false) = none ∧ (extCapsOf fn).find? (fun k => off = capPlace fn k true) = none := by
  refine ⟨List.find?_eq_none.mpr fun k _ heq => ?_, List.find?_eq_none.mpr fun k _ heq => ?_⟩
  · have hbase := capStart_base fn false (capsOf.idxOf k)
    have hoff : off = capStart fn false (capsOf.idxOf k) := of_decide_eq_true heq
    simp only [Bool.false_eq_true, if_false] at hbase
    omega
  · have hbase := capStart_base fn true ((extCapsOf fn).idxOf k)
    have hoff : off = capStart fn true ((extCapsOf fn).idxOf k) := of_decide_eq_true heq
    simp only [if_true] at hbase
    omega

/-! ## What configuration space holds (13 R303, R304, R313) -/

section
variable (s : State) (fn : Nat) (free : Word)

/-- The list of extended capabilities begins at 0x100. -/
theorem State.cfgKnown_firstExt : (s.cfgKnown fn 0x100 free).extractLsb' 0 16 = BitVec.ofNat 16 ((extCapsOf fn).headD 0) := by
  have hfirst : (extCapsOf fn).find? (fun k => 0x100 = capPlace fn k true) = some ((extCapsOf fn).headD 0) := by
    cases hl : extCapsOf fn with
    | nil => exact absurd hl (by unfold extCapsOf; split <;> exact List.cons_ne_nil _ _)
    | cons k l =>
      have hk : capPlace fn k true = 0x100 := by
        rw [capPlace_eq, if_pos rfl, hl, List.idxOf_cons_self, capStart_zero, if_pos rfl]
      simp [hk]
  simp only [State.cfgKnown, find?_capsOf_of_ge (le_refl _), hfirst]
  exact extractLsb'_packed_first (by decide) _ _

/-- The status register shows no Immediate Readiness. -/
theorem State.cfgKnown_status : (s.cfgKnown fn 4 free).getLsbD 16 = false := by
  obtain ⟨hcaps, hext⟩ := find?_caps_of_low (fn := fn) (off := 4) (by decide)
  simp [State.cfgKnown, hcaps, hext]

/-! Of the PF SR-IOV is the fourth extended capability and Readiness Time Reporting the sixth. -/

theorem capPlace_sriov : capPlace 0 0x10 true = capStart 0 true 3 := rfl

theorem capPlace_rtr : capPlace 0 0x22 true = capStart 0 true 5 := rfl

section
variable {d : Nat} (h0 : 0 < d) (hd : d < 0x40)
include h0 hd

theorem find?_caps_within (n : Nat) : capsOf.find? (fun k => capStart 0 true n + d = capPlace 0 k false) = none ∧
    (extCapsOf 0).find? (fun k => capStart 0 true n + d = capPlace 0 k true) = none := by
  have hbase : 0x100 ≤ capStart 0 true n := capStart_base 0 true n
  exact ⟨find?_capsOf_of_ge (by omega), find?_extCaps_within h0 hd⟩

/-- The registers of Readiness Time Reporting (R313). -/
theorem State.cfgKnown_rtr : s.cfgKnown 0 (capPlace 0 0x22 true + d) free =
    if d = 4 then
      BitVec.ofNat 32 (packBits [((Config.readinessCode 1000).toNat, 12), ((Config.readinessCode 1000).toNat, 12), (0, 7), (1, 1)])
    else if d = 8 then BitVec.ofNat 32 (packBits [((Config.readinessCode 100).toNat, 12), (bits free.toNat 23 12, 12)])
    else free := by
  obtain ⟨hcaps, hext⟩ := find?_caps_within h0 hd 5
  have hbase : 0x100 ≤ capPlace 0 0x10 true := capStart_base 0 true 3
  have hapart : capPlace 0 0x10 true + 0x80 ≤ capPlace 0 0x22 true := capStart_add 0 true 3 2
  have hsriov : ∀ k ≤ 20, capPlace 0 0x22 true + d ≠ capPlace 0 0x10 true + k := by omega
  have hlow : ∀ k ≤ 0x34, capPlace 0 0x22 true + d ≠ k := by omega
  rw [← capPlace_rtr] at hcaps hext
  simp [State.cfgKnown, hcaps, hext, hsriov, hlow]

/-- The registers of SR-IOV (R304). -/
theorem State.cfgKnown_sriov : s.cfgKnown 0 (capPlace 0 0x10 true + d) free =
    if d = 8 then (free &&& 0xFFFFFFEE) ||| (if s.host.vfEn then 0x11 else 0x10)
    else if d = 12 then BitVec.ofNat 32 (packBits [(4096, 16), (4096, 16)])
    else if d = 16 then BitVec.ofNat 32 (packBits [(s.host.numVfs, 16), (bits free.toNat 31 16, 16)])
    else if d = 20 then BitVec.ofNat 32 (packBits [(1, 16), (1, 16)])
    else free := by
  obtain ⟨hcaps, hext⟩ := find?_caps_within h0 hd 3
  have hbase : 0x100 ≤ capPlace 0 0x10 true := capStart_base 0 true 3
  have hapart : capPlace 0 0x10 true + 0x80 ≤ capPlace 0 0x22 true := capStart_add 0 true 3 2
  have hrtr : ∀ k, capPlace 0 0x10 true + d ≠ capPlace 0 0x22 true + k := by omega
  have hlow : ∀ k ≤ 0x34, capPlace 0 0x10 true + d ≠ k := by omega
  rw [← capPlace_sriov] at hcaps hext
  simp [State.cfgKnown, hcaps, hext, hrtr, hlow]

end

/-- Reset Time and DL_Up Time are 1,000 ms. -/
theorem State.cfgKnown_resetTimes :
    (s.cfgKnown 0 (capPlace 0 0x22 true + 4) free).extractLsb' 0 12 = Config.readinessCode 1000 ∧
    (s.cfgKnown 0 (capPlace 0 0x22 true + 4) free).extractLsb' 12 12 = Config.readinessCode 1000 := by
  rw [State.cfgKnown_rtr s free (by decide) (by decide), if_pos rfl, extractLsb'_packed_first (by decide),
    extractLsb'_packed_second (by decide) (BitVec.isLt _), BitVec.ofNat_toNat, BitVec.setWidth_eq]
  exact ⟨rfl, rfl⟩

/-- FLR Time is 100 ms. -/
theorem State.cfgKnown_flrTime :
    (s.cfgKnown 0 (capPlace 0 0x22 true + 8) free).extractLsb' 0 12 = Config.readinessCode 100 := by
  rw [State.cfgKnown_rtr s free (by decide) (by decide), if_neg (by decide), if_pos rfl, extractLsb'_packed_first (by decide),
    BitVec.ofNat_toNat, BitVec.setWidth_eq]

/-- InitialVFs and TotalVFs are 4,096. -/
theorem State.cfgKnown_vfCounts : s.cfgKnown 0 (capPlace 0 0x10 true + 12) free = 0x10001000 := by
  rw [State.cfgKnown_sriov s free (by decide) (by decide), if_neg (by decide), if_pos rfl]
  decide

/-- First VF Offset and VF Stride are 1. -/
theorem State.cfgKnown_vfOffsets : s.cfgKnown 0 (capPlace 0 0x10 true + 20) free = 0x00010001 := by
  rw [State.cfgKnown_sriov s free (by decide) (by decide), if_neg (by decide), if_neg (by decide), if_neg (by decide), if_pos rfl]
  decide

/-- ARI is enabled. -/
theorem State.cfgKnown_vfAri : (s.cfgKnown 0 (capPlace 0 0x10 true + 8) free).getLsbD 4 = true := by
  rw [State.cfgKnown_sriov s free (by decide) (by decide), if_pos rfl, BitVec.getLsbD_or]
  cases s.host.vfEn <;> simp

end

/-! ## Configuration requests (13 R304, R312, 14 R335) -/

section
variable {s : State} {fn off : Nat} (hlink : s.host.linkUp = true) (hclk : s.clocked = true)
include hlink hclk

section
variable (hready : s.host.ready = false)
include hready

theorem exec_configRequest_early (hboot : s.rs.boot ≠ .imageFailed) (hv : off ≠ 0 ∨ Config.rrsVisible = false) :
    exec (.configRequest fn off) s = .next (s.emit (.cfgRrs fn)) := by
  have hrrs : (off = 0 && Config.rrsVisible) = false := by rcases hv with h | h <;> simp [h]
  show execConfigRequest fn off s = _
  simp [execConfigRequest, State.clockRow_clocked hclk, hlink, hready, hboot, hrrs]

theorem exec_configRequest_failedImage (hboot : s.rs.boot = .imageFailed) (hdue : oneSec ≤ s.time) :
    exec (.configRequest fn off) s = .next (s.emit (.pcieUr fn)) := by
  show execConfigRequest fn off s = _
  simp [execConfigRequest, State.clockRow_clocked hclk, hlink, hready, hboot, hdue]

end

section
variable (hready : s.host.ready = true)
include hready

theorem exec_configRequest_noFunction (hfn : s.fnExists fn = false) :
    exec (.configRequest fn off) s = .next (s.emit (.pcieUr fn)) := by
  show execConfigRequest fn off s = _
  simp [execConfigRequest, State.clockRow_clocked hclk, hlink, hready, hfn]

variable (hfn : s.fnExists fn = true)
include hfn

theorem exec_configRequest_identity : exec (.configRequest fn 0) s = .next (s.emit (.cfgValue fn (Config.vendorId fn))) := by
  show execConfigRequest fn 0 s = _
  simp [execConfigRequest, State.clockRow_clocked hclk, hlink, hready, hfn]

theorem exec_configRequest_read (hoff : off ≠ 0) : exec (.configRequest fn off) s =
    .next (({ s with freeSeq := s.freeSeq + 1 } : State).emit
      (.cfgValue fn (s.cfgKnown fn off (BitVec.ofNat 32 (Config.freeBits s.freeSeq))))) := by
  show execConfigRequest fn off s = _
  simp [execConfigRequest, State.clockRow_clocked hclk, hlink, hready, hfn, hoff, State.free]

theorem exec_configRequest_write (w : CfgWrite) :
    exec (.configRequest fn off (some w)) s = .next ((s.cfgWrite fn w).emit (.cfgWritten fn)) := by
  show execConfigRequest fn off s (some w) = _
  simp [execConfigRequest, State.clockRow_clocked hclk, hlink, hready, hfn]

end
end

/-! ## Messages, VFs and bus mastering (13 R304, R314, R318) -/

section
variable {s : State} {fn v : Nat}

theorem State.msix_disabled (h : (s.fnCfg fn).msixEn = false) : s.msix fn v = s := if_pos (by simp [h])

theorem State.msix_masked (hen : (s.fnCfg fn).msixEn = true) (h : v ∈ (s.fnCfg fn).masked ∨ (s.fnCfg fn).fnMask = true ∨ s.mute fn = true) :
    s.msix fn v = s.updFn fn (fun c => { c with pendingBits := insertNat c.pendingBits v }) := by
  refine (if_neg (by simp [hen])).trans (if_pos ?_)
  rcases h with h | h | h <;> simp [h]

variable (hup : s.hostUp = true)
include hup

theorem exec_vfEnable_on {n : Nat} (hn : n ≤ 4096) (hoff : s.host.vfEn = false) :
    exec (.vfEnable n true) s = .next { s with host := { s.host with numVfs := n, vfEn := true } } := by
  show execVfEnable n true s = _
  simp [execVfEnable, hup, Nat.not_lt.mpr hn, hoff]

theorem exec_vfEnable_off {n : Nat} (hn : n ≤ 4096) : exec (.vfEnable n false) s = .next { s with host := { s.host with
    fns := s.host.fns.filter (fun f => f.fn = 0), ats := [], numVfs := n, vfEn := false } } := by
  show execVfEnable n false s = _
  simp [execVfEnable, hup, Nat.not_lt.mpr hn, State.dropVfs]

theorem exec_busMasterEnable (hfn : s.fnExists fn = true) (on : Bool) :
    exec (.busMasterEnable fn on) s = .next (
      if on then ((s.updFn fn (fun c => { c with busMaster := on })).hostResume fn).sendPending fn
      else s.updFn fn (fun c => { c with busMaster := on })) :=
  congrArg Host.Outcome.next (if_neg (by simp [hup, hfn]))

theorem exec_msixUnmask (hfn : s.fnExists fn = true) (hv : v < vectorsOf fn) (hd : s.ideDrops fn true = false) (htakes : s.fnTakes fn true) :
    exec (.msixUnmask fn v) s = .next ((s.updFn fn (fun c => { c with masked := c.masked.erase v })).sendPending fn) :=
  congrArg Host.Outcome.next (if_neg (by simp only [hup, hfn, Nat.not_le.mpr hv, hd, State.fnTakes_iff.mp htakes]; decide))

end

/-! ## The link trains (13 R303) -/

theorem exec_pcieLinkUp {s : State} {w r : Nat} (hcold : s.outOfCold = true) (hwarm : s.rs.warm = false) (hdown : s.host.linkUp = false)
    (hw : w ∈ [4, 8, 16]) (hr : r ∈ [16, 32, 64, 128]) {t : State}
    (ht : t = { s with host := { s.host with linkUp := true, width := w, rate := r } }) :
    exec (.pcieLinkUp w r) s = .next (if w = 16 ∧ r = 128 then t else t.error 0x0F 3 0x70 1) := by
  have hlegal : ([4, 8, 16].contains w && [16, 32, 64, 128].contains r) = true :=
    Bool.and_eq_true_iff.mpr ⟨List.contains_iff_mem.mpr hw, List.contains_iff_mem.mpr hr⟩
  refine congrArg Host.Outcome.next ((if_neg (by rw [hcold, hwarm, hdown, hlegal]; decide)).trans ?_)
  simp only [ht, Bool.and_eq_true, decide_eq_true_eq]

/-! ## Translations (13 R315, R316) -/

section
variable {s : State} {page : Nat}

theorem exec_invalidateRequest_busy {vf : Nat} (hbusy : s.hostPageBusy (vf - 1) page = true) : exec (.invalidateRequest vf page) s = .next s :=
  congrArg Host.Outcome.next (if_pos (by simp [hbusy]))

variable (hup : s.hostUp = true)
include hup

theorem exec_atsTranslationCompletion {inst at_ : Nat} {g w : Bool} (hi : (s.inst? inst).isSome = true)
    (hats : (s.fnCfg (inst + 1)).ats = true) {t u : State}
    (ht : t = { s with host := { s.host with
      ats := { inst := inst, page := page, at_ := at_, readable := g, writable := w } :: s.host.ats.filter (fun t => !(t.inst = inst && t.page = page)) } })
    (hu : u = ((t.inst? inst).elim [] (fun i => i.queues)).foldl (fun t q => t.drainHeld (.tenant inst q.num) q.held) t) :
    exec (.atsTranslationCompletion inst page g w at_) s =
      .next (((u.instInFlight inst).filter (fun c => c.phase = .active)).foldl (fun t c => t.cmdOn c.cid) u) := by
  subst hu ht
  refine congrArg Host.Outcome.next (if_neg ?_)
  simp [hup, hats, Option.isSome_iff_ne_none.mp hi]

theorem exec_invalidateRequest_done {vf : Nat} (hvf : vf ≠ 0) (hidle : s.hostPageBusy (vf - 1) page = false) :
    exec (.invalidateRequest vf page) s = .next (({ s with host := { s.host with
      ats := s.host.ats.filter (fun t => !(t.inst + 1 = vf && t.page = page)) } } : State).emit (.invalidateDone vf page)) :=
  congrArg Host.Outcome.next (if_neg (by simp [hup, hvf, hidle]))

end

/-! ## Completions of the host (13 R315, R318) -/

section
variable {s : State} {rid : Nat} {x : Req} {reply : HostReply} {data : List Byte} (hup : s.hostUp = true)
include hup

theorem exec_pcieCompletion_rejected (hr : reply ≠ .ok) : exec (.pcieCompletion rid reply data true) s = .next (s.error 0x0F 3 0x70 2) := by
  show execPcieCompletion rid reply data s true = _
  simp [execPcieCompletion, hup, hr]

variable (hx : s.reqs.find? (fun x => x.rid = rid && x.target = .host) = some x)
include hx

/-- A completion for a request of a thread. -/
theorem exec_pcieCompletion_req : exec (.pcieCompletion rid reply data) s = .next (s.hostReqDone x reply data) := by
  show execPcieCompletion rid reply data s = _
  simp [execPcieCompletion, hup, hx]

end

section
variable {s : State} {x : Req}

theorem State.hostReqDone_failed {reply : HostReply} (h : reply ≠ .ok) (data : List Byte) :
    s.hostReqDone x reply data = s.failReq x .addressFault :=
  if_pos (bne_iff_ne.mpr h)

theorem State.hostReqDone_read (hk : x.kind = .read) {l : LaneAcc} (hl : x.lanes = [l]) (data : List Byte) :
    s.hostReqDone x .ok data = s.serveReq x l.pa data := by
  simp [State.hostReqDone, hk, hl, State.reqData_read hk]

theorem State.hostReqDone_write (hk : x.kind = .write) (data : List Byte) : s.hostReqDone x .ok data = s.endReq x := by
  simp [State.hostReqDone, State.reqData, hk]

end

/-- Settles O54: what configuration space holds by the places of its capabilities, and each row past the conditions of its clause. -/
theorem hostFunctionRules : Obligations.HostFunctionRules := by
  unfold Obligations.HostFunctionRules
  refine ⟨?config, ?known, fun s fn v => ⟨State.msix_disabled, State.msix_masked⟩, fun s rid reply data hup => exec_pcieCompletion_rejected hup,
    fun s n hup hn => ⟨exec_vfEnable_on hup hn, exec_vfEnable_off hup hn⟩,
    fun s fn hup hfn => ⟨exec_busMasterEnable hup hfn false, exec_busMasterEnable hup hfn true⟩, fun s fn v => exec_msixUnmask,
    fun s w r hcold hwarm hdown hw hr => exec_pcieLinkUp hcold hwarm hdown hw hr rfl, ?translated,
    fun s vf page hup hvf => ⟨exec_invalidateRequest_busy, exec_invalidateRequest_done hup hvf⟩, ?read, ?write⟩
  case config =>
    intro s fn off hlink hclk
    exact ⟨exec_configRequest_early hlink hclk, exec_configRequest_noFunction hlink hclk, exec_configRequest_failedImage hlink hclk,
      exec_configRequest_identity hlink hclk, exec_configRequest_read hlink hclk, fun w hready hfn =>
        exec_configRequest_write hlink hclk hready hfn w⟩
  case known =>
    intro s fn free
    obtain ⟨hreset, hlink⟩ := State.cfgKnown_resetTimes s free
    exact ⟨State.cfgKnown_firstExt s fn free, State.cfgKnown_status s fn free, hreset, hlink, State.cfgKnown_flrTime s free,
      State.cfgKnown_vfCounts s free, State.cfgKnown_vfOffsets s free, State.cfgKnown_vfAri s free⟩
  case translated =>
    intro s inst page at_ g w hup hi hats
    exact ⟨_, _, rfl, rfl, exec_atsTranslationCompletion hup hi hats rfl rfl⟩
  case read =>
    intro s rid x l data hup hx hl hk
    refine ⟨?_, fun reply hr => ?_⟩
    · rw [exec_pcieCompletion_req hup hx, State.hostReqDone_read hk hl]
      rfl
    · rw [exec_pcieCompletion_req hup hx, State.hostReqDone_failed hr]
  case write =>
    intro s rid x hup hx hk
    rw [exec_pcieCompletion_req hup hx, State.hostReqDone_write hk]

end Sys2Proof.Machine
end

section
/-! PROOF. Resets of the link and of functions, and the security of the link: IDE streams, TDIs, and SPDM on its two paths. -/
namespace Sys2Proof.Machine

/-! ## Resets (13 R314, 10 R239) -/

section
variable {s : State}

theorem exec_hotReset (hlink : s.host.linkUp = true) (hperst : s.pins.perstN = true) (hclk : s.clocked = true) {u t : State}
    (hu : u = (s.countReset 14).allTdiError.hostLost) (ht : t = u.host.bar2.foldl (fun t b => t.bar2Drop b.id) u) :
    exec .hotReset s = .next (({ t with host := { HostIf.reset with ready := t.host.ready } } : State).adminStop) := by
  subst hu ht
  refine congrArg Host.Outcome.next ((State.clockRow_clocked hclk _).trans (if_neg ?_))
  simp [hlink, hperst]

variable (hup : s.hostUp = true)
include hup

theorem exec_pfFlr {t : State} (ht : t = s.allTdiError) :
    exec .pfFlr s = .next (({ t with host := { t.host with fns := [], ats := [], vfEn := false, numVfs := 0 } } : State).adminStop) := by
  subst ht
  exact congrArg Host.Outcome.next (if_neg (by simp [hup]))

theorem exec_vfFlr {vf : Nat} (hvf : vf ≠ 0) (hfn : s.fnExists vf = true) (hrings : s.ringLines (vf - 1) = []) {t : State}
    (ht : t = if (s.inst? (vf - 1)).isSome then s.resetWhole (vf - 1) else s) :
    exec (.vfFlr vf) s = .next { t with host := { t.host with
      fns := t.host.fns.filter (fun f => f.fn != vf), ats := t.host.ats.filter (fun a => a.inst + 1 != vf) } } := by
  refine congrArg Host.Outcome.next ((if_neg (by simp [hup, hvf, hfn])).trans ?_)
  by_cases hi : (s.inst? (vf - 1)).isSome = true
  · rw [ht.trans (if_pos hi)]
    exact (if_pos hi).trans (State.withRings_of_near hrings _)
  · rw [ht.trans (if_neg hi)]
    exact if_neg hi

end

/-! ## IDE (13 R319) -/

section
variable {s : State} {n : Nat}

theorem exec_ideKm_unsecured (h : s.host.doe ≠ .secured) (refresh : Bool) : exec (.ideKm n refresh) s = .next s :=
  congrArg Host.Outcome.next (if_pos (by simp [h]))

section
variable (hup : s.hostUp = true) (hn : n < 65) (hdoe : s.host.doe = .secured)
include hup hn hdoe

theorem exec_ideKm_program : exec (.ideKm n false) s = .next (({ s with host := { s.host with
    keys := insertNat s.host.keys n, ide := s.host.ide.set n .secure } } : State).emit (.ideReady n)) :=
  congrArg Host.Outcome.next (if_neg (by simp [hup, hdoe, ideStreams, Nat.not_le.mpr hn]))

theorem exec_ideKm_refresh (hkey : s.host.keys.contains n = true) : exec (.ideKm n true) s = .next (s.emit (.ideReady n)) :=
  congrArg Host.Outcome.next ((if_neg (by simp [hup, hdoe, ideStreams, Nat.not_le.mpr hn])).trans (if_pos hkey))

end

theorem exec_ideIntegrityFailure (hlink : s.host.linkUp = true) (hclk : s.clocked = true) (hide : s.host.ide.getD n .insecure = .secure)
    {t : State} (ht : t = ({ s with host := { s.host with
      ide := s.host.ide.set n .insecure, keys := s.host.keys.erase n } } : State).error 0x0F 3 0x70 3) :
    exec (.ideIntegrityFailure n) s =
      .next (((t.insts.filter (fun i => i.tdiStream = n)).map (fun i => i.id)).foldl (fun t i => t.tdiError i) t) := by
  subst ht
  refine congrArg Host.Outcome.next ((State.clockRow_clocked hclk _).trans (if_neg ?_))
  rw [hlink, hide]
  decide

end

/-! ## TDISP (13 R320) -/

section
variable {s : State} {vf n : Nat} {i : Inst} (hup : s.hostUp = true) (hvf : vf ≠ 0) (hfn : s.fnExists vf = true)
  (hi : s.inst? (vf - 1) = some i)
include hup hvf hfn hi

/-- A request to the TDI of a VF that serves an instance is answered with the state that it leaves. -/
theorem State.tdiRow_reached (go : Inst → State) : s.tdiRow vf go = (go i).tdiAnswer vf := by
  simp [State.tdiRow, hup, hvf, hfn, hi]

theorem exec_tdiLock (h : i.tdi = .unlocked) (hlc : s.lc.st = 2#3) (hn : n < 65) : exec (.tdiLock vf n) s =
    .next ((s.updInst i.id (fun i => { i with tdi := .locked, tdiStream := n })).tdiAnswer vf) := by
  refine congrArg Host.Outcome.next ((State.tdiRow_reached hup hvf hfn hi _).trans (congrArg (State.tdiAnswer · vf) (if_pos ?_)))
  simp [h, hlc, ideStreams, hn]

/-- Outside `DEPLOYED` no TDI locks. -/
theorem exec_tdiLock_undeployed (hlc : s.lc.st ≠ 2#3) : exec (.tdiLock vf n) s = .next (s.tdiAnswer vf) := by
  refine congrArg Host.Outcome.next ((State.tdiRow_reached hup hvf hfn hi _).trans (congrArg (State.tdiAnswer · vf) (if_neg ?_)))
  simp [hlc]

theorem exec_tdiStart (h : i.tdi = .locked) :
    exec (.tdiStart vf) s = .next ((s.updInst i.id (fun i => { i with tdi := .run })).tdiAnswer vf) :=
  congrArg Host.Outcome.next ((State.tdiRow_reached hup hvf hfn hi _).trans (congrArg (State.tdiAnswer · vf) (if_pos h)))

theorem exec_tdiStart_notLocked (h : i.tdi ≠ .locked) : exec (.tdiStart vf) s = .next (s.tdiAnswer vf) :=
  congrArg Host.Outcome.next ((State.tdiRow_reached hup hvf hfn hi _).trans (congrArg (State.tdiAnswer · vf) (if_neg h)))

theorem exec_stopInterface (h : i.tdi ≠ .unlocked) (hrings : s.ringLines i.id = []) : exec (.stopInterface vf) s =
    .next (((s.resetWhole i.id).updInst i.id (fun i => { i with tdi := .unlocked, tdiStream := 0 })).tdiAnswer vf) :=
  congrArg Host.Outcome.next ((State.tdiRow_reached hup hvf hfn hi _).trans
    (congrArg (State.tdiAnswer · vf) ((if_neg h).trans (State.withRings_of_near hrings _))))

end

/-! ## SPDM (13 R321, 14 R346, 17 R399) -/

section
variable {s : State} {req : List Byte} {path : Nat}

/-- A path that is served answers a request outside a session, and its session takes the next state. -/
theorem exec_spdmRequest_plain (hserved : s.spdmUp path req = true) (hpath : path ≤ 1) : exec (.spdmRequest path req) s =
    .next ((({ s with freeSeq := s.freeSeq + 1 } : State).setSpdm (path = 0)
      ((s.spdmOf (path = 0)).next (req.getD 1 0).toNat false (Config.spdmAccepts (Config.freeBits s.freeSeq) req))).emit
        (.spdm path (s.spdmReply path (Config.freeBits s.freeSeq) req))) := by
  have h2 : path ≠ 2 := by omega
  have h3 : path ≠ 3 := by omega
  have hplain : ¬ 3 ≤ path := by omega
  show execSpdmRequest path req s = _
  simp [execSpdmRequest, hserved, h2, h3, hplain, State.free]

/-- A message within a session that is not there is discarded. -/
theorem exec_spdmRequest_noSession (hpath : 3 ≤ path) (hidle : s.spdmOf (path = 3) = .idle) : exec (.spdmRequest path req) s = .next s := by
  have h0 : path ≠ 0 := by omega
  have h2 : path ≠ 2 := by omega
  show execSpdmRequest path req s = _
  simp [execSpdmRequest, h0, h2, hpath, hidle]

theorem exec_spdmRequest_discovery (hserved : s.spdmUp 2 req = true) :
    exec (.spdmRequest 2 req) s = .next (s.emit (.spdm 2 (doeDiscovery (req.getD 0 0).toNat))) :=
  congrArg Host.Outcome.next ((if_neg (by simp [hserved])).trans (if_pos rfl))

/-- The DOE mailbox serves its paths for requests that fit in a data object. -/
theorem State.spdmUp_doe (hup : s.hostUp = true) (hlen : req.length ≤ 65536) (h1 : path ≠ 1) (h3 : path ≤ 3) : s.spdmUp path req = true := by
  have h4 : path ≠ 4 := by omega
  simp [State.spdmUp, h1, h3, h4, hup, hlen, doeMax]

theorem State.spdmUp_sideband (h : s.firmwareUp = true) : s.spdmUp 1 req = true := h

theorem State.spdmReply_versions {fresh : Nat} (hpath : path ≤ 1) (hcode : (req.getD 1 0).toNat = 0x84) :
    s.spdmReply path fresh req = spdmVersions :=
  if_pos (by simp only [hpath, hcode]; decide)

/-- A request of a served version, but for those about versions and algorithms, is answered as SPDM fixes it, from the live measurements. -/
theorem State.spdmReply_standard {fresh : Nat} (hver : req.getD 0 0 = 0x12#8 ∨ req.getD 0 0 = 0x13#8) (hv : (req.getD 1 0).toNat ≠ 0x84)
    (ha : (req.getD 1 0).toNat ≠ 0xE3) : s.spdmReply path fresh req = Config.spdmAnswer path fresh req s.measurements := by
  refine (if_neg ?_).trans ((if_neg ?_).trans (if_neg ?_))
  · simp only [hv, decide_false, Bool.and_false, Bool.false_eq_true, not_false_iff]
  · rcases hver with h | h <;> rw [h] <;> decide
  · simp only [ha, decide_false, Bool.and_false, Bool.false_eq_true, not_false_iff]

end

/-- A session's states in order: `KEY_EXCHANGE`, `FINISH` within it, and `END_SESSION`. -/
theorem Spdm.next_lifecycle (a : Bool) : Spdm.idle.next 0xE4 false true = .handshake ∧ Spdm.handshake.next 0xE5 true true = .secured ∧
    Spdm.secured.next 0xEC true a = .idle := by
  cases a <;> decide

/-- `GET_VERSION` ends a session. -/
theorem Spdm.next_getVersion (now : Spdm) (a : Bool) : now.next 0x84 false a = .idle := by
  cases now <;> cases a <;> rfl

/-- Settles O55: each row past the conditions of its clause; SPDM by what its path serves and answers. -/
theorem linkResetAndSecurityRules : Obligations.LinkResetAndSecurityRules := by
  unfold Obligations.LinkResetAndSecurityRules
  refine ⟨fun s hlink hperst hclk => ⟨_, _, rfl, rfl, exec_hotReset hlink hperst hclk rfl rfl⟩, fun s hup => ⟨_, rfl, exec_pfFlr hup rfl⟩,
    fun s vf hup hvf hfn hrings => ⟨_, rfl, exec_vfFlr hup hvf hfn hrings rfl⟩,
    fun s n hup hn hdoe => ⟨exec_ideKm_program hup hn hdoe, exec_ideKm_refresh hup hn hdoe⟩, fun s n f h => exec_ideKm_unsecured h f,
    fun s n hlink hclk hide => ⟨_, rfl, exec_ideIntegrityFailure hlink hclk hide rfl⟩, ?tdi, ?spdm, fun now a => ?sessions⟩
  case tdi =>
    intro s vf n i hup hvf hfn hi
    exact ⟨exec_tdiLock hup hvf hfn hi, exec_tdiLock_undeployed hup hvf hfn hi, exec_tdiStart hup hvf hfn hi,
      exec_tdiStart_notLocked hup hvf hfn hi, exec_stopInterface hup hvf hfn hi⟩
  case spdm =>
    intro s req fresh code accepted
    refine ⟨fun hfw => ⟨?side, ?sideIdle⟩, fun hup hlen => ⟨?doe, ?doeIdle, ?discovery⟩, fun path hpath => ⟨?versions, ?standard⟩⟩
    case side => exact exec_spdmRequest_plain (State.spdmUp_sideband hfw) (by decide)
    case sideIdle => exact fun hidle => exec_spdmRequest_noSession (by decide) hidle
    case doe => exact exec_spdmRequest_plain (State.spdmUp_doe hup hlen (by decide) (by decide)) (by decide)
    case doeIdle => exact fun hidle => exec_spdmRequest_noSession (by decide) hidle
    case discovery => exact exec_spdmRequest_discovery (State.spdmUp_doe hup hlen (by decide) (by decide))
    case versions => exact State.spdmReply_versions hpath
    case standard => exact State.spdmReply_standard
  case sessions =>
    obtain ⟨hexchange, hfinish, hend⟩ := Spdm.next_lifecycle a
    exact ⟨hexchange, hfinish, hend, Spdm.next_getVersion now a⟩

end Sys2Proof.Machine
end

section
/-! PROOF. A step: the command at the front of the queue, or one cycle of `SYS_REFCLK` with what it makes of every die's clock. -/
namespace Sys2Proof.Machine

/-! ## The clock of a die (15 R348, R351) -/

section
variable (c : DieClk) (skip n : Nat)

/-- One cycle as the divider makes it: in the last `SKIP` of 64 places it does not exist for the cores. -/
def DieClk.next : DieClk := { c with pos := (c.pos + 1) % 64, cycles := if c.pos < 64 - skip then c.cycles + 1 else c.cycles }

theorem DieClk.advance_succ : c.advance skip (n + 1) = (c.next skip).advance skip n := rfl

theorem DieClk.next_cycles : c.cycles ≤ (c.next skip).cycles ∧ (c.next skip).cycles ≤ c.cycles + 1 := by
  unfold DieClk.next
  dsimp only
  split_ifs <;> omega

theorem DieClk.advance_cycles : c.cycles ≤ (c.advance skip n).cycles ∧ (c.advance skip n).cycles ≤ c.cycles + n := by
  induction n generalizing c with
  | zero => exact ⟨le_rfl, le_rfl⟩
  | succ n ih =>
    rw [DieClk.advance_succ]
    have hone := c.next_cycles skip
    have hrest := ih (c.next skip)
    omega

/-- Without `SKIP` every cycle counts. -/
theorem DieClk.advance_cycles_unskipped (hpos : c.pos < 64) : (c.advance 0 n).cycles = c.cycles + n := by
  induction n generalizing c with
  | zero => rfl
  | succ n ih =>
    have hone : (c.next 0).cycles = c.cycles + 1 := if_pos hpos
    rw [DieClk.advance_succ, ih _ (Nat.mod_lt _ (by decide)), hone]
    omega

theorem DieClk.tick_phase {div : Nat} (h : 64 ≤ div) : (c.tick div skip).phase = (c.phase + 1152) % div := by
  rw [DieClk.tick, max_eq_right h]

theorem DieClk.tick_cycles {div : Nat} (h : 64 ≤ div) : (c.tick div skip).cycles = (c.advance skip ((c.phase + 1152) / div)).cycles := by
  rw [DieClk.tick, max_eq_right h]

end

/-! ## One cycle of `SYS_REFCLK` (15 R348, R349, R352, R365) -/

section
variable (s : State)

/-- The clock of a die that is not held goes on as its setting divides it. -/
def State.tickDie (p : DieClk × Nat) : DieClk :=
  if s.rs.dieHeld.getLsbD p.2 then p.1 else p.1.tick (s.dieSetting p.2).1 (s.dieSetting p.2).2

/-- Every die's clock goes on. -/
def State.tickDies : State := { s with clk := { s.clk with dies := s.clk.dies.zipIdx.map s.tickDie } }

/-- 10 ns pass. -/
def State.later : State := { s with time := s.time + 10 }

variable {s}

theorem State.tick_stopped (h : s.clk.stopped = true ∨ s.pw.tripped = true) : s.tick = s.later := by
  have hstands : (s.clk.stopped || s.pw.tripped) = true := Bool.or_eq_true_iff.mpr h
  exact if_pos hstands

section
variable (hclk : s.clk.stopped = false) (htrip : s.pw.tripped = false)
include hclk htrip

theorem State.tick_runs : s.tick = (match s.pw.rise with
    | some (n, due) => if due ≤ s.time + 10 then s.later.setLevel n else s.later
    | none => s.later).tickDies := by
  have hruns : ¬ (s.clk.stopped || s.pw.tripped) = true := by rw [hclk, htrip]; decide
  exact if_neg hruns

theorem State.tick_risen {n due : Nat} (hrise : s.pw.rise = some (n, due)) (hdue : due ≤ s.time + 10) :
    s.tick = (s.later.setLevel n).tickDies := by
  rw [State.tick_runs hclk htrip, hrise]
  exact congrArg State.tickDies (if_pos hdue)

theorem State.tick_steady (hearly : ∀ n due, s.pw.rise = some (n, due) → s.time + 10 < due) : s.tick = s.later.tickDies := by
  rw [State.tick_runs hclk htrip]
  cases hrise : s.pw.rise with
  | none => rfl
  | some r => exact congrArg State.tickDies (if_neg (Nat.not_le.mpr (hearly r.1 r.2 hrise)))

end

/-- A cycle changes only the time, the clocks and the setting. -/
theorem State.tick_frame : s.tick = { s with time := s.time + 10, clk := s.tick.clk, pw := s.tick.pw } := by
  by_cases hstands : s.clk.stopped = true ∨ s.pw.tripped = true
  · rw [State.tick_stopped hstands]
    rfl
  · rw [not_or, Bool.not_eq_true, Bool.not_eq_true] at hstands
    obtain ⟨hclk, htrip⟩ := hstands
    by_cases hdue : ∃ n due, s.pw.rise = some (n, due) ∧ due ≤ s.time + 10
    · obtain ⟨n, due, hrise, hdue⟩ := hdue
      rw [State.tick_risen hclk htrip hrise hdue]
      rfl
    · rw [State.tick_steady hclk htrip fun n due hrise => Nat.lt_of_not_le fun h => hdue ⟨n, due, hrise, h⟩]
      rfl

theorem State.tickDies_getD {d : Nat} (hd : d < s.clk.dies.length) :
    s.tickDies.clk.dies.getD d DieClk.reset = s.tickDie (s.dieClk d, d) := by
  simp [State.tickDies, State.dieClk, hd]

/-- A die that is held stands. -/
theorem State.tickDie_held {c : DieClk} {d : Nat} (h : s.rs.dieHeld.getLsbD d = true) : s.tickDie (c, d) = c := if_pos h

theorem State.tickDie_runs {c : DieClk} {d : Nat} (h : s.rs.dieHeld.getLsbD d = false) :
    s.tickDie (c, d) = c.tick (s.dieSetting d).1 (s.dieSetting d).2 := if_neg (by simp [h])

end

/-- Settles O1: a step is `exec` on the rest, or `State.tick`, by whether the clocks run and a setting is due, die by die. -/
theorem stepRunsFront : Obligations.StepRunsFront := by
  unfold Obligations.StepRunsFront
  refine ⟨fun c rest s h => by simp only [step, h], fun s hempty => ⟨s.tick.clk, s.tick.pw, ?_, fun hstands => ?_, fun hclk htrip => ⟨?risen, ?steady⟩⟩⟩
  · have hstep : step s = .next s.tick := by
      simp only [step, hempty]
      rfl
    exact hstep.trans (congrArg _ State.tick_frame)
  · rw [State.tick_stopped hstands]
    exact ⟨rfl, rfl⟩
  case risen =>
    intro n due hrise hdue
    rw [State.tick_risen hclk htrip hrise hdue]
    rfl
  case steady =>
    intro hearly
    rw [State.tick_steady hclk htrip hearly]
    refine ⟨rfl, rfl, by simp [State.tickDies, State.later], fun d hd => ?_⟩
    have hdie : s.later.tickDies.clk.dies.getD d DieClk.reset = s.later.tickDie (s.dieClk d, d) := State.tickDies_getD hd
    refine ⟨fun hheld => hdie.trans (State.tickDie_held hheld), ?_⟩
    intro hfree D skip n x y hset hD hx hy hn
    have hy' : y = x.tick D skip := by
      have hruns := State.tickDie_runs (s := s.later) (c := s.dieClk d) hfree
      rw [hdie, hruns, show s.later.dieSetting d = (D, skip) from hset, hx] at hy
      exact hy.symm
    subst hy' hn
    obtain ⟨hlow, hhigh⟩ := x.advance_cycles skip ((x.phase + 1152) / D)
    rw [x.tick_cycles skip hD]
    refine ⟨x.tick_phase skip hD, hlow, hhigh, ?_⟩
    rintro rfl hpos
    exact x.advance_cycles_unskipped _ hpos

end Sys2Proof.Machine
end

section
/-! PROOF. The manager's commands on cores and on the cap: `CORE_FENCE` and `POWER_SET_CAP`. -/
namespace Sys2Proof.Machine
open Sys2Proof.Claims

section
variable {s : State} {cid op : Nat} {c : Cmd}

/-- A begun command of which a field fails ends with the field's offset. -/
theorem State.mgrRow_of_fail (hb : mgrBegun s cid op c) {checks : Cmd → List (Nat × Bool)} {o : Nat} (hfail : firstFail (checks c) = some o)
    (go : Cmd → State) : s.mgrRow cid op (fun c => s.checked c (checks c) (go c)) = s.doneCmd c.cid .invalidParam o := by
  rw [State.mgrRow_begun hb, State.checked, hfail]
  rfl

theorem State.cid_of_mgrBegun (hb : mgrBegun s cid op c) : c.cid = cid := State.cid_of_cmd? (State.begun?_eq_some.mp hb.1).1

/-! ## `CORE_FENCE` (16 R377) -/

section
variable (hb : mgrBegun s cid 0x90 c) (hcore : c.byte 16 < 64) (hzero : c.zero 17 64 = true)
include hb hcore hzero

theorem exec_coreFence : exec (.coreFence cid) s = .next (if s.coreFenced (c.byte 16) then s.doneCmd cid .success 0
    else if !s.coreEnabled (c.byte 16) then s.doneCmd cid .notPermitted 0
    else if s.configBusy then s.doneCmd cid .configPending 0
    else (s.fenceCore (c.byte 16) 5).doneCmd cid .success 0) :=
  congrArg Host.Outcome.next (State.mgrRow_of_pass hb (by simp [hcore, hzero]) _)

theorem exec_coreFence_fenced (hf : s.coreFenced (c.byte 16) = true) : exec (.coreFence cid) s = .next (s.doneCmd cid .success 0) := by
  rw [exec_coreFence hb hcore hzero, if_pos hf]

theorem exec_coreFence_disabled (hf : s.coreFenced (c.byte 16) = false) (he : s.coreEnabled (c.byte 16) = false) :
    exec (.coreFence cid) s = .next (s.doneCmd cid .notPermitted 0) := by
  rw [exec_coreFence hb hcore hzero, if_neg (by simp [hf]), if_pos (by simp [he])]

theorem exec_coreFence_enabled (hf : s.coreFenced (c.byte 16) = false) (he : s.coreEnabled (c.byte 16) = true) (ha : s.cf.applying = none) :
    exec (.coreFence cid) s = .next ((s.fenceCore (c.byte 16) 5).doneCmd cid .success 0) := by
  rw [exec_coreFence hb hcore hzero, if_neg (by simp [hf]), if_neg (by simp [he]), if_neg (by simp [State.configBusy, ha])]

end

theorem State.fenceCore_fenced {n : Nat} (h : s.coreFenced n = true) (cause : Nat) : s.fenceCore n cause = s := if_pos (by simp [h])

/-! ## `POWER_SET_CAP` (15 R355) -/

/-- A cap that the module takes waits for the next control period, with the command that brought it. -/
theorem exec_powerSetCap {w : Nat} {det : Bool} (hb : mgrBegun s cid 0x98 c) (hw : c.field 16 2 = w) (hlow : 1500 ≤ w) (hhigh : w ≤ 4000)
    (hmode : c.byte 18 = det.toNat) (hdet : det = true → w = 4000) (hzero : c.zero 19 64 = true) :
    exec (.powerSetCap cid) s = .next (({ s with pw := { s.pw with newCap := some (w, det, cid) } } : State).activate cid) := by
  subst hw
  have hbit : bit (c.byte 18) 0 = det := by
    rw [hmode]
    cases det <;> rfl
  have hfield : (decide (c.byte 18 ≤ 1) && (!det || decide (c.field 16 2 = 4000))) = true := by
    rw [hmode]
    cases det
    · rfl
    · simp [hdet rfl]
  refine congrArg Host.Outcome.next ((State.mgrRow_of_pass hb ?_ _).trans ?_)
  · simp [firstFail, hlow, hhigh, hbit, hfield, hzero]
  · simp only [hbit]

theorem exec_powerSetCap_outside (hb : mgrBegun s cid 0x98 c) (h : c.field 16 2 < 1500 ∨ 4000 < c.field 16 2) :
    exec (.powerSetCap cid) s = .next (s.doneCmd c.cid .invalidParam 16) := by
  refine congrArg Host.Outcome.next (State.mgrRow_of_fail hb ?_ _)
  have hout : (decide (1500 ≤ c.field 16 2) && decide (c.field 16 2 ≤ 4000)) = false := by
    rw [Bool.and_eq_false_iff, decide_eq_false_iff_not, decide_eq_false_iff_not]
    omega
  rw [hout, firstFail_cons_false]

/-- A command that goes on at its engine is active. -/
theorem State.cmd?_activate (hc : s.cmd? cid = some c) : (s.activate cid).cmd? cid = some { c with phase := .active } := by
  rw [State.activate, State.cmd?_updCmd _ _ (by exact fun _ => rfl), hc, Option.map_some]

end

/-- Settles O38: each command past its fields, by the core's state and by the cap. -/
theorem fenceAndCapRules : Obligations.FenceAndCapRules := by
  unfold Obligations.FenceAndCapRules
  refine ⟨⟨fun s cid c hb hcore hzero => ⟨?fenced, ?enabled, ?disabled⟩, fun s n cause h => State.fenceCore_fenced h cause⟩,
    fun s cid c hb => ⟨?cap, exec_powerSetCap_outside hb⟩⟩
  case fenced => exact exec_coreFence_fenced hb hcore hzero
  case enabled => exact exec_coreFence_enabled hb hcore hzero
  case disabled => exact exec_coreFence_disabled hb hcore hzero
  case cap =>
    intro hlow hhigh hmode hzero
    have hdet : c.byte 18 = (c.byte 18 == 1).toNat ∧ ((c.byte 18 == 1) = true → c.field 16 2 = 4000) := by
      rcases hmode with h | ⟨h, hfull⟩
      · simp [h]
      · simp [h, hfull]
    have hc : s.cmd? cid = some c := (State.begun?_eq_some.mp hb.1).1
    exact ⟨_, exec_powerSetCap hb rfl hlow hhigh hdet.1 hdet.2 hzero, rfl, rfl, rfl, State.cmd?_activate hc⟩

end Sys2Proof.Machine
end

section
/-! PROOF. The life cycle: its transitions, `LIFECYCLE_ADVANCE` by what its authorisation is worth, and the record that it leaves. -/
namespace Sys2Proof.Machine
open Sys2Proof.Claims

/-! ## The transitions (14 R339, R342) -/

theorem lcKey_eq_some_iff {a b k : Nat} : lcKey a b = some k ↔
    (a = 0 ∧ b = 1 ∧ k = 0) ∨ (a = 1 ∧ b = 2 ∧ k = 1) ∨ (a = 2 ∧ b = 3 ∧ k = 1) ∨ (a ≤ 1 ∧ b = 4 ∧ k = 0) ∨
      ((a = 2 ∨ a = 3) ∧ b = 4 ∧ k = 1) := by
  simp only [lcKey, Bool.and_eq_true, Bool.or_eq_true, decide_eq_true_eq]
  split_ifs <;> simp only [Option.some.injEq, false_iff] <;> omega

/-- The record of a transition: `LC_STATE` always, and of the states that have one their fuse, with the owner's key hash in the first. -/
theorem State.advance_record (s : State) (b h : Nat) : (s.advance b h).lc.st = BitVec.ofNat 3 b ∧
    (s.advance b h).fuse.ownerKeyHash = (if b = 1 then BitVec.ofNat 384 h else s.fuse.ownerKeyHash) ∧
    (s.advance b h).fuse.lcFuse = s.fuse.lcFuse ||| (if b = 1 then 1#3 else if b = 2 then 2#3 else if b = 4 then 4#3 else 0#3) :=
  ⟨rfl, rfl, rfl⟩

/-! ## `LIFECYCLE_ADVANCE` (14 R341, R342) -/

section
variable {s : State} {cid : Nat} {c : Cmd} (hb : mgrBegun s cid 0xA0 c)
include hb

theorem exec_lifecycleAdvance_noState (h : 4 < c.byte 16) : exec (.lifecycleAdvance cid) s = .next (s.doneCmd cid .invalidParam 16) := by
  have hfail : decide (c.byte 16 ≤ 4) = false := decide_eq_false (Nat.not_le.mpr h)
  have hc : c.cid = cid := State.cid_of_mgrBegun hb
  refine congrArg Host.Outcome.next ((State.mgrRow_begun hb _).trans ?_)
  simp only [State.checked, hfail, firstFail_cons_false, State.badParam, hc]

section
variable (hpass : firstFail [(16, decide (c.byte 16 ≤ 4)), (17, c.zero 17 24), (24, mgrAddr (c.field 24 8)), (32, decide (c.field 32 4 = 288)),
    (36, c.zero 36 64)] = none) (hu : mgrUsable s true (c.field 24 8) 288)
  {t : State} (ht : s.useRange c.cid (c.field 24 8) 288 = t) {bs : List Byte} (hbs : t.homeBytes (c.field 24 8) 288 = bs)
include hpass hu ht hbs

theorem exec_lifecycleAdvance_illegal (hlegal : authLegal bs = false) :
    exec (.lifecycleAdvance cid) s = .next (t.doneCmd cid .invalidParam 0xFF) := by
  refine congrArg Host.Outcome.next ((State.mgrRow_of_usable hb hpass hu _).trans ?_)
  simp [ht, hbs, hlegal, State.badParam]

theorem exec_lifecycleAdvance_noTransition (hlegal : authLegal bs = true) (hkey : lcKey t.lc.st.toNat (c.byte 16) = none) :
    exec (.lifecycleAdvance cid) s = .next (t.doneCmd cid .notPermitted 0) := by
  refine congrArg Host.Outcome.next ((State.mgrRow_of_usable hb hpass hu _).trans ?_)
  simp [ht, hbs, hlegal, hkey]

theorem exec_lifecycleAdvance_transition {key : Nat} (hlegal : authLegal bs = true) (hkey : lcKey t.lc.st.toNat (c.byte 16) = some key)
    (ha : t.cf.applying = none) : exec (.lifecycleAdvance cid) s = .next (if t.authOk (c.byte 16) key bs = true
      then (((t.countReset 15).destroyAll.wipeMemories.advance (c.byte 16) (fld bs 0x30 48)).measure.drainEvents).doneCmd cid .success 0
      else t.doneCmd cid .notPermitted 0) := by
  refine congrArg Host.Outcome.next ((State.mgrRow_of_usable hb hpass hu _).trans ?_)
  cases hok : t.authOk (c.byte 16) key bs <;> simp [ht, hbs, hlegal, hkey, hok, State.configBusy, ha]

end
end

/-! ## The record of a `LIFECYCLE_ADVANCE` (09 R209, 14 R341) -/

/-- A `LIFECYCLE_ADVANCE` is forgotten, and the nonce is renewed. -/
def State.forgetAdvance (s : State) (cid : Nat) : State := ({ s with cmds := s.cmds.filter (fun x => x.cid != cid) } : State).newNonce

section
variable {s : State} {cid : Nat} {st : Byte} {detail : Word64} {c : Cmd} (hc : s.cmd? cid = some c) (hq : c.q = .admin)
  (hop : c.opcode = 0xA0) (hp : c.phase = .ended st detail)
include hc hq hop hp

theorem State.writeEnd_advance_stopped (h : s.mg.queue.st = .ringFault ∨ s.mg.queue.st = .disabled) :
    s.writeEnd cid = s.forgetAdvance cid := by
  have hqueue : (s.forgetAdvance cid).queue? .admin = some s.mg.queue := rfl
  unfold State.forgetAdvance at hqueue ⊢
  simp [State.writeEnd, hc, hp, hq, hop, hqueue, h]

section
variable (hfault : s.mg.queue.st ≠ .ringFault) (hdown : s.mg.queue.st ≠ .disabled)
include hfault hdown

theorem State.writeEnd_advance_recorded (h : bit c.flags 1 = true ∨ bit c.flags 2 = true ∨ st ≠ 0) : ∃ r : Record, s.writeEnd cid =
    ((((s.forgetAdvance cid).updQueue .admin (fun x => { x with capped := false, derated := false, reread := false })).pushRecord
      .admin r).drainEvents).adminIdle ∧ r.status = st ∧ r.detail = detail ∧ r.opcode = 0xA0#8 := by
  have hqueue : (s.forgetAdvance cid).queue? .admin = some s.mg.queue := rfl
  unfold State.forgetAdvance at hqueue ⊢
  have hneed : (bit c.flags 1 || bit c.flags 2 || st != 0 || recordsAlways c.opcode) = true := by
    simp only [Bool.or_eq_true, bne_iff_ne]
    tauto
  simp only [State.writeEnd, hc, hp, hq, hop, decide_true, Bool.and_self, if_true, hqueue, hfault, hdown, decide_false, Bool.or_self,
    Bool.false_eq_true, if_false, hop ▸ hneed]
  exact ⟨_, rfl, rfl, rfl, rfl⟩

theorem State.writeEnd_advance_unrecorded (h1 : bit c.flags 1 = false) (h2 : bit c.flags 2 = false) (h0 : st = 0) : s.writeEnd cid =
    ((s.forgetAdvance cid).updQueue .admin
      (fun x => { x with capped := c.capped || s.mg.queue.capped, derated := c.derated || s.mg.queue.derated })).adminIdle := by
  have hqueue : (s.forgetAdvance cid).queue? .admin = some s.mg.queue := rfl
  unfold State.forgetAdvance at hqueue ⊢
  simp [State.writeEnd, hc, hp, hq, hop, hqueue, hfault, hdown, h1, h2, h0, recordsAlways]

end
end

/-! ## A status that is no byte -/

/-- A `LIFECYCLE_ADVANCE` of which no record is asked and that has ended with status 0, the byte that the number 256 gives. -/
def silentAdvance : Cmd :=
  { cid := 9, q := .admin, pkt := [0xA0], start := 0, since := 0, wdMs := 2000, capped := false, derated := false, determ := false
    peerHeld := false, phase := .ended 0 0, ending := none, heldFrom := none, cores := [], took := [], left := [], stalled := [], mark := 0
    herdRan := false, todo := [], out := [], parts := [], used := 0, hot := 0, unmeasured := 0 }

/-- A module whose admin queue runs, with a ring that is full, so that a record waits in the queue. -/
def fullAdmin : State :=
  { State.reset with
    cmds := [silentAdvance], mg := { Mg.reset with en := true, queue := { Queue.disabled with st := .running, cqHead := 1 } } }

/-- Refutes O39: its clause on the record counts `st ≠ 0` of a number, of which the phase holds the low byte. A command that has ended with the
byte 0 has ended "with 256" too, and then that clause has it leave a record, where it leaves none. No hypothesis bounds the number
(`State.writeEnd_advance_stopped`, `State.writeEnd_advance_recorded` and `State.writeEnd_advance_unrecorded` are the three clauses of a status
that is a byte; `lcKey_eq_some_iff`, `State.advance_record` and the `exec_lifecycleAdvance_` lemmas are the others, which hold). -/
theorem not_lifecycleTransitions : ¬ Obligations.LifecycleTransitions := by
  rintro ⟨-, hrecord, -⟩
  obtain ⟨-, hruns⟩ := hrecord fullAdmin 9 256 0 silentAdvance fullAdmin.mg.queue rfl rfl (by decide) rfl rfl
  obtain ⟨hneeds, -⟩ := hruns (by decide) (by decide)
  obtain ⟨r, hleaves, -⟩ := hneeds (.inr (.inr (by decide)))
  have hheld : [] = [r] := congrArg (fun s : State => s.mg.queue.held) hleaves
  exact List.cons_ne_nil _ _ hheld.symm

end Sys2Proof.Machine
end

section
/-! PROOF. Faults inside the module: router stops, links out of service, flits lost on their way, a core's checkers. -/
namespace Sys2Proof.Machine

/-! ## Router stops (16 R380) -/

section
variable {s u : State} {r k : Nat} (hup : s.firmwareUp = true) (hr : r < 16) (hk : k < 8) (hnew : s.stopFailed r k = false)
  (hopen : s.regionHold r = false)
  (hu : u = (({ s with health := { s.health with stopFail := s.health.stopFail ||| (1 <<< (8 * r + k)) } } : State).losePart
    (.stop r)).error 0x0B 2 (0x40 + r) k)
include hup hr hk hnew hopen hu

theorem exec_routerStopFailure_core (h : k < 4) : exec (.routerStopFailure r k) s = .next (u.fenceCore (4 * r + k) 3) := by
  show execRouterStopFailure r k s = _
  rw [execRouterStopFailure, if_neg (by simp [hup, hr, hk, hnew, hopen])]
  dsimp only at hu ⊢
  rw [← hu, if_pos h]

theorem exec_routerStopFailure_block (h : 4 ≤ k) {t : State} (ht : t = (u.closeRegions [r]).abandonExits [.region r]) :
    exec (.routerStopFailure r k) s =
      .next (if u.blockCut r k = true then { t with rs := { t.rs with stopHeld := t.rs.stopHeld ||| (1 <<< r) } } else u) := by
  show execRouterStopFailure r k s = _
  rw [execRouterStopFailure, if_neg (by simp [hup, hr, hk, hnew, hopen])]
  dsimp only at hu ⊢
  rw [← hu, if_neg (Nat.not_lt.mpr h), ← ht]

end

/-! ## Links (16 R381) -/

section
variable {s t : State} {l : Nat} (hup : s.firmwareUp = true)
include hup

theorem exec_linkOutOfService_bridge (hl : l < 12) (hin : s.health.bridgeOos.getLsbD l = false) (ht : t = s.losePart (.bridge l)) :
    exec (.linkOutOfService l) s = .next
      (({ t with health := { t.health with bridgeOos := t.health.bridgeOos ||| (1 <<< l) } } : State).error 0x0C 2 (0x80 + l) 0) := by
  subst ht
  exact congrArg Host.Outcome.next ((if_neg (by simp [hup])).trans ((if_pos hl).trans (if_neg (by simp [hin]))))

theorem exec_linkOutOfService_bridgeOut (hl : l < 12) (hout : s.health.bridgeOos.getLsbD l = true) :
    exec (.linkOutOfService l) s = .next s :=
  congrArg Host.Outcome.next ((if_neg (by simp [hup])).trans ((if_pos hl).trans (if_pos hout)))

theorem exec_linkOutOfService_region (hlow : 12 ≤ l) (hl : l < 20) (hin : s.health.rlinkOos.getLsbD (l - 12) = false)
    (ht : t = s.losePart (.region (l - 12))) : exec (.linkOutOfService l) s = .next
      (({ t with health := { t.health with rlinkOos := t.health.rlinkOos ||| (1 <<< (l - 12)) } } : State).error 0x0C 2 (0x58 + (l - 12)) 0) := by
  subst ht
  exact congrArg Host.Outcome.next
    ((if_neg (by simp [hup])).trans ((if_neg (Nat.not_lt.mpr hlow)).trans ((if_pos hl).trans (if_neg (by simp [hin])))))

end

/-! ## Flits lost on their way (16 R380) -/

section
variable {s u : State} {rid : Nat}

theorem exec_internalFlitLoss_safe (h : s.health.atRisk.any (fun p => p.1 = rid && decide (s.time ≤ p.2)) = false) :
    exec (.internalFlitLoss rid) s = .next s :=
  congrArg Host.Outcome.next ((congrArg s.clockRow (if_pos (by rw [h]; rfl))).trans State.clockRow_self)

section
variable (hclk : s.clocked = true) (h : s.health.atRisk.any (fun p => p.1 = rid && decide (s.time ≤ p.2)) = true)
  (hu : u = { s with health := { s.health with atRisk := s.health.atRisk.filter (fun p => p.1 != rid) } })
include hclk h hu

theorem exec_internalFlitLoss_request {x : Req} (hx : s.reqOf rid = some x) :
    exec (.internalFlitLoss rid) s = .next (u.failReq x .addressFault) := by
  have hx' : u.reqOf rid = some x := by rw [hu]; exact hx
  refine congrArg Host.Outcome.next ((State.clockRow_clocked hclk _).trans ((if_neg (by rw [h]; decide)).trans ?_))
  rw [← hu]
  dsimp only
  rw [hx']

theorem exec_internalFlitLoss_command {c : Cmd} (hx : s.reqOf rid = none) (hc : s.cmd? rid = some c) (hp : c.phase = .active) :
    exec (.internalFlitLoss rid) s = .next (u.stopCmd rid .timeout (u.elapsedMs c)) := by
  have hx' : u.reqOf rid = none := by rw [hu]; exact hx
  have hc' : u.cmd? rid = some c := by rw [hu]; exact hc
  refine congrArg Host.Outcome.next ((State.clockRow_clocked hclk _).trans ((if_neg (by rw [h]; decide)).trans ?_))
  rw [← hu]
  dsimp only
  rw [hx', hc']
  exact if_pos hp

end
end

/-! ## A core's checkers (16 R376) -/

theorem exec_coreCheckerError {s : State} {n : Nat} (hup : s.firmwareUp = true) (hn : n < 64) :
    exec (.coreCheckerError n) s = .next (s.fenceCore n 2) :=
  congrArg Host.Outcome.next (if_pos (by simp [hup, hn]))

/-! ## The logic clocks are stopped (15 R365) -/

/-- A read of a herd that is at risk, numbered 5. -/
def lostRead : Req := herdReq 5 5 sharedRef (sharedHerd 0x40000000) .read .home 128 []

/-- A module that has tripped while `lostRead` was at risk. -/
def trippedAtRisk : State :=
  { State.reset with
    clk := { State.reset.clk with stopped := true }, pw := { Pw.reset with tripped := true }, reqs := [lostRead]
    health := { State.reset.health with atRisk := [(5, 0)] } }

/-- Refutes O51: while a trip has stopped the logic clocks no flit is lost, so that a request at risk stays, where the clause on lost flits has it
end; no hypothesis says that the clocks run (`exec_internalFlitLoss_request` and `exec_internalFlitLoss_command` are that clause where they
do; `exec_internalFlitLoss_safe`, the `exec_routerStopFailure_` and `exec_linkOutOfService_` lemmas and `exec_coreCheckerError` are the other
clauses, which hold). -/
theorem not_internalFaultRules : ¬ Obligations.InternalFaultRules := by
  rintro ⟨-, -, hlost, -⟩
  obtain ⟨hrisk, -⟩ := hlost trippedAtRisk 5
  obtain ⟨hends, -⟩ := hrisk (by decide)
  have claimed := hends lostRead rfl
  have reached : exec (.internalFlitLoss 5) trippedAtRisk = .next trippedAtRisk :=
    congrArg Host.Outcome.next (if_neg (by decide : ¬ trippedAtRisk.clocked = true))
  have heq := Host.Outcome.next.inj (reached.symm.trans claimed)
  exact absurd (congrArg (fun s : State => s.reqs.length) heq) (by decide +kernel)

end Sys2Proof.Machine
end

section
/-! PROOF. The sideband: I3C addresses, MCTP control, PLDM, the firmware update, the test access port, the debug console. -/
namespace Sys2Proof.Machine

/-! ## I3C and MCTP (17 R399, R400) -/

section
variable {s : State}

section
variable {b : Option (BitVec 7)} {a : BitVec 7}

theorem exec_entdaa_held (h : s.outOfCold = false) : exec (.entdaa b a) s = .next (s.emit .i3cNack) :=
  congrArg Host.Outcome.next (if_pos (by simp [State.sidebandUp, h]))

section
variable (h : s.outOfCold = true)
include h

/-- A target that has an address, or is offered one under another static address, takes none. -/
theorem exec_entdaa_declined (hno : s.side.dynAddr.isSome = true ∨ ∃ k, b = some k ∧ k.toNat ≠ 0x50 + s.pins.straps.toNat) :
    exec (.entdaa b a) s = .next s := by
  refine congrArg Host.Outcome.next ((if_neg (by simp [State.sidebandUp, h])).trans (if_pos ?_))
  rcases hno with haddr | ⟨k, rfl, hk⟩
  · rw [haddr, Bool.true_or]
  · simp [State.staticAddress, hk]

theorem exec_entdaa_taken (haddr : s.side.dynAddr = none) (hb : ∀ k, b = some k → k.toNat = 0x50 + s.pins.straps.toNat) :
    exec (.entdaa b a) s = .next (({ s with side := { s.side with dynAddr := some a } } : State).emit (.i3cAddress a.toNat)) := by
  refine congrArg Host.Outcome.next ((if_neg (by simp [State.sidebandUp, h])).trans (if_neg ?_))
  cases b with
  | none => simp [haddr]
  | some k => simp [haddr, State.staticAddress, hb k rfl]

end
end

section
variable {req : List Byte}

theorem State.mctpReply_types (hcode : req.getD 1 0 = 5#8) (hboot : s.rs.boot ≠ .imageFailed) :
    s.mctpReply req = [req.getD 0 0 &&& 0x7F#8, 5, 0, 4] ++ [0, 1, 5, 6] := by
  have htypes : s.mctpTypes = [0, 1, 5, 6] := if_neg hboot
  refine (if_pos hcode).trans ?_
  rw [htypes]
  rfl

theorem State.mctpReply_standard (hcode : req.getD 1 0 ≠ 5#8) : s.mctpReply req = Config.mctpAnswer s.side.eid req := if_neg hcode

/-- A request that gives an endpoint ID is Set Endpoint ID. -/
theorem code_of_eidOf {e : BitVec 8} (he : eidOf req = some e) : (req.getD 1 0).toNat = 1 := by
  unfold eidOf at he
  dsimp only at he
  split at he
  next h => simpa using (Bool.and_eq_true_iff.mp (Bool.and_eq_true_iff.mp (Bool.and_eq_true_iff.mp h).1).1).1
  next => cases he

section
variable (h : s.outOfCold = true)
include h

theorem exec_mctpControl_setsId {e : BitVec 8} (he : eidOf req = some e) : exec (.mctpControl req) s =
    .next (({ s with side := { s.side with eid := e } } : State).emit (.mctp (Config.mctpAnswer e req))) := by
  have hcode : req.getD 1 0 ≠ 5#8 := fun h5 => by
    have hone := code_of_eidOf he
    rw [h5] at hone
    exact absurd hone (by decide)
  refine congrArg Host.Outcome.next ((if_neg (by simp [State.sidebandUp, h])).trans ?_)
  simp only [he]
  rw [State.mctpReply_standard hcode]

theorem exec_mctpControl_keepsId (he : eidOf req = none) : exec (.mctpControl req) s = .next (s.emit (.mctp (s.mctpReply req))) := by
  refine congrArg Host.Outcome.next ((if_neg (by simp [State.sidebandUp, h])).trans ?_)
  simp only [he]

end

/-- A query of the message types gives no endpoint ID. -/
theorem eidOf_types (hcode : req.getD 1 0 = 5#8) : eidOf req = none := by
  cases he : eidOf req with
  | none => rfl
  | some e =>
    have hone := code_of_eidOf he
    rw [hcode] at hone
    exact absurd hone (by decide)

end

/-! ## PLDM (17 R401, R402) -/

section
variable (h : s.pldmUp = true)
include h

/-- A sensor whose value the state holds answers with it. -/
theorem exec_pldmGetSensor {id v : Nat} (hid : id ≤ 26) (hv : ∀ fresh, s.sensor id fresh = some v) :
    exec (.pldmGetSensor id) s = .next (s.emit (.pldmSensor id v)) := by
  have hheld : ¬ (decide (id = 27) || decide (id = 28)) = true := by
    rw [Bool.or_eq_true, decide_eq_true_eq, decide_eq_true_eq]
    omega
  refine congrArg Host.Outcome.next ((if_neg (by simp [h])).trans ?_)
  simp only [hv]
  rw [if_neg hheld]

theorem exec_pldmEventFetch : exec .pldmEventFetch s = .next (({ s with
    events := { s.events with side := [] }, pins := { s.pins with sbAlertN := true } } : State).emit (.pldmEvents s.events.side)) :=
  congrArg Host.Outcome.next (if_neg (by simp [h]))

theorem exec_pldmSetEffecter_cold : exec (.pldmSetEffecter 2) s = .next (s.storeGvar.enterCold 3 false) :=
  congrArg Host.Outcome.next ((if_neg (by simp [h])).trans (if_pos rfl))

theorem exec_pldmSetEffecter_warm (hw : s.rs.warm = false) :
    exec (.pldmSetEffecter 3) s = .next (((s.countReset 7).storeGvar).enterWarm 7) :=
  congrArg Host.Outcome.next ((if_neg (by simp [h])).trans ((if_neg (by decide)).trans ((if_pos rfl).trans (if_neg (by simp [hw])))))

end

theorem State.sensor_stack {k fresh : Nat} (hk : k < 16) : s.sensor (11 + k) fresh = some (s.stack k).tempC.toNat := by
  have hne1 : 11 + k ≠ 1 := by omega
  have hne2 : 11 + k ≠ 2 := by omega
  have hhigh : ¬ 11 + k ≤ 10 := by omega
  have hlast : 11 + k ≤ 26 := by omega
  simp [State.sensor, hne1, hne2, hhigh, hlast]

/-! ## The firmware update (14 R344, R345, 17 R402) -/

section
variable (h : s.updateUp = true)
include h

theorem exec_requestUpdate (image : List Byte) : exec (.requestUpdate image) s =
    .next ((s.stageImage image image.length).1.emit (.pldmStatus (s.stageImage image image.length).2.code)) :=
  congrArg Host.Outcome.next (if_neg (by simp [h]))

/-- While an admin command runs the activation waits. -/
theorem exec_activateFirmware_waits (hbusy : s.inFlight .admin ≠ []) :
    exec .activateFirmware s = .next { s with side := { s.side with activating := true } } := by
  have hbusy' : ({ s with side := { s.side with activating := true } } : State).inFlight .admin ≠ [] := hbusy
  exact congrArg Host.Outcome.next ((if_pos h).trans (if_neg (by simp [hbusy'])))

theorem exec_activateFirmware_now (hidle : s.inFlight .admin = []) {t : State} (ht : t = { s with side := { s.side with activating := false } }) :
    exec .activateFirmware s = .next t.sideActivate := by
  have hup : ({ s with side := { s.side with activating := true } } : State).updateUp = true := h
  have hidle' : ({ s with side := { s.side with activating := true } } : State).inFlight .admin = [] := hidle
  subst ht
  exact congrArg Host.Outcome.next ((if_pos h).trans (if_pos (by simp [hup, hidle'])))

end

theorem State.sideActivate_none (hnone : s.lc.heldType = 0#2) : s.sideActivate = s.emit (.pldmStatus Status.invalidParam.code) := if_pos hnone

theorem State.sideActivate_held (hheld : s.lc.heldType ≠ 0#2) (hboot : s.rs.boot ≠ .imageFailed) (hquiet : s.configBusy = false) :
    s.sideActivate = s.activateImage.1.drainEvents.emit (.pldmStatus (if s.activateImage.2 then 0 else Status.invalidParam.code)) :=
  (if_neg hheld).trans ((if_neg (by simp [hboot])).trans (if_neg (by simp [hquiet])))

/-! ## The test access port (17 R403) -/

section
variable (h : s.pins.v3p3sb = true)
include h

theorem exec_tapInstruction_idcode : exec (.tapInstruction .idcode) s =
    .next (({ s with side := { s.side with tap := .idcode } } : State).emit (.tapData 0x17C09E4B)) :=
  congrArg Host.Outcome.next ((if_neg (by simp [h])).trans (if_pos rfl))

/-- Of any other instruction the TAP loads what the state allows. -/
theorem exec_tapInstruction {op i : TapInstr} (hop : op ≠ .idcode) (hi : s.tapLoads op = i) :
    exec (.tapInstruction op) s = .next { s with side := { s.side with tap := i } } := by
  subst hi
  exact congrArg Host.Outcome.next ((if_neg (by simp [h])).trans (if_neg hop))

theorem exec_tapReset : exec .tapReset s = .next { s with side := { s.side with tap := .idcode } } :=
  congrArg Host.Outcome.next (if_neg (by simp [h]))

end

theorem State.tapLoads_debug (hst : s.lc.st = 2#3) : s.tapLoads .debug = .bypass := if_pos hst

theorem State.tapLoads_extest_free (hboot : s.rs.boot ≠ .cold) : s.tapLoads .extest = .bypass := if_neg (by simp [State.pinsHold, hboot])

theorem State.tapLoads_extest_held (hboot : s.rs.boot = .cold) (hperst : s.pins.perstN = false) : s.tapLoads .extest = .extest :=
  if_pos (by simp [State.pinsHold, hboot, hperst])

/-! ## The debug console (17 R404) -/

/-- In `DEPLOYED` there is no console. -/
theorem State.consoleOn_deployed (hst : s.lc.st = 2#3) : s.consoleOn = false := by simp [State.consoleOn, hst]

theorem State.consoleOn_up (hup : s.firmwareUp = true) (hst : s.lc.st ≠ 2#3) : s.consoleOn = true := by simp [State.consoleOn, hup, hst]

theorem State.dbgTx_off (h : s.consoleOn = false) : s.dbgTx = true := if_neg (by simp [h])

theorem State.uartReceive_off (h : s.consoleOn = false) (b : Byte) : s.uartReceive b = s := if_neg (by simp [h])

theorem State.uartReceive_on (h : s.consoleOn = true) (b : Byte) :
    s.uartReceive b = { s with side := { s.side with console := s.side.console ++ [b] } } := if_pos h

end

/-- Settles O56: each row past its conditions; sensors, activations, TAP and console by what the state lets them be. -/
theorem sidebandRules : Obligations.SidebandRules := by
  unfold Obligations.SidebandRules
  refine ⟨fun s b a => ⟨exec_entdaa_held, fun k hb h hk => exec_entdaa_declined h (.inr ⟨k, hb, hk⟩), exec_entdaa_taken,
    fun h haddr => exec_entdaa_declined h (.inl haddr)⟩, fun s req h => ⟨fun e => exec_mctpControl_setsId h, ?plain, ?types⟩,
    fun s k h => ⟨exec_pldmGetSensor h (by decide) fun _ => rfl, exec_pldmGetSensor h (by decide) fun _ => rfl, ?temps,
      exec_pldmEventFetch h, exec_pldmSetEffecter_cold h, exec_pldmSetEffecter_warm h⟩,
    fun s image h => ⟨exec_requestUpdate h image, exec_activateFirmware_waits h, fun hidle => ⟨_, rfl, ?nothing, ?held⟩⟩,
    fun s h => ⟨exec_tapInstruction_idcode h, exec_tapInstruction h (by decide) rfl, ?debug, ?free, ?pins, exec_tapReset h⟩,
    fun s b => ⟨?deployed, ?console⟩⟩
  case plain =>
    intro he hcode
    rw [exec_mctpControl_keepsId h he, State.mctpReply_standard hcode]
  case types =>
    intro hcode hboot
    rw [exec_mctpControl_keepsId h (eidOf_types hcode), State.mctpReply_types hcode hboot]
  case temps => exact fun hk => exec_pldmGetSensor h (by omega) fun _ => State.sensor_stack hk
  case nothing =>
    intro hnone
    exact (exec_activateFirmware_now h hidle rfl).trans (congrArg _ (State.sideActivate_none hnone))
  case held =>
    intro hheld hboot hquiet
    exact (exec_activateFirmware_now h hidle rfl).trans (congrArg _ (State.sideActivate_held hheld hboot hquiet))
  case debug => exact fun hst => exec_tapInstruction h (by decide) (State.tapLoads_debug hst)
  case free => exact fun hboot => exec_tapInstruction h (by decide) (State.tapLoads_extest_free hboot)
  case pins => exact fun hboot hperst => exec_tapInstruction h (by decide) (State.tapLoads_extest_held hboot hperst)
  case deployed =>
    intro hst
    have hoff := State.consoleOn_deployed hst
    exact ⟨State.dbgTx_off hoff, State.uartReceive_off hoff b⟩
  case console => exact fun hup hst => State.uartReceive_on (State.consoleOn_up hup hst) b

end Sys2Proof.Machine
end

section
/-! PROOF. Power-up, boot, and the resets of the whole module. -/
namespace Sys2Proof.Machine

section
variable {s : State}

/-! ## What `MODULE_COLD` leaves (14 R322, R328) -/

/-- What POR and `MODULE_COLD` leave of the memories, and what they keep; the counters say the cause. -/
structure State.Cleared (s t : State) (cause : Nat) : Prop where
  mem : t.mem = []
  back : t.back = []
  insts : t.insts = []
  cmds : t.cmds = []
  ready : t.rs.ready = 0
  counts : t.rs.counts = updAt s.rs.counts cause (fun n => satInc n 1)
  hostMem : t.hostMem = s.hostMem
  fuse : t.fuse = s.fuse
  flash : t.flash = s.flash
  pending : t.pending = s.pending

theorem State.afterCold_cleared (s : State) (cause : Nat) : s.Cleared ((s.countReset cause).afterCold.newNonce) cause :=
  ⟨rfl, rfl, rfl, rfl, rfl, rfl, rfl, rfl, rfl, rfl⟩

/-- `MODULE_COLD` is asserted where neither it nor POR is in force. -/
theorem State.enterCold_asserts {cause : Nat} (pll : Bool) (hpor : s.rs.boot ≠ .por) (hcold : s.rs.boot ≠ .cold) :
    s.enterCold cause pll = let t := (s.countReset cause).afterCold.newNonce
      { t with rs := { t.rs with last := BitVec.ofNat 4 cause, pllRelock := pll } } := by
  have hfree : ¬ (decide ((s.countReset cause).rs.boot = .por) || decide ((s.countReset cause).rs.boot = .cold)) = true := by
    simp [hpor, hcold]
  simp only [State.enterCold, if_neg hfree]

theorem State.enterCold_cleared {cause : Nat} (pll : Bool) (hpor : s.rs.boot ≠ .por) (hcold : s.rs.boot ≠ .cold) :
    s.Cleared (s.enterCold cause pll) cause ∧ (s.enterCold cause pll).rs.boot = .cold ∧
      (s.enterCold cause pll).rs.last = BitVec.ofNat 4 cause ∧ (s.enterCold cause pll).rs.pllRelock = pll := by
  rw [State.enterCold_asserts pll hpor hcold]
  obtain ⟨hmem, hback, hinsts, hcmds, hready, hcounts, hhost, hfuse, hflash, hpending⟩ := s.afterCold_cleared cause
  exact ⟨⟨hmem, hback, hinsts, hcmds, hready, hcounts, hhost, hfuse, hflash, hpending⟩, rfl, rfl, rfl⟩

/-! ## POR (14 R322, R323, 17 R394 to R398) -/

/-- The pins as POR leaves them: of a supply that failed the pin is low. -/
def porPins (p : Pins) : PorSource → Pins
  | .supply48 | .over62 => { p with v48 := false, modPwrgd := false, thermtripN := true }
  | .standby => { p with v3p3sb := false, modPwrgd := false, thermtripN := true }
  | .regulator => { p with modPwrgd := false, thermtripN := true }

/-- A module that POR takes over. -/
def State.afterPor (s : State) : State :=
  let t := (s.countReset 0).afterCold.newNonce
  { t with clk := { t.clk with pllLocked := false, stopped := false, restarts := 0 }, pw := { t.pw with tripped := false },
           rs := { t.rs with last := 0, boot := .por } }.gateTap

theorem exec_por (hpor : s.rs.boot ≠ .por) (src : PorSource) :
    exec (.por src) s = .next ({ s with pins := porPins s.pins src } : State).afterPor := by
  cases src <;> exact congrArg Host.Outcome.next (if_neg hpor)

theorem State.afterPor_cleared (s : State) : s.Cleared s.afterPor 0 ∧ s.afterPor.rs.boot = .por ∧ s.afterPor.pw.tripped = false ∧
    s.afterPor.clk.pllLocked = false ∧ s.afterPor.pins.modPwrgd = s.pins.modPwrgd := by
  obtain ⟨hmem, hback, hinsts, hcmds, hready, hcounts, hhost, hfuse, hflash, hpending⟩ := s.afterCold_cleared 0
  exact ⟨⟨hmem, hback, hinsts, hcmds, hready, hcounts, hhost, hfuse, hflash, hpending⟩, rfl, rfl, rfl, rfl⟩

/-- Supplies come into range; a backup domain that had lost both of its own starts again with its counters at 0. -/
theorem exec_powerUp (hpor : s.rs.boot = .por) (sb v48 v : Bool) : exec (.powerUp sb v v48) s = .next { s with
    pins := { s.pins with v48 := s.pins.v48 || v48, v3p3sb := s.pins.v3p3sb || sb, vbat := v }
    rs := if sb = true ∧ s.pins.v3p3sb = false ∧ v = false then { s.rs with counts := List.replicate 16 0, vbatLost := true } else s.rs } := by
  have hlost : (sb && !s.pins.v3p3sb && !v) = true ↔ sb = true ∧ s.pins.v3p3sb = false ∧ v = false := by simp [and_assoc]
  show execPowerUp sb v s v48 = _
  rw [execPowerUp, if_neg (by simp [hpor])]
  simp only [hlost]

theorem exec_porRelease (hpor : s.rs.boot = .por) (h48 : s.pins.v48 = true) (hsb : s.pins.v3p3sb = true) (strap : BitVec 2) :
    exec (.porRelease strap) s =
      .next { s with rs := { s.rs with boot := .cold }, pins := { s.pins with modPwrgd := true, straps := strap } } :=
  congrArg Host.Outcome.next (if_pos (by simp [hpor, h48, hsb]))

/-! ## Boot (14 R331 to R335) -/

/-- A module whose loader has applied fuses and options. -/
def State.loaded (s : State) (det : Bool) : State :=
  ({ s with
    time := 0, opt := s.flash.loaded
    clk := { pllLocked := true, stopped := false, restarts := 0, dies := List.replicate 8 { phase := 0, pos := 0, cycles := 0 } }
    pins := { s.pins with perstN := true, modRstN := true }
    rs := { s.rs with boot := .loaded, optDefaulted := !s.flash.optDigestOk || s.flash.optFormat != 1 }
    lc := { s.lc with st := fusedState s.fuse.lcFuse, optDigest := s.flash.optDigest }
    pw := { s.pw with cap := s.flash.loaded.capDefault.toNat, capHist := [(0, 65535)], pdet := det, gvar := s.flash.bootGvar } } : State).gateTap

theorem exec_coldBoot (hcold : s.rs.boot = .cold) (htrip : s.pw.tripped = false) (hpll : s.clk.restarts = 0 ∨ s.clk.pllLocked = true)
    {det : Bool} (hdet : det = (s.flash.loaded.pdetDefault = 1 && s.flash.loaded.capDefault = 4000)) : exec .coldBoot s =
      .next (if s.flash.loaded.pdetDefault = 1 ∧ det = false then (s.loaded det).error 0x11 3 0x71 2 else s.loaded det) := by
  have hready : ¬ (s.rs.boot != .cold || s.pw.tripped || (s.clk.restarts != 0 && !s.clk.pllLocked)) = true := by
    rcases hpll with h | h <;> simp [hcold, htrip, h]
  have hboth : (decide (s.flash.loaded.pdetDefault = 1) && !det) = true ↔ s.flash.loaded.pdetDefault = 1 ∧ det = false := by simp
  subst hdet
  refine congrArg Host.Outcome.next ((if_neg hready).trans ?_)
  simp only [← hboth]
  rfl

section
variable (hboot : s.rs.boot = .loaded) (hup : s.outOfCold = true)
include hboot hup

theorem exec_imageVerified : exec .imageVerified s = .next (if s.slotPasses s.flash.activeImage then s.startFirmware false
    else if s.slotPasses (if s.flash.active then s.flash.slotA else s.flash.slotB) then
      ({ s with flash := { s.flash with active := !s.flash.active } } : State).startFirmware true
    else { s with rs := { s.rs with boot := .imageFailed, dieHeld := 0xFF } }) :=
  congrArg Host.Outcome.next (if_neg (by simp [hboot, hup]))

end

theorem exec_firmwareReady (hboot : s.rs.boot = .starting) (hup : s.outOfCold = true) (hwarm : s.rs.warm = false) :
    exec .firmwareReady s = .next { s with rs := { s.rs with boot := .ready }, host := { s.host with ready := true } } :=
  congrArg Host.Outcome.next (if_pos (by simp [hboot, hup, hwarm]))

/-! ## The sources of `MODULE_COLD` (14 R324, R337, 15 R349, 17 R390) -/

section
variable {ns : Nat} {b : Bool} (hsb : s.pins.v3p3sb = true) (hlow : lowCounts ns b = true)
include hsb hlow

theorem exec_perstNAssert :
    exec (.perstNAssert ns b) s = .next ((({ s with pins := { s.pins with perstN := false } } : State).storeGvar).enterCold 1 false) :=
  congrArg Host.Outcome.next (if_neg (by simp [hsb, hlow]))

theorem exec_modRstNAssert :
    exec (.modRstNAssert ns b) s = .next ((({ s with pins := { s.pins with modRstN := false } } : State).storeGvar).enterCold 2 false) :=
  congrArg Host.Outcome.next (if_neg (by simp [hsb, hlow]))

end

theorem exec_packageControllerWatchdog (hup : s.firmwareUp = true) : exec .packageControllerWatchdog s = .next (s.enterCold 4 false) :=
  congrArg Host.Outcome.next (if_pos hup)

theorem exec_pllLockLoss (hlock : s.clk.pllLocked = true) : exec .pllLockLoss s =
    .next (({ s with clk := { s.clk with pllLocked := false, stopped := true, restarts := 1 } } : State).enterCold 4 true) :=
  congrArg Host.Outcome.next (if_neg (by simp [hlock]))

/-- A restart of the PLL ends in lock, or in one more restart. -/
theorem exec_pllRestartRetry (hlock : s.clk.pllLocked = false) (hrun : s.clk.restarts ≠ 0) (locked : Bool) : exec (.pllRestartRetry locked) s =
    .next (if locked = true then { s with clk := { s.clk with pllLocked := true } }
      else { s with clk := { s.clk with restarts := s.clk.restarts + 1 } }) :=
  congrArg Host.Outcome.next (if_neg (by simp [hlock, hrun]))

/-! ## `MODULE_WARM` (14 R324, R328) -/

theorem State.warm_of_running (hrun : s.running = true) : s.rs.warm = false := by
  simp only [State.running, Bool.and_eq_true, Bool.not_eq_true'] at hrun
  exact hrun.2

theorem exec_moduleWarm_register (hrun : s.running = true) : exec (.moduleWarm .register) s = .next (((s.countReset 6).storeGvar).enterWarm 6) :=
  congrArg Host.Outcome.next ((if_neg (by simp [hrun])).trans (if_neg (by simp [State.warm_of_running hrun])))

theorem exec_moduleWarmRelease (hwarm : s.rs.warm = true) (hup : s.outOfCold = true) {t : State}
    (ht : t = { s with rs := { s.rs with warm := false, regionHeld := 0, dieHeld := s.rs.wdHeld } }) : exec .moduleWarmRelease s =
      .next ((t.startPorts ((List.range 16).filter (fun p => !t.rs.dieHeld.getLsbD (dieOfPort p)))).startExit .module) := by
  subst ht
  exact congrArg Host.Outcome.next (if_neg (by simp [hwarm, hup]))

/-- What `MODULE_WARM` takes, before the cap and the setting follow. -/
def State.warmed (s : State) (cause : Nat) : State :=
  { s with
    mem := [], back := [], deadMarks := [], poisonMarks := [], llc := [], poisonMode := 0, reqs := [], bankq := [], hist := []
    hbmEntries := [], replay := [], fillHold := [], health := { s.health with atRisk := [] }
    cores := s.cores.map (fun c => { Core.reset with held := c.held, ues := c.ues }), insts := [], cmds := [], mg := Mg.reset
    cf := { s.cf with staged := none }, hbm := s.hbm.map Stack.held, scrubEn := true, scrubH := 0x0C, rambler := none
    fx := { s.fx with ports := s.fx.ports.map Port.held, groups := [], txns := [], inbound := [] }
    host := HostIf.reset
    rs := { s.rs with holdDie := 0, holdRegion := 0, ready := 0, last := BitVec.ofNat 4 cause, boot := .starting, warm := true, exiting := [] }
    pw := { s.pw with newCap := none, limCap := false, limTherm := false, limAlert := !s.pw.alerts.isEmpty, limit := none
                      overTherm := false, forced := false, holdUntil := none, exitP7 := 0 }
    tl := { s.tl with pIn := 0, pFixed := 0, pMax := 0, hist := [], cj := List.replicate 8 0, bj := List.replicate 8 0, counts := [] }
    events := { s.events with pend := [], lost := 0, rate := [] }
    side := { s.side with spdm := .idle, activating := false } }

theorem State.enterWarm_eq (s : State) (cause : Nat) :
    s.enterWarm cause = (((s.warmed cause).capChanged s.effCap).setLevel 192).runFences := rfl

/-- A change of the effective cap is kept in the history alone. -/
theorem State.capChanged_eq (s : State) (old : Nat) : ∃ h, s.capChanged old = { s with pw := { s.pw with capHist := h } } := by
  unfold State.capChanged
  split
  · exact ⟨s.pw.capHist, rfl⟩
  · exact ⟨_, rfl⟩

end

/-- Settles O57: each row past its conditions, and the two resets by the state that they leave. -/
theorem moduleResetRules : Obligations.ModuleResetRules := by
  unfold Obligations.ModuleResetRules
  refine ⟨fun s src hpor => ⟨_, exec_por hpor src, ?por⟩, fun s sb v48 v hpor => exec_powerUp hpor sb v48 v,
    fun s strap hpor h48 hsb => exec_porRelease hpor h48 hsb strap, fun s hcold htrip hpll => exec_coldBoot hcold htrip hpll rfl,
    fun s hboot hup => ?image, fun s => exec_firmwareReady, fun s ns b hsb hlow => ⟨exec_perstNAssert hsb hlow, exec_modRstNAssert hsb hlow⟩,
    fun s => exec_packageControllerWatchdog, fun s => exec_pllLockLoss,
    fun s hlock hrun => ⟨exec_pllRestartRetry hlock hrun true, exec_pllRestartRetry hlock hrun false⟩, fun s => exec_moduleWarm_register,
    fun s hwarm hup => ⟨_, rfl, exec_moduleWarmRelease hwarm hup rfl⟩, fun s c pll hpor hcold => ⟨_, rfl, ?cold⟩, fun s c => ?warm⟩
  case por =>
    obtain ⟨hkept, hboot, htrip, hpll, hgood⟩ := State.afterPor_cleared { s with pins := porPins s.pins src }
    have hlow : (porPins s.pins src).modPwrgd = false := by cases src <;> rfl
    exact ⟨hboot, htrip, hpll, hkept.counts, hkept.mem, hkept.back, hkept.insts, hkept.hostMem, hkept.fuse, hkept.flash, hgood.trans hlow,
      hkept.pending⟩
  case image =>
    intro other
    rw [exec_imageVerified hboot hup]
    refine ⟨fun hactive => ?_, fun hactive hother => ?_, fun hactive hother => ?_⟩
    · rw [if_pos hactive]
    · rw [if_neg (by simp [hactive])]
      exact congrArg _ (if_pos hother)
    · rw [if_neg (by simp [hactive])]
      exact congrArg _ (if_neg (by simpa using hother))
  case cold =>
    obtain ⟨hkept, hboot, hlast, hrelock⟩ := State.enterCold_cleared (cause := c) pll hpor hcold
    exact ⟨hboot, hlast, hrelock, hkept.mem, hkept.back, hkept.insts, hkept.cmds, hkept.ready, hkept.counts, hkept.hostMem, hkept.fuse⟩
  case warm =>
    obtain ⟨h, hcap⟩ := (s.warmed c).capChanged_eq s.effCap
    rw [State.enterWarm_eq, hcap]
    exact ⟨_, rfl, rfl, rfl, rfl, rfl, rfl, rfl, rfl, rfl, rfl, rfl, rfl, rfl⟩

end Sys2Proof.Machine
end

section
/-! PROOF. Resets of a die and of a region: their registers, the exit sequences, the watchdog of a command processor. -/
namespace Sys2Proof.Machine

/-! ## Masks of regions -/

/-- The bit that a place above the width would set is none. -/
theorem getLsbD_shiftedOne {w k r : Nat} : ((1 <<< k : Nat) : BitVec w).getLsbD r = (decide (r < w) && decide (k = r)) := by
  rw [Nat.one_shiftLeft]
  show (BitVec.ofNat w (2 ^ k)).getLsbD r = _
  rw [BitVec.getLsbD_ofNat, Nat.testBit_two_pow]

theorem getLsbD_foldl_bits {w r : Nat} (l : List Nat) (m : BitVec w) :
    (l.foldl (fun (m : BitVec w) k => m ||| (1 <<< k)) m).getLsbD r = (m.getLsbD r || (decide (r < w) && l.contains r)) := by
  induction l generalizing m with
  | nil => simp
  | cons k l ih =>
    have hhead : (k :: l).contains r = (decide (k = r) || l.contains r) := by
      rw [List.contains_cons]
      congr 1
      exact decide_eq_decide.mpr eq_comm
    rw [List.foldl_cons, ih, hhead, BitVec.getLsbD_or, getLsbD_shiftedOne, Bool.and_or_distrib_left, Bool.or_assoc]

theorem maskOf_getLsbD {w r : Nat} (l : List Nat) : (maskOf w l).getLsbD r = (decide (r < w) && l.contains r) := by
  rw [maskOf, getLsbD_foldl_bits]
  simp

/-! ## The registers (14 R324 to R330) -/

section
variable {s t : State} {d r : Nat}

theorem State.managerWrites_running (hrun : s.running = true) : s.managerWrites .manager = true := by simp [State.managerWrites, hrun]

section
variable (hrun : s.running = true)
include hrun

theorem exec_dieResetAssert (hd : d < 8) (hnew : s.rs.holdDie.getLsbD d = false)
    (ht : t = if s.rs.dieHeld.getLsbD d then s.countReset 8 else (s.countReset 8).dieEnter d) :
    exec (.dieResetAssert .manager d) s = .next { t with rs := { t.rs with holdDie := t.rs.holdDie ||| (1 <<< d) } } := by
  have hgoes : ¬ (!s.managerWrites .manager || decide (8 ≤ d) || s.rs.holdDie.getLsbD d) = true := by
    rw [State.managerWrites_running hrun, hnew, decide_eq_false (Nat.not_le.mpr hd)]
    decide
  subst ht
  exact congrArg Host.Outcome.next (if_neg hgoes)

theorem exec_dieResetRelease (hheld : s.rs.holdDie.getLsbD d = true)
    (ht : t = { s with rs := { s.rs with holdDie := s.rs.holdDie &&& ~~~(1 <<< d : BitVec 8) } }) :
    exec (.dieResetRelease .manager d) s = .next (if s.rs.wdHeld.getLsbD d then t else t.dieExit d) := by
  subst ht
  exact congrArg Host.Outcome.next (if_neg (by rw [State.managerWrites_running hrun, hheld]; decide))

theorem exec_regionResetAssert (hr : r < 16) (hnew : s.rs.holdRegion.getLsbD r = false)
    (ht : t = if s.regionHold r then s.countReset 10 else ((s.countReset 10).closeRegions [r]).abandonExits [.region r]) :
    exec (.regionResetAssert .manager r) s = .next { t with rs := { t.rs with
      holdRegion := t.rs.holdRegion ||| (1 <<< r), regionHeld := t.rs.regionHeld ||| (1 <<< r) } } := by
  have hgoes : ¬ (!s.managerWrites .manager || decide (16 ≤ r) || s.rs.holdRegion.getLsbD r) = true := by
    rw [State.managerWrites_running hrun, hnew, decide_eq_false (Nat.not_le.mpr hr)]
    decide
  subst ht
  exact congrArg Host.Outcome.next (if_neg hgoes)

theorem exec_regionResetRelease (hheld : s.rs.holdRegion.getLsbD r = true)
    (ht : t = { s with rs := { s.rs with holdRegion := s.rs.holdRegion &&& ~~~(1 <<< r : BitVec 16)
                                         regionHeld := s.rs.regionHeld &&& ~~~(1 <<< r : BitVec 16) } }) :
    exec (.regionResetRelease .manager r) s = .next (if t.regionHold r then t else (t.openRegions [r]).startExit (.region r)) := by
  subst ht
  exact congrArg Host.Outcome.next (if_neg (by rw [State.managerWrites_running hrun, hheld]; decide))

end

/-! ## The exit sequence (14 R327 to R329) -/

section
variable {u : ResetUnit} (hup : s.outOfCold = true) (hwarm : s.rs.warm = false) (hexit : s.rs.exiting.any (fun e => e.1 = u) = true)
include hup hwarm hexit

theorem exec_resetExitComplete (htrained : (s.exitRegions u).all (fun r => (s.stack r).trained) = true) (ht : t = s.abandonExits [u]) :
    exec (.resetExitComplete u) s = .next { t with rs := { t.rs with ready := t.rs.ready ||| maskOf 16 (s.exitRegions u) } } := by
  subst ht
  exact congrArg Host.Outcome.next (if_neg (by rw [hup, hwarm, hexit, htrained]; decide))

theorem exec_resetExitComplete_untrained (hwaits : (s.exitRegions u).all (fun r => (s.stack r).trained) = false) :
    exec (.resetExitComplete u) s = .next s :=
  congrArg Host.Outcome.next (if_pos (by rw [hup, hwarm, hexit, hwaits]; decide))

end

/-! ## The watchdog of a command processor (14 R324) -/

section
variable (hup : s.firmwareUp = true)
include hup

/-- The die is held; where the processor's memory failed a record says so first. -/
theorem exec_commandProcessorWatchdog {u : State} {memory : Bool} (hd : d < 8) (hfree : s.rs.dieHeld.getLsbD d = false)
    (hu : u = if memory then s.error 0x0D 2 (0x50 + d) 0 else s) (ht : t = (u.countReset 9).dieEnter d) :
    exec (.commandProcessorWatchdog d memory) s = .next { t with rs := { t.rs with
      wdHeld := t.rs.wdHeld ||| (1 <<< d), wdSince := t.rs.wdSince.set d t.time } } := by
  have hgoes : ¬ (!s.firmwareUp || decide (8 ≤ d) || s.rs.dieHeld.getLsbD d) = true := by
    rw [hup, hfree, decide_eq_false (Nat.not_le.mpr hd)]
    decide
  subst ht hu
  exact congrArg Host.Outcome.next (if_neg hgoes)

theorem exec_commandProcessorWatchdogRelease (hheld : s.rs.wdHeld.getLsbD d = true) (hdue : s.rs.wdSince.getD d 0 + 1000000 ≤ s.time)
    (ht : t = { s with rs := { s.rs with wdHeld := s.rs.wdHeld &&& ~~~(1 <<< d : BitVec 8) } }) :
    exec (.commandProcessorWatchdogRelease d) s = .next (if s.rs.holdDie.getLsbD d then t else t.dieExit d) := by
  subst ht
  exact congrArg Host.Outcome.next (if_neg (by rw [hup, hheld, decide_eq_false (Nat.not_lt.mpr hdue)]; decide))

end
end

/-- Settles O58: each row past its conditions, and the mask by its fold. -/
theorem dieAndRegionResetRules : Obligations.DieAndRegionResetRules := by
  unfold Obligations.DieAndRegionResetRules
  exact ⟨fun s d hrun hd hnew => ⟨_, rfl, exec_dieResetAssert hrun hd hnew rfl⟩,
    fun s d hrun hheld => ⟨_, rfl, exec_dieResetRelease hrun hheld rfl⟩,
    fun s r hrun hr hnew => ⟨_, rfl, exec_regionResetAssert hrun hr hnew rfl⟩,
    fun s r hrun hheld => ⟨_, rfl, exec_regionResetRelease hrun hheld rfl⟩,
    fun s u hup hwarm hexit => ⟨fun htrained => ⟨_, rfl, exec_resetExitComplete hup hwarm hexit htrained rfl⟩,
      exec_resetExitComplete_untrained hup hwarm hexit⟩,
    fun s d hup hd hfree => ⟨_, rfl, exec_commandProcessorWatchdog (memory := false) hup hd hfree rfl rfl⟩,
    fun s d hup hd hfree => ⟨_, rfl, exec_commandProcessorWatchdog (memory := true) hup hd hfree rfl rfl⟩,
    fun s d hup hheld hdue => ⟨_, rfl, exec_commandProcessorWatchdogRelease hup hheld hdue rfl⟩, fun l r => maskOf_getLsbD l⟩

end Sys2Proof.Machine
end

section
/-! PROOF. The guardband, and the energy of a period: what a margin does to `G_var`, and how much of the energy is charged. -/
namespace Sys2Proof.Machine

/-! ## The guardband (15 R361, 16 R376) -/

section
variable {s : State} {d : Nat}

/-- The die's `G_var` is raised, and the day of measurements with margin to spare starts again. -/
def State.raiseGvar (s : State) (d new : Nat) : State :=
  { s with pw := { s.pw with gvarSpare := s.pw.gvarSpare.set d s.time, gvar := s.pw.gvar.set d new } }

section
variable {mv : Int} {w need new : Nat} (hup : s.firmwareUp = true) (hd : d < 8) (hrun : s.rs.dieHeld.getLsbD d = false)
include hup hd hrun

theorem marginMeasure_measures : ¬ (!s.firmwareUp || decide (8 ≤ d) || s.rs.dieHeld.getLsbD d) = true := by
  rw [hup, hrun, decide_eq_false (Nat.not_le.mpr hd)]
  decide

theorem exec_marginMeasure_spare (hmv : 5 ≤ mv) : exec (.marginMeasure d mv w) s = .next s :=
  congrArg Host.Outcome.next ((if_neg (marginMeasure_measures hup hd hrun)).trans (if_pos hmv))

theorem exec_marginMeasure_tight (hlow : 0 ≤ mv) (hhigh : mv < 5) : exec (.marginMeasure d mv w) s =
    .next { s with pw := { s.pw with gvarSpare := s.pw.gvarSpare.set d s.time } } :=
  congrArg Host.Outcome.next ((if_neg (marginMeasure_measures hup hd hrun)).trans ((if_neg (Int.not_le.mpr hhigh)).trans (if_pos hlow)))

/-- A shortfall raises `G_var` to what is needed and 5 mV, at most to 60 mV; above 40 mV a record says so, and a need above 60 mV fences. -/
theorem exec_marginMeasure_short (hmv : mv < 0) (hneed : s.pw.gvar.getD d 0 + mv.natAbs = need) (hnew : min 60 (need + 5) = new) {u : State}
    (hu : (if 40 < new then (s.raiseGvar d new).error 0x12 3 (0x50 + d) new else s.raiseGvar d new) = u) :
    exec (.marginMeasure d mv w) s = .next (if 60 < need ∧ dieOfCore w = d then u.fenceCore w 4 else u) := by
  have h5 : ¬ 5 ≤ mv := by omega
  have hneed' : s.pw.gvar.getD d 0 + (-mv).toNat = need := by omega
  show execMarginMeasure d mv w s = _
  rw [execMarginMeasure, if_neg (marginMeasure_measures hup hd hrun), if_neg h5]
  dsimp only
  rw [if_neg (Int.not_le.mpr hmv), hneed', hnew]
  unfold State.raiseGvar at hu
  dsimp only at hu
  rw [hu]
  simp only [Bool.and_eq_true, decide_eq_true_eq]

end

theorem exec_gvarTrim (hup : s.firmwareUp = true) (hd : d < 8) (hday : s.pw.gvarSpare.getD d 0 + 86400000000000 ≤ s.time) :
    exec (.gvarTrim d) s = .next (if 10 < s.pw.gvar.getD d 0 then s.raiseGvar d (s.pw.gvar.getD d 0 - 1) else s) := by
  have hdue : (s.firmwareUp && decide (d < 8) && decide (s.pw.gvarSpare.getD d 0 + dayNs ≤ s.time)) = true := by
    rw [hup, decide_eq_true hd, decide_eq_true (show s.pw.gvarSpare.getD d 0 + dayNs ≤ s.time from hday)]
    rfl
  show execGvarTrim d s = _
  simp only [execGvarTrim, hdue, Bool.true_and, decide_eq_true_eq]
  rfl

theorem exec_gvarStore (hup : s.firmwareUp = true) : exec .gvarStore s = .next { s with flash := { s.flash with gvar := some s.pw.gvar } } :=
  congrArg Host.Outcome.next (if_pos hup)

end

/-! ## The events that energy is charged by (10 R258) -/

section
variable {counts : List Count} {p q r : Count → Bool}

theorem eventSum_cons (c : Count) : eventSum (c :: counts) p = (if p c then c.n else 0) + eventSum counts p := by
  cases hp : p c <;> simp [eventSum, hp]

/-- Two kinds of events that exclude each other are together no more than a third that holds both. -/
theorem eventSum_add_le (hpq : ∀ c, p c = true → q c = false) (hp : ∀ c, p c = true → r c = true) (hq : ∀ c, q c = true → r c = true) :
    eventSum counts p + eventSum counts q ≤ eventSum counts r := by
  induction counts with
  | nil => exact le_rfl
  | cons c counts ih =>
    simp only [eventSum_cons]
    cases hpc : p c with
    | true =>
      rw [hpq c hpc, hp c hpc]
      simp only [if_true, Bool.false_eq_true, if_false]
      omega
    | false =>
      cases hqc : q c with
      | true =>
        rw [hq c hqc]
        simp only [if_true, Bool.false_eq_true, if_false]
        omega
      | false =>
        simp only [Bool.false_eq_true, if_false]
        omega

theorem eventSum_none (h : ∀ c ∈ counts, p c = false) : eventSum counts p = 0 := by
  have hnil : counts.filter p = [] := List.filter_eq_nil_iff.mpr fun c hc => by rw [h c hc]; decide
  rw [eventSum, hnil]
  rfl

/-- The events of different owners in a partition are together no more than those of the partition. -/
theorem sum_ownedEvents_le (part : Nat) {ids : List Nat} (hids : ids.Nodup) :
    (ids.map (fun i => eventSum counts (fun c => decide (c.owner = i + 1) && decide (c.part = part)))).sum ≤
      eventSum counts (fun c => ids.any (fun i => decide (c.owner = i + 1)) && decide (c.part = part)) := by
  induction ids with
  | nil => exact Nat.zero_le _
  | cons i ids ih =>
    obtain ⟨hi, hids⟩ := List.nodup_cons.mp hids
    rw [List.map_cons, List.sum_cons]
    refine (Nat.add_le_add_left (ih hids) _).trans (eventSum_add_le (fun c hc => ?_) (fun c hc => ?_) (fun c hc => ?_))
    · rw [Bool.and_eq_true, decide_eq_true_eq, decide_eq_true_eq] at hc
      refine Bool.and_eq_false_iff.mpr (.inl (List.any_eq_false.mpr fun j hj => ?_))
      rw [decide_eq_true_eq, hc.1]
      rintro hij
      exact hi (Nat.succ.inj hij ▸ hj)
    · rw [Bool.and_eq_true] at hc ⊢
      exact ⟨by rw [List.any_cons, hc.1, Bool.true_or], hc.2⟩
    · rw [Bool.and_eq_true] at hc ⊢
      exact ⟨by rw [List.any_cons, hc.1, Bool.or_true], hc.2⟩

theorem sum_ownedEvents_le_partition (part : Nat) {ids : List Nat} (hids : ids.Nodup) :
    (ids.map (fun i => eventSum counts (fun c => decide (c.owner = i + 1) && decide (c.part = part)))).sum ≤
      eventSum counts (fun c => decide (c.part = part)) :=
  (sum_ownedEvents_le part hids).trans ((Nat.le_add_right _ _).trans
    (eventSum_add_le (q := fun _ => false) (fun _ _ => rfl) (fun _ hc => (Bool.and_eq_true_iff.mp hc).2) (fun _ hc => absurd hc (by decide))))

end

/-! ## Charges (10 R258, 15 R366) -/

/-- Shares of an amount by parts of a whole are together no more than the amount. -/
theorem sum_shares_le {α : Type} (n whole : Nat) {part : α → Nat} {l : List α} (h : (l.map part).sum ≤ whole) :
    (l.map (fun a => n * part a / whole)).sum ≤ n := by
  have hall : (l.map (fun a => n * part a / whole)).sum ≤ n * (l.map part).sum / whole := by
    clear h
    induction l with
    | nil => exact Nat.zero_le _
    | cons a l ih =>
      simp only [List.map_cons, List.sum_cons, Nat.mul_add]
      exact (Nat.add_le_add_left ih _).trans Nat.div_add_div_le_add_div
  exact hall.trans (Nat.div_le_of_le_mul (by rw [Nat.mul_comm whole]; exact Nat.mul_le_mul_left n h))

/-- By the partition counters no more is charged than the partitions drew. -/
theorem sum_partitionCharge_le (nj : List Nat) (counts : List Count) {ids : List Nat} (hids : ids.Nodup) :
    (ids.map (partitionCharge nj counts)).sum ≤ nj.sum := by
  have hparts : ∀ l : List (Nat × Nat), (ids.map (fun i => (l.map (fun e =>
      e.1 * eventSum counts (fun c => decide (c.owner = i + 1) && decide (c.part = e.2)) /
        eventSum counts (fun c => decide (c.part = e.2)))).sum)).sum ≤ (l.map Prod.fst).sum := by
    intro l
    induction l with
    | nil => simp
    | cons e l ih =>
      simp only [List.map_cons, List.sum_cons, List.sum_map_add]
      exact Nat.add_le_add (sum_shares_le _ _ (sum_ownedEvents_le_partition e.2 hids)) ih
  have hall := hparts nj.zipIdx
  rwa [List.zipIdx_map_fst] at hall

theorem sum_njWithin_le (left : Nat) (nj : List Nat) : (njWithin left nj).sum ≤ left := by
  induction nj generalizing left with
  | nil => exact Nat.zero_le _
  | cons n nj ih =>
    rw [njWithin, List.sum_cons]
    have hrest := ih (left - n)
    omega

/-- Without events there is no charge. -/
theorem State.chargeOf_eventless {s : State} {i : Nat} (nj : List Nat) (h : ∀ c ∈ s.tl.counts, c.owner ≠ i + 1) : s.chargeOf nj i = 0 := by
  unfold State.chargeOf
  split
  · have hnil : s.tl.counts.filter (fun c => c.owner = i + 1) = [] := List.filter_eq_nil_iff.mpr fun c hc => by simpa using h c hc
    rw [activityCharge, hnil]
    rfl
  · have hzero : ∀ part, eventSum s.tl.counts (fun c => decide (c.owner = i + 1) && decide (c.part = part)) = 0 := fun part =>
      eventSum_none fun c hc => by rw [decide_eq_false (h c hc), Bool.false_and]
    simp [partitionCharge, hzero]

/-- A counter that does not saturate takes the charge whole, in mJ and what is left of it in nJ. -/
theorem Inst.charge_exact {i : Inst} {n : Nat} (h : i.energyMj.toNat + (i.energyNj + n) / 1000000 < 2 ^ 64) : (i.charge n).energyNj < 1000000 ∧
    1000000 * (i.charge n).energyMj.toNat + (i.charge n).energyNj = 1000000 * i.energyMj.toNat + i.energyNj + n := by
  have hmj : (i.charge n).energyMj.toNat = i.energyMj.toNat + (i.energyNj + n) / 1000000 := by
    rw [Inst.charge, satInc64, if_pos h, BitVec.toNat_ofNat, Nat.mod_eq_of_lt h]
  have hnj : (i.charge n).energyNj = (i.energyNj + n) % 1000000 := rfl
  rw [hmj, hnj]
  omega

/-- What a period's attribution leaves: every counter charged, the sum kept, the rest unattributed, and no event counted. -/
theorem exec_energyAttribution {s : State} (hup : s.firmwareUp = true) (nj : List Nat) (first : Nat) {charge : Nat → Nat}
    (hcharge : charge = s.chargeOf (List.replicate first 0 ++ nj)) {sum : Nat} (hsum : sum = (s.insts.map (fun i => charge i.id)).sum) :
    exec (.energyAttribution nj first) s = .next { s with
      insts := s.insts.map (fun i => i.charge (charge i.id))
      tl := { s.tl with charged := s.tl.charged + sum, counts := []
                        unattrib := BitVec.ofNat 64 (s.tl.energyIn.toNat - (s.tl.charged + sum) / 1000000) } } := by
  subst hsum hcharge
  exact congrArg Host.Outcome.next (if_neg (by rw [hup]; decide))

/-- Settles O60: a margin by how far it falls short, and the charges by the bound on shares of a whole. -/
theorem guardbandAndEnergyRules : Obligations.GuardbandAndEnergyRules := by
  unfold Obligations.GuardbandAndEnergyRules
  refine ⟨fun s d w mv hup hd hrun => ⟨exec_marginMeasure_spare hup hd hrun, exec_marginMeasure_tight hup hd hrun, ?low, ?high, ?fences⟩,
    fun s d hup hd hday => ⟨?trim, ?least⟩, fun s => exec_gvarStore,
    fun s nj first hup => ⟨_, exec_energyAttribution hup nj first rfl rfl, rfl, rfl, rfl, rfl, rfl, rfl, rfl⟩,
    fun s nj i => State.chargeOf_eventless nj, fun nj counts ids => sum_partitionCharge_le nj counts, sum_njWithin_le,
    fun i n => Inst.charge_exact⟩
  case low =>
    intro hmv hneed
    rw [exec_marginMeasure_short hup hd hrun hmv rfl (min_eq_right (by omega)) (if_neg (by omega)), if_neg (by omega)]
    rfl
  case high =>
    intro hmv hlow hhigh
    have h40 : 40 < min 60 (s.pw.gvar.getD d 0 + mv.natAbs + 5) := by omega
    rw [exec_marginMeasure_short hup hd hrun hmv rfl rfl (if_pos h40), if_neg (by omega)]
    rfl
  case fences =>
    intro hneed hmv hw
    rw [exec_marginMeasure_short hup hd hrun hmv rfl (min_eq_left (by omega)) (if_pos (by decide)), if_pos ⟨hneed, hw⟩]
    rfl
  case trim =>
    intro hg
    rw [exec_gvarTrim hup hd hday, if_pos hg]
    rfl
  case least =>
    intro hg
    rw [exec_gvarTrim hup hd hday, if_neg (Nat.not_lt.mpr hg)]

end Sys2Proof.Machine
end

section
/-! PROOF. The end of a command leaves the power state: neither its record, nor the memory that the record is written to, is part of it. -/
namespace Sys2Proof.Machine

/-! ## A write at a home (06 R130, 11 R262) -/

section
variable (s : State)

theorem State.pw_foldl {β : Type} {f : State → β → State} (hf : ∀ t b, (f t b).pw = t.pw) (l : List β) : (l.foldl f s).pw = s.pw :=
  foldl_keeps (p := fun t : State => t.pw = s.pw) (fun t b ht => (hf t b).trans ht) l s rfl

theorem State.issueWrite_pw (sec : Nat) : (s.issueWrite sec).pw = s.pw := by
  unfold State.issueWrite
  dsimp only
  split <;> rfl

theorem State.drainWq_pw (a : Nat) : (s.drainWq a).pw = s.pw := by
  unfold State.drainWq
  dsimp only
  split
  · rfl
  · exact State.pw_foldl _ State.issueWrite_pw _

theorem State.queueWrite_pw (sec : Nat) : (s.queueWrite sec).pw = s.pw := State.drainWq_pw _ _

theorem State.writeBack_pw (l : Line) : (s.writeBack l).pw = s.pw := by
  refine State.pw_foldl s (fun t i => ?_) _
  have queued : ∀ (b : Memory) (d p : List Nat) (sec : Nat),
      (State.queueWrite { t with back := b, deadMarks := d, poisonMarks := p } sec).pw = t.pw :=
    fun _ _ _ _ => State.queueWrite_pw _ _
  dsimp only
  split_ifs
  · rfl
  · exact queued _ _ _ _
  · rfl
  · exact queued _ _ _ _
  · exact queued _ _ _ _
  · rfl

theorem State.evict_pw (line : Nat) : (s.evict line).pw = s.pw := by
  unfold State.evict
  split
  · rfl
  · exact State.writeBack_pw _ _

theorem State.touch_pw (line : Nat) : (s.touch line).pw = s.pw := by
  unfold State.touch
  split
  · rfl
  · split <;> rfl

theorem State.allocate_pw (inst : Option Nat) (line choice : Nat) (stream : Bool) : (s.allocate inst line choice stream).pw = s.pw := by
  unfold State.allocate
  split
  · rfl
  · have hroom : (match s.victimFor inst line choice with
        | some v => s.evict v.line
        | none => s).pw = s.pw := by
      split
      · exact State.evict_pw _ _
      · rfl
    dsimp only
    split
    · exact hroom
    · exact (State.touch_pw _ _).trans hroom

theorem State.remember_pw (sec : Nat) (old : List Byte) : (s.remember sec old).pw = s.pw := by
  unfold State.remember
  split <;> rfl

theorem State.writeSector_pw (inst : Option Nat) (sec choice : Nat) (bs : List (Nat × Byte)) :
    (s.writeSector inst sec choice bs).pw = s.pw := by
  have hplaced : ∀ (c : Prop) [Decidable c] (n : Nat) (old : List Byte),
      ((if c then s else (s.allocate inst n choice false).touch n).remember (s.canonSec sec) old).pw = s.pw := by
    intro c _ n old
    rw [State.remember_pw, apply_ite State.pw, State.touch_pw, State.allocate_pw, ite_self]
  unfold State.writeSector
  dsimp only
  split
  · rfl
  · split
    · rfl
    · exact hplaced _ _ _

theorem State.homeWrite_pw (inst : Option Nat) (a choice : Nat) (bs : List Byte) : (s.homeWrite inst a choice bs).pw = s.pw :=
  State.pw_foldl s (fun _ _ => State.writeSector_pw _ _ _ _ _) _

/-! ## Queues and their records (09 R204, R209 to R211, R408) -/

theorem State.updQueue_pw (q : QRef) (f : Queue → Queue) : (s.updQueue q f).pw = s.pw := by
  cases q <;> rfl

theorem State.ringFault_pw (q : QRef) : (s.ringFault q).pw = s.pw := by
  cases q <;> rfl

theorem State.fetchLine_pw (line cls : Nat) (inst : Option Nat) (stream : Bool) : (s.fetchLine line cls inst stream).pw = s.pw := by
  unfold State.fetchLine
  dsimp only
  split
  · rfl
  · split <;> rfl

theorem State.ringAsk_pw (r : RingAccess) : (s.ringAsk r).pw = s.pw := by
  cases r
  case line => exact State.fetchLine_pw _ _ _ _ _
  all_goals rfl

theorem State.putRecord_pw (q : QRef) (x : Queue) (r : Record) : (s.putRecord q x r).1.pw = s.pw := by
  cases hto : s.ringAt q x.cqHost x.cqAddr (x.cqWrite * 32) .write <;> simp only [State.putRecord, hto]
  case ats => exact State.ringAsk_pw _ _
  case line => exact State.ringAsk_pw _ _
  case failed => exact State.ringFault_pw _ _
  case host => rw [apply_ite State.pw, State.msix_pw, ite_self, State.updQueue_pw]
  case device => rw [apply_ite State.pw, State.msix_pw, ite_self, State.updQueue_pw, State.homeWrite_pw]

variable {s} in
theorem State.pw_of_putRecord {t : State} {b : Bool} {q : QRef} {x : Queue} {r : Record} (h : s.putRecord q x r = (t, b)) : t.pw = s.pw :=
  (congrArg (fun p => p.1.pw) h).symm.trans (s.putRecord_pw q x r)

theorem State.drainHeld_pw (q : QRef) (rs : List Record) : (s.drainHeld q rs).pw = s.pw := by
  induction rs generalizing s with
  | nil => exact State.updQueue_pw _ _ _
  | cons r rs ih =>
    unfold State.drainHeld
    split
    · rfl
    · split
      · exact State.updQueue_pw _ _ _
      · split
        · exact State.updQueue_pw _ _ _
        · split
          next hput => exact (State.updQueue_pw _ _ _).trans (State.pw_of_putRecord hput)
          next hput => exact (ih _).trans (State.pw_of_putRecord hput)

theorem State.pushRecord_pw (q : QRef) (r : Record) : (s.pushRecord q r).pw = s.pw := by
  unfold State.pushRecord
  split
  · rfl
  · exact State.drainHeld_pw _ _ _

/-! ## The end of a command (09 R209) -/

theorem State.adminIdle_pw : s.adminIdle.pw = s.pw := by
  unfold State.adminIdle
  split <;> rfl

theorem State.writeEnd_pw (cid : Nat) : (s.writeEnd cid).pw = s.pw := by
  unfold State.writeEnd
  split
  · rfl
  next c _ =>
    split
    next st detail _ =>
      have hforgot : (if c.q = .admin && c.opcode = 0xA0 then ({ s with cmds := s.cmds.filter (fun x => x.cid != cid) } : State).newNonce
          else { s with cmds := s.cmds.filter (fun x => x.cid != cid) }).pw = s.pw := by
        split <;> rfl
      dsimp only at hforgot ⊢
      generalize (if (decide (c.q = .admin) && decide (c.opcode = 0xA0)) = true then _ else _ : State) = t at hforgot ⊢
      split
      · exact hforgot
      · split
        · exact hforgot
        · split
          · rw [apply_ite State.pw, State.adminIdle_pw, State.drainEvents_pw, ite_self, State.pushRecord_pw, State.updQueue_pw, hforgot]
          · rw [apply_ite State.pw, State.adminIdle_pw, ite_self, State.updQueue_pw, hforgot]
    · rfl

theorem State.finishDue_pw (cid : Nat) : (s.finishDue cid).pw = s.pw := by
  unfold State.finishDue
  split
  · rfl
  · split
    · exact State.writeEnd_pw _ _
    · rfl

theorem State.finishCmd_pw (cid : Nat) : (s.finishCmd cid).pw = s.pw := by
  unfold State.finishCmd
  split
  · rfl
  · dsimp only
    split
    · exact (State.pw_foldl _ State.finishDue_pw _).trans (State.finishDue_pw _ _)
    · exact State.finishDue_pw _ _

theorem State.haltAfter_pw (cid : Nat) (st : Status) : (s.haltAfter cid st).pw = s.pw := by
  unfold State.haltAfter
  split
  · rfl
  · split
    · exact State.updQueue_pw _ _ _
    · rfl

theorem State.doneCmd_pw (cid : Nat) (st : Status) (detail : Nat) : (s.doneCmd cid st detail).pw = s.pw :=
  (State.finishCmd_pw _ _).trans (State.haltAfter_pw _ _ _)

end

end Sys2Proof.Machine
end

section
/-! PROOF. The control loop (15 R352 to R357), power alerts (R359) and thermal limits (R364, R365). -/
namespace Sys2Proof.Machine

/-! ## The setting and what is drawn (15 R350 to R354) -/

section
variable (s : State)

/-- The governor's move touches the dies' clocks, the setting and the voltage alone. -/
theorem State.govern_eq (n : Nat) : ∃ clk div skip vdiv rise,
    s.govern n = { s with clk := clk, pw := { s.pw with div := div, skip := skip, vdiv := vdiv, rise := rise } } := by
  simp only [State.govern, State.setLevel]
  split
  · exact ⟨_, _, _, _, _, rfl⟩
  · exact ⟨s.clk, s.pw.div, s.pw.skip, _, _, rfl⟩

theorem State.govern_slower {n : Nat} (h : s.level ≤ n) : s.govern n = s.setLevel n :=
  if_pos (by rw [decide_eq_true h]; rfl)

theorem State.govern_faster {n : Nat} (h : n < s.level) : s.govern n = if s.slewNs n = 0 then s.setLevel n
    else { s with pw := { s.pw with vdiv := min n 192, rise := some (n, s.time + s.slewNs n) } } := by
  simp only [State.govern, decide_eq_false (Nat.not_le.mpr h), Bool.false_or, decide_eq_true_eq]

/-- In an alert or its hold the clock only slows, to P7 at least. -/
theorem State.periodLevel_alert (h : s.alertHeld = true) (n : Nat) : s.level ≤ s.periodLevel n ∧ 192 ≤ s.periodLevel n := by
  have hwant : 192 ≤ s.wantLevel n := by simp [State.wantLevel, h]
  rw [State.periodLevel, if_pos h]
  omega

/-- Where nothing else asks, a period goes towards what the requested P-state and the load ask. -/
theorem State.periodLevel_calm (ha : s.alertHeld = false) (hf : s.pw.forced = false) (hd : s.pw.pdet = false) (n : Nat) :
    s.periodLevel n = nextLevel s.level (max s.preqLevel n) := by
  simp [State.periodLevel, State.wantLevel, ha, hf, hd]

theorem State.thermalBinds_none (h : s.pw.limit = none) : s.thermalBinds = false := by
  simp only [State.thermalBinds, h]

theorem State.drawn_le (pIn pFixed : Nat) : s.drawn pIn pFixed ≤ pIn ∧ s.drawn pIn pFixed ≤ carveOut pFixed + computeMw s.level / 1000 ∧
    s.drawn pIn pFixed ≤ s.capWithin 1100000 * 110 / 100 ∧
    s.drawn pIn pFixed ≤ (s.lastMs.length + 1) * s.capWithin 2000000 - s.lastMs.sum := by
  simp only [State.drawn]
  generalize carveOut pFixed + computeMw s.level / 1000 = a
  generalize s.capWithin 1100000 * 110 / 100 = b
  omega

end

/-! ## The highest cap of a time (15 R354) -/

theorem foldl_max_le_iff {l : List Nat} {a b : Nat} : l.foldl max a ≤ b ↔ a ≤ b ∧ ∀ x ∈ l, x ≤ b := by
  induction l generalizing a with
  | nil => simp
  | cons x l ih => simp [ih, and_assoc]

theorem foldl_max_mem (l : List Nat) (a : Nat) : l.foldl max a = a ∨ l.foldl max a ∈ l := by
  induction l generalizing a with
  | nil => exact .inl rfl
  | cons x l ih =>
    rcases ih (max a x) with h | h
    · rcases max_choice a x with hm | hm
      · exact .inl (h.trans hm)
      · exact .inr (List.mem_cons.mpr (.inl (h.trans hm)))
    · exact .inr (List.mem_cons_of_mem _ h)

section
variable {s : State} {win : Nat}

theorem mem_capsWithin {c : Nat} : c ∈ (s.pw.capHist.filter (fun p => decide (s.time < p.1 + win))).map Prod.snd ↔
    ∃ p ∈ s.pw.capHist, s.time < p.1 + win ∧ p.2 = c := by
  simp only [List.mem_map, List.mem_filter, decide_eq_true_eq, and_assoc]

theorem State.capWithin_le_iff {b : Nat} : s.capWithin win ≤ b ↔
    s.effCap ≤ b ∧ ∀ p ∈ s.pw.capHist, s.time < p.1 + win → p.2 ≤ b := by
  simp only [State.capWithin, foldl_max_le_iff, mem_capsWithin]
  exact and_congr_right fun _ => ⟨fun h p hp ht => h _ ⟨p, hp, ht, rfl⟩, fun h _ ⟨p, hp, ht, hc⟩ => hc ▸ h p hp ht⟩

theorem State.capWithin_attained : s.capWithin win = s.effCap ∨
    ∃ p ∈ s.pw.capHist, s.time < p.1 + win ∧ p.2 = s.capWithin win :=
  (foldl_max_mem _ s.effCap).imp_right mem_capsWithin.mp

end

/-! ## The setting that fits a budget (15 R353) -/

/-- A setting that is found fits, and every faster one does not. -/
theorem fitLevel_cases (cur c budget : Nat) :
    (c * computeMw (fitLevel cur c budget) ≤ budget * computeMw cur ∧ 64 ≤ fitLevel cur c budget ∧ fitLevel cur c budget ≤ 255 ∧
      ∀ n, 64 ≤ n → n < fitLevel cur c budget → ¬ c * computeMw n ≤ budget * computeMw cur) ∨
    (fitLevel cur c budget = 255 ∧ ∀ n, 64 ≤ n → n < 256 → ¬ c * computeMw n ≤ budget * computeMw cur) := by
  unfold fitLevel
  cases hf : (List.range' 64 192).find? (fun n => decide (c * computeMw n ≤ budget * computeMw cur)) with
  | none =>
    refine .inr ⟨rfl, fun n h64 h256 => ?_⟩
    simpa using List.find?_range'_eq_none.mp hf n h64 h256
  | some m =>
    obtain ⟨hm, hmem, hfaster⟩ := List.find?_range'_eq_some.mp hf
    rw [List.mem_range'_1] at hmem
    refine .inl ⟨of_decide_eq_true hm, hmem.1, Nat.le_of_lt_succ hmem.2, fun n h64 hn => ?_⟩
    simpa using hfaster n h64 hn

theorem fitLevel_rules {cur : Nat} (c budget : Nat) (h64 : 64 ≤ cur) (h255 : cur ≤ 255) :
    (c * computeMw (fitLevel cur c budget) ≤ budget * computeMw cur ∨ fitLevel cur c budget = 255) ∧
    (c ≤ budget → fitLevel cur c budget ≤ cur) ∧ 64 ≤ fitLevel cur c budget ∧ fitLevel cur c budget ≤ 255 := by
  have hcur : c ≤ budget → c * computeMw cur ≤ budget * computeMw cur := Nat.mul_le_mul_right _
  rcases fitLevel_cases cur c budget with ⟨hfit, hlo, hhi, hfaster⟩ | ⟨hlast, hnone⟩
  · exact ⟨.inl hfit, fun hb => Nat.not_lt.mp fun hlt => hfaster cur h64 hlt (hcur hb), hlo, hhi⟩
  · exact ⟨.inr hlast, fun hb => absurd (hcur hb) (hnone cur h64 (by omega)), by omega, by omega⟩

/-- At a G_var of 40 mV the voltage of a P-state is at most the table's: 85 mV of it are the guardband (15 R350, R360). -/
theorem State.dieMv_le_table {s : State} {d p : Nat} (hp : p < 8) (hg : s.pw.gvar.getD d 0 = 40) :
    s.dieMv d p ≤ [860, 835, 810, 790, 770, 720, 660, 600].getD p 0 := by
  have htable : ∀ q < 8, 85 ≤ (pstate q).2.1 ∧ (pstate q).2.1 = [860, 835, 810, 790, 770, 720, 660, 600].getD q 0 := by decide
  obtain ⟨h85, heq⟩ := htable p hp
  rw [State.dieMv, hg, ← heq]
  omega

end Sys2Proof.Machine
end

section
/-! PROOF. A control period, an alert and a thermal reading as one row each, and the settling of O59. -/
namespace Sys2Proof.Machine

/-! ## A control period (15 R353, R355, R356) -/

section
variable {s : State}

theorem State.applyCap_none (h : s.pw.newCap = none) : s.applyCap = s := by
  simp only [State.applyCap, h]

theorem State.applyCap_pw {w cid : Nat} {det : Bool} (h : s.pw.newCap = some (w, det, cid)) :
    ∃ hist, s.applyCap.pw = { s.pw with cap := w, pdet := det, newCap := none, capHist := hist } := by
  obtain ⟨hist, heq⟩ := State.capChanged_eq { s with pw := { s.pw with cap := w, pdet := det, newCap := none } } s.effCap
  exact ⟨hist, by simp only [State.applyCap, h, State.doneCmd_pw, heq]⟩

theorem State.noteCapped_pw (s : State) : s.noteCapped.pw = s.pw := by
  unfold State.noteCapped
  split <;> rfl

/-- The limits of `PW_STATUS` after a period, where the effective cap asked for a slower clock than the requested P-state or not (15 R356). -/
def State.showLimits (s : State) (below : Bool) : State :=
  { s with pw := { s.pw with
    limCap := below && !s.thermalBinds, limTherm := (s.pw.forced && s.preqLevel < 192) || (below && s.thermalBinds), limAlert := s.alertHeld } }

theorem State.showLimits_calm (hf : s.pw.forced = false) (hl : s.pw.limit = none) (below : Bool) :
    s.showLimits below = { s with pw := { s.pw with limCap := below, limTherm := false, limAlert := s.alertHeld } } := by
  simp [State.showLimits, hf, State.thermalBinds_none s hl]

/-- The setting of a period and the limits that it shows. -/
def State.endPeriod (s : State) (level : Nat) (below : Bool) : State := (s.endP7.govern level).showLimits below

theorem State.endPeriod_pw (s : State) (level : Nat) (below : Bool) : (s.endPeriod level below).pw.cap = s.pw.cap ∧
    (s.endPeriod level below).pw.pdet = s.pw.pdet ∧ (s.endPeriod level below).pw.newCap = s.pw.newCap := by
  obtain ⟨clk, div, skip, vdiv, rise, heq⟩ := s.endP7.govern_eq level
  rw [State.endPeriod, heq]
  exact ⟨rfl, rfl, rfl⟩

theorem State.endPeriod_calm (hf : s.pw.forced = false) (hl : s.pw.limit = none) (level : Nat) (below : Bool) : s.endPeriod level below =
    { s.endP7.govern level with pw := { (s.endP7.govern level).pw with
      limCap := below, limTherm := false, limAlert := (s.endP7.govern level).alertHeld } } := by
  obtain ⟨clk, div, skip, vdiv, rise, heq⟩ := s.endP7.govern_eq level
  exact State.showLimits_calm (by rw [heq]; exact hf) (by rw [heq]; exact hl) below

/-- The state that a period's setting is chosen in: the powers metered, and a new cap in force. -/
def State.metered (s : State) (pIn pFixed uj : Nat) (mj : List Nat) : State := (s.meter (s.drawn pIn pFixed) pFixed uj mj).applyCap

variable {pIn pFixed div skip uj : Nat} {mj : List Nat}

theorem exec_controlPeriod (hup : s.firmwareUp = true) : ∃ t n, t = s.metered pIn pFixed uj mj ∧
    n = t.needLevel (s.drawn pIn pFixed) pFixed div skip ∧
    exec (.controlPeriod pIn pFixed div skip uj mj) s =
      .next (t.endPeriod (t.periodLevel n) (decide (t.preqLevel < n) && (!t.pw.pdet || t.thermalBinds))).noteCapped.activateHeld := by
  refine ⟨_, _, rfl, rfl, congrArg Host.Outcome.next (if_neg ?_)⟩
  rw [hup]
  decide

/-- Nothing but the load and the requested P-state asks for a setting. -/
theorem exec_controlPeriod_calm (hup : s.firmwareUp = true) (hc : s.pw.newCap = none) (hd : s.pw.pdet = false)
    (hf : s.pw.forced = false) (ha : s.alertHeld = false) : ∃ t n, t = s.meter (s.drawn pIn pFixed) pFixed uj mj ∧
    n = t.needLevel (s.drawn pIn pFixed) pFixed div skip ∧ exec (.controlPeriod pIn pFixed div skip uj mj) s =
      .next (t.endPeriod (nextLevel s.level (max s.preqLevel n)) (decide (s.preqLevel < n))).noteCapped.activateHeld := by
  obtain ⟨t, n, ht, hn, hrun⟩ := exec_controlPeriod (pIn := pIn) (pFixed := pFixed) (div := div) (skip := skip) (uj := uj) (mj := mj) hup
  rw [State.metered, State.applyCap_none (show (s.meter (s.drawn pIn pFixed) pFixed uj mj).pw.newCap = none from hc)] at ht
  have hpw : t.pw = s.pw := by rw [ht]; rfl
  have hlevel : t.level = s.level := by rw [State.level, hpw]; rfl
  have hpreq : t.preqLevel = s.preqLevel := by rw [State.preqLevel, State.preqRead, hpw]; rfl
  have halert : t.alertHeld = false := by rw [State.alertHeld, hpw]; exact ha
  refine ⟨t, n, ht, hn, ?_⟩
  rw [hrun, State.periodLevel_calm t halert (hpw ▸ hf) (hpw ▸ hd), hlevel, hpreq, hpw, hd]
  simp

/-- The new cap is in force from its period on. -/
theorem exec_controlPeriod_newCap {w cid : Nat} {det : Bool} (hup : s.firmwareUp = true) (hc : s.pw.newCap = some (w, det, cid)) :
    ∃ t : State, exec (.controlPeriod pIn pFixed div skip uj mj) s = .next t.activateHeld ∧ t.pw.cap = w ∧ t.pw.pdet = det ∧ t.pw.newCap = none := by
  obtain ⟨t, n, ht, hn, hrun⟩ := exec_controlPeriod (pIn := pIn) (pFixed := pFixed) (div := div) (skip := skip) (uj := uj) (mj := mj) hup
  obtain ⟨hist, hpw⟩ : ∃ hist, t.pw = { s.pw with cap := w, pdet := det, newCap := none, capHist := hist } :=
    ht ▸ State.applyCap_pw (s := s.meter (s.drawn pIn pFixed) pFixed uj mj) hc
  refine ⟨_, hrun, ?_⟩
  obtain ⟨hcap, hdet, hnew⟩ := t.endPeriod_pw (t.periodLevel n) (decide (t.preqLevel < n) && (!t.pw.pdet || t.thermalBinds))
  rw [State.noteCapped_pw, hcap, hdet, hnew, hpw]
  exact ⟨rfl, rfl, rfl⟩

/-! ## Power alerts (15 R359) -/

theorem exec_pwrAlertN {src : AlertSource} {ns : Nat} (hup : s.outOfCold = true) (hnew : s.pw.alerts.contains src = false)
    (hlong : src = .pin → 200 ≤ ns) : exec (.pwrAlertN src ns) s = .next (
      let t : State := { s with pins := { s.pins with pwrAlertN := if src = AlertSource.pin then false else s.pins.pwrAlertN }
                                pw := { s.pw with alerts := src :: s.pw.alerts, alertCount := satInc s.pw.alertCount 1, limAlert := true
                                                  div := 192, vdiv := 192, rise := none } }
      t.noteCapped.event 0x06 (alertDetail src t.pw.alertCount.toNat)) := by
  refine congrArg Host.Outcome.next (if_neg ?_)
  rw [hup, hnew]
  simpa using hlong

theorem exec_powerAlertEnd_last {src : AlertSource} (hk : s.clocked = true) (h : s.pw.alerts = [src]) :
    exec (.powerAlertEnd src) s = .next { s with
      pins := { s.pins with pwrAlertN := if src = AlertSource.pin then true else s.pins.pwrAlertN }
      pw := { s.pw with alerts := [], holdUntil := some (s.time + 1000000) } } := by
  refine congrArg Host.Outcome.next ((State.clockRow_clocked hk _).trans ?_)
  simp [h]

theorem exec_powerAlertHoldEnd {t : Nat} (hk : s.clocked = true) (hh : s.pw.holdUntil = some t) (ha : s.pw.alerts = []) :
    exec .powerAlertHoldEnd s = .next (if t ≤ s.time then { s with pw := { s.pw with holdUntil := none, limAlert := false } } else s) := by
  refine congrArg Host.Outcome.next ((State.clockRow_clocked hk _).trans ?_)
  simp [hh, ha]

/-! ## Thermal readings (15 R364, R365) -/

theorem State.outOfCold_of_firmwareUp (h : s.firmwareUp = true) : s.outOfCold = true := by
  simp only [State.firmwareUp, Bool.and_eq_true] at h
  exact h.1.1

theorem State.capChanged_same (s : State) : s.capChanged s.effCap = s := if_pos rfl

theorem exec_thermalSample (hup : s.outOfCold = true) (rs : List (Nat × Nat)) : exec (.thermalSample rs) s =
    .next (if 118 < hottest rs then (if s.firmwareUp then s.thermAct rs (hottest rs) else s).thermTrip
      else if s.firmwareUp then s.thermAct rs (hottest rs) else s) := by
  refine congrArg Host.Outcome.next (if_neg ?_)
  rw [hup]
  decide

theorem Pw.cool_eq {p : Pw} (ho : p.overTherm = false) (hf : p.forced = false) :
    { p with overTherm := false, forced := false, limit := p.limit, limTherm := p.limTherm } = p := by
  cases p
  cases ho
  cases hf
  rfl

/-- A reading within the limits, of a module that is within them, is only shown. -/
theorem State.thermAct_cool (ho : s.pw.overTherm = false) (hf : s.pw.forced = false) {rs : List (Nat × Nat)} {t : Nat} (ht : t ≤ 100) :
    s.thermAct rs t = { s with tl := { s.tl with cj := (List.range 8).map (fun d => BitVec.ofNat 8 (rs.getD d (0, 0)).1)
                                                 bj := (List.range 8).map (fun d => BitVec.ofNat 8 (rs.getD d (0, 0)).2) } } := by
  have hlimit : s.limitAfter t = s.pw.limit := by simp [State.limitAfter, ho, Nat.not_lt.mpr ht]
  have h105 : decide (105 < t) = false := decide_eq_false (by omega)
  have h100 : decide (100 < t) = false := decide_eq_false (by omega)
  simp only [State.thermAct, ho, hf, h105, h100, hlimit, Bool.false_and, Bool.or_false, Pw.cool_eq ho hf, if_true]
  exact State.capChanged_same _

/-- A reading above 100 °C puts the limit in force (15 R364). -/
theorem State.thermAct_limit (ho : s.pw.overTherm = false) (hf : s.pw.forced = false) {rs : List (Nat × Nat)} {t : Nat} (h100 : 100 < t)
    (ht : t ≤ 105) : (s.thermAct rs t).pw.overTherm = true ∧ (s.thermAct rs t).pw.forced = false ∧
      (s.thermAct rs t).pw.limit = some ((s.tl.hist.headD (0, 0, 0)).2.1 * 98 / 100) := by
  have hlimit : s.limitAfter t = some ((s.tl.hist.headD (0, 0, 0)).2.1 * 98 / 100) := by simp [State.limitAfter, ho, h100]
  have h105 : decide (105 < t) = false := decide_eq_false (by omega)
  simp only [State.thermAct, ho, hf, h105, decide_eq_true h100, hlimit, Bool.false_and, Bool.or_false]
  generalize hu : State.capChanged _ s.effCap = u
  obtain ⟨hist, heq⟩ := State.capChanged_eq { s with
    tl := { s.tl with cj := (List.range 8).map (fun d => BitVec.ofNat 8 (rs.getD d (0, 0)).1)
                      bj := (List.range 8).map (fun d => BitVec.ofNat 8 (rs.getD d (0, 0)).2) }
    pw := { s.pw with overTherm := true, forced := false, limit := some ((s.tl.hist.headD (0, 0, 0)).2.1 * 98 / 100)
                      limTherm := s.pw.limTherm } } s.effCap
  rw [if_neg (by decide), if_neg (by decide), State.event_pw, ← hu, heq]
  exact ⟨rfl, rfl, rfl⟩

theorem exec_thermalLimitRaise {l : Nat} (hl : s.pw.limit = some l) (ho : s.pw.overTherm = false) (hup : s.firmwareUp = true) :
    exec .thermalLimitRaise s = .next (({ s with
      pw := { s.pw with limit := if s.pw.cap ≤ l + s.pw.cap / 100 then none else some (l + s.pw.cap / 100) } } : State).capChanged s.effCap) := by
  show execThermalLimitRaise s = _
  simp only [execThermalLimitRaise, hl]
  rw [if_neg (by rw [ho, hup]; decide)]

end

/-- Settles O59: each row past its conditions; the setting, the budget and the voltage by the arithmetic of their tables. -/
theorem powerRules : Obligations.PowerRules := by
  unfold Obligations.PowerRules
  refine ⟨fun s pIn pFixed div skip uj mj hup hc hd hl hf ha => ?calm,
    fun s pIn pFixed div skip uj cid w det mj hup hc => exec_controlPeriod_newCap hup hc,
    fun s n => ⟨s.govern_slower, s.govern_faster, fun h => s.periodLevel_alert h n⟩, fun s pIn pFixed => ?drawn,
    fun s win => ⟨(State.capWithin_le_iff.mp le_rfl).1, (State.capWithin_le_iff.mp le_rfl).2, State.capWithin_attained⟩,
    fun cur c budget h64 h255 => fitLevel_rules c budget h64 h255, fun cur want => rfl, fun s d p hp hg => State.dieMv_le_table hp hg,
    fun s src ns hup hnew hlong => ⟨_, rfl, exec_pwrAlertN hup hnew hlong⟩, fun s src hk h => exec_powerAlertEnd_last hk h,
    fun s t hk hh ha => ?hold, fun s rs hup ho hf => ?reading, fun s rs hcold hup => ?trip,
    fun s l hl ho hup => exec_thermalLimitRaise hl ho hup⟩
  case calm =>
    obtain ⟨t, n, ht, hn, hrun⟩ := exec_controlPeriod_calm
      (pIn := pIn) (pFixed := pFixed) (div := div) (skip := skip) (uj := uj) (mj := mj) hup hc hd hf ha
    have hpw : t.pw = s.pw := by rw [ht]; rfl
    rw [State.endPeriod_calm (hpw ▸ hf) (hpw ▸ hl)] at hrun
    refine ⟨t, n, ht, hn, fun hle => ?_, fun hlt => ?_⟩
    · rwa [max_eq_left hle, decide_eq_false (Nat.not_lt.mpr hle)] at hrun
    · rwa [max_eq_right hlt.le, decide_eq_true hlt] at hrun
  case drawn =>
    obtain ⟨hin, hall, hperiod, hms⟩ := s.drawn_le pIn pFixed
    exact ⟨hin, hall, hperiod, fun h => by omega⟩
  case hold =>
    rw [exec_powerAlertHoldEnd hk hh ha]
    exact ⟨fun h => by rw [if_pos h], fun h => by rw [if_neg (Nat.not_le.mpr h)]⟩
  case reading =>
    refine ⟨_, rfl, fun h => ?_, fun h100 h105 => ⟨s.thermAct rs (hottest rs), ?_, State.thermAct_limit ho hf h100 h105⟩⟩
    · rw [exec_thermalSample (State.outOfCold_of_firmwareUp hup), if_neg (by omega), if_pos hup, State.thermAct_cool ho hf h]
    · rw [exec_thermalSample (State.outOfCold_of_firmwareUp hup), if_neg (by omega), if_pos hup]
  case trip =>
    rw [exec_thermalSample hcold, hup]
    rfl

end Sys2Proof.Machine
end
